-- ==== Sys2Proof/Word.lean ====
section
/-! DEFINITION. The word types of the CY4: bytes, parcels, instruction words, scalar registers and register names. -/

namespace Sys2Proof

/-- One byte of memory or of a vector register. -/
abbrev Byte := BitVec 8

/-- One 16-bit instruction parcel (R25). -/
abbrev Parcel := BitVec 16

/-- One 32-bit instruction word (R25). -/
abbrev IWord := BitVec 32

/-- A scalar register value or an address (R87, R169). -/
abbrev Word := BitVec 64

/-- A register number x0 to x31 or v0 to v31 (R30). -/
abbrev Reg := BitVec 5

end Sys2Proof
end

