-- ==== Sys2Proof/Config.lean ====
section
/-! DEFINITION. What the manual leaves open: free values (constants without a body) and device data.
A claim that holds, holds whatever these are. Each is named in the assumption log. -/

namespace Sys2Proof.Config

/-- The clocks that a core has counted since its count was last read; timing only (R99). Entry 6. -/
opaque coreClocks : Nat → Nat

/-- The nanoseconds since the module's time was last read, as the journal and the error log record it (R347, R361). Entry 6. -/
opaque nanoseconds : Nat → Nat

/-- The carry word of a tile element in a raw image; the split of X into S and C is not defined (R220). Entry 7. -/
opaque carryWord : Nat → Nat → BitVec 96

/-- Bytes 96 to 127 of a token record, which the manual does not define (R308). Entry 8. -/
opaque recordByte : Nat → Nat → BitVec 8

/-- Which of the cached translations of a region an access uses before a covering `tlbinv`; none, and so the tables as they stand, where the
index is past the last (R176). Entry 9. -/
opaque cachedLeaf : Nat → Nat → Nat

/-- The bytes of a bad destination chunk, and those that a store met before the chunk of a restore was filled: whether byte `i` is as the engine would
have written it (R251, code 0x04; R283). Entry 10. -/
opaque badChunkByteWritten : Nat → Nat → Bool

/-- A frame spill slot while its frame is held in hardware (R296). Entry 11. -/
opaque frameSlotByte : Nat → Nat → BitVec 8

/-- SHA-256 hashes of the four keys fused into the device (R355). Entry 12. -/
opaque fusedKeyHash : Nat → BitVec 256

/-- The four fused revocation bits (R355). Entry 12. -/
opaque keyRevoked : Nat → Bool

/-- The DER certificate chain of the device key (R354). Entry 12. -/
opaque certificateChain : List (BitVec 8)

/-- The signed attestation report made for a nonce, given the measured header and body, their SVN, the fuse counter and the die count; the
other fuses are constants, and the layout, the salt and the device key are not in the manual (R358). Entry 12. -/
opaque attestationReport : List (BitVec 8) → List (BitVec 8) → Nat → Nat → Nat → List (BitVec 8)

/-- A byte that a remote module returns to a transfer (R249, R352). Entry 14. -/
opaque remoteByte : Nat → Nat → BitVec 8

/-- Which of the values that a byte held before chunks of its transfer overwrote it a later chunk reads; none where the index is past the
last (R249). Entry 10. -/
opaque olderIndex : Nat → Nat → Nat

/-- How many of the latest stores to a fetch block an instruction fetch does not see yet (R29). Entry 23. -/
opaque fetchVersion : Nat → Nat → Nat

/-- Whether a restartable instruction that faults has performed an element above the one that faults (R189). Entry 25. -/
opaque performsAbove : Nat → Nat → Bool

/-- The bytes of the thermal readout, whose layout the manual does not give, from the temperatures of the dies (R363). Entry 13. -/
opaque thermalReadout : List (BitVec 16) → Nat → BitVec 8

/-- A 64-bit quantity that the manual does not fix, by step and by place in the step. Entry 13. -/
opaque freeWord : Nat → Nat → BitVec 64

/-- A byte that the manual does not fix, by step and by place. Entry 13. -/
opaque freeByte : Nat → Nat → BitVec 8

end Sys2Proof.Config
end

