-- ==== Sys2Proof/Syntax.lean ====
section
/-! DEFINITION. The instruction set as syntax: one constructor of `Instr` for each row of spec/opcode_table.json.
Rows with an encoding are instructions of a hart; the others are whole steps of the grants, engines, front ends, host and
start logic, whose operands stand in the state's record of the step being taken. -/

namespace Sys2Proof

/-- The fields of a format V instruction (R30). Fields an instruction does not use are zero (R31). -/
structure VArgs where
  vs2 : Reg
  mod : BitVec 3
  sz : BitVec 2
  pg : BitVec 4
  vd : Reg
  vs1 : Reg
  deriving DecidableEq, Repr

/-- The fields of a predicate-logic instruction, predicate numbers joined from their split fields (R166). -/
structure PArgs where
  ps2 : BitVec 6
  pg : BitVec 4
  pd : BitVec 6
  ps1 : BitVec 6
  deriving DecidableEq, Repr

/-- The fields of a predicate-to-scalar instruction (R166, R168). -/
structure CArgs where
  pg : BitVec 4
  rd : Reg
  ps1 : BitVec 6
  deriving DecidableEq, Repr

/-- The fields of a scalar floating-point instruction (R105). -/
structure FArgs where
  rs2 : Reg
  rm : BitVec 3
  fmt : BitVec 2
  rd : Reg
  rs1 : Reg
  deriving DecidableEq, Repr

/-- The fields of an atomic or ordered single access (R191). -/
structure AmoArgs where
  rs2 : Reg
  ty : BitVec 2
  ord : BitVec 2
  scope : BitVec 3
  rd : Reg
  rs1 : Reg
  deriving DecidableEq, Repr

/-- The fields of `opa` (R210). -/
structure OpaArgs where
  prow : BitVec 6
  pcol : BitVec 6
  neg : Bool
  dis : Bool
  tile : Bool
  vs2 : Reg
  mod2 : BitVec 3
  sz2 : BitVec 2
  mod1 : BitVec 3
  sz1 : BitVec 2
  vs1 : Reg
  deriving DecidableEq, Repr

/-- The fields of `resolve` (R215). -/
structure ResolveArgs where
  pg : BitVec 6
  rm : BitVec 3
  col : Bool
  fx : Bool
  sat : Bool
  tile : Bool
  isImm : Bool
  idx : BitVec 8
  vd : Reg
  rs1 : Reg
  deriving DecidableEq, Repr

/-- The fields of `acmp` (R218). -/
structure AcmpArgs where
  pg : BitVec 6
  cc : BitVec 3
  col : Bool
  zero : Bool
  tile : Bool
  isImm : Bool
  pd : BitVec 6
  idx : BitVec 8
  vs1 : Reg
  rs1 : Reg
  deriving DecidableEq, Repr

/-- The first word of a wide-vector form, less its immediate extension (R36). -/
structure VectorPrefix where
  pg : BitVec 6
  rm : BitVec 3
  immx : BitVec 17
  deriving DecidableEq, Repr

/-- The vector operations of majors 0x19 to 0x25 (R39), as bodies of the wide-vector form. -/
inductive VOp where
  | vadd | vsub | vaddSat | vsubSat | vmul | vdiv | vmin | vmax | vfma | vfms | vfnma | vfnms | vand | vor
  | vxor | vandn | vsll | vsrl | vsra | vrol | vneg | vabs | vsqrt | vrcp | vrsqrt | vfloor | vceil | vtrunc
  | vrint | vnot | vclz | vctz | vpopc | vidx | vcmpEq | vcmpNe | vcmpLt | vcmpLe | vcmpGt | vcmpGe | vcmpUno
  | vcmpOrd | vcvt | vcvtSat | vcvtBlk | vsel | vsplat | vext | vins | vperm | vslup | vsldn | vcompress
  | vredsum | vredsumO | vredmin | vredmax | vscan | vscanLin | vrenorm | vrng | vrngF
  deriving DecidableEq, Repr

/-- The vector memory operations of majors 0x29 to 0x2C (R179). -/
inductive MOp where
  | vld | vldO | vldTr | vldOTr | vst | vstO | vstX | vstOX | vlds | vldsO | vldsTr | vldsOTr | vsts | vstsO
  | vstsX | vstsOX | vgather | vgatherO | vscatter | vscatterO | vscatterX | vscatterOX
  deriving DecidableEq, Repr

/-- The predicate-logic operations of major 0x27 (R167). -/
inductive POp where
  | pand | por | pxor | pandn | pmov | pnot | pset | pclr | pbrk | pbrkb
  deriving DecidableEq, Repr

/-- The predicate-to-scalar operations of major 0x28 (R168). -/
inductive COp where
  | pcnt | pfirst | plast
  deriving DecidableEq, Repr

/-- The body of a wide-vector form: an instruction of majors 0x19 to 0x2C whose own pg field is zero (R36).
The immediate variant of `vsplat` is an instruction of its own. -/
inductive VectorBody where
  | vec (op : VOp) (a : VArgs)
  | mem (op : MOp) (a : VArgs)
  | pred (op : POp) (a : PArgs)
  | count (op : COp) (a : CArgs)
  | pair
  deriving DecidableEq, Repr

/-- The body of a wide-system form: the functions that accept a long immediate, less the operand it replaces (R37). -/
inductive SystemBody where
  | ladv (rd : Reg)
  | lrewind (pd : BitVec 6) (rd : Reg)
  | ltok (rd : Reg)
  | lpin (rd : Reg)
  | lunpin (rd : Reg)
  | lopen (pd : BitVec 6) (rd : Reg)
  | lset (rd : Reg)
  | perform (rd rs2 : Reg)
  | vperform (pg : BitVec 4) (rd rs2 : Reg)
  | resume (rs1 : Reg)
  | abort (rs1 : Reg)
  | qsig (rs2 : Reg)
  | qwait (rs2 : Reg)
  deriving DecidableEq, Repr

/-- The delivery modes a fabric connection may ask for (R349). -/
inductive DeliveryMode where
  | rod | rud | unreliable | idempotent
  deriving DecidableEq, Repr

/-- The ladder, effect and pre-emption instructions with operands. They are named apart from `Instr` so that the decoder's result can be
computed: the compiled form of an inductive type holds at most 245 constructors with fields. -/
inductive FarInstr where
  /-- R316 -/
  | hpre (rd rs1 rs2 : Reg)
  /-- R319 -/
  | hpark (rd : Reg)
  /-- R319 -/
  | hwake (rd rs1 rs2 : Reg)
  /-- R280 -/
  | ladv (rd rs1 : Reg)
  /-- R283 -/
  | lrewind (pd : BitVec 6) (rd rs1 : Reg)
  /-- R287 -/
  | ltok (rd rs1 : Reg)
  /-- R291 -/
  | lfork (pd : BitVec 6) (rd rs1 : Reg)
  /-- R287 -/
  | lmatch (rd rs1 rs2 : Reg)
  /-- R288 -/
  | lpin (rd rs1 : Reg)
  /-- R288 -/
  | lunpin (rd rs1 : Reg)
  /-- R289 -/
  | lopen (pd : BitVec 6) (rd rs1 : Reg)
  /-- R290 -/
  | lclose (rd : Reg)
  /-- R290 -/
  | lcloseS (rd : Reg)
  /-- R288 -/
  | lset (rd rs1 : Reg)
  /-- R305 -/
  | perform (rd rs1 rs2 : Reg)
  /-- R305 -/
  | vperform (pg : BitVec 4) (rd rs1 rs2 : Reg)
  /-- R299 -/
  | hpush (rd rs1 rs2 : Reg)
  /-- R310 -/
  | resume (rs1 rs2 : Reg)
  /-- R311 -/
  | abort (rs1 rs2 : Reg)
  /-- R312 -/
  | tkeep (rs1 rs2 : Reg)
  /-- R313 -/
  | tdrop (rs1 : Reg)
  deriving DecidableEq, Repr

/-- The steps of the machine, one constructor for each row of the opcode table. -/
inductive Instr where
  /-- R99 -/
  | cycles (rd : Reg)
  /-- R99 -/
  | retired (rd : Reg)
  /-- R95 -/
  | add (rd rs1 rs2 : Reg)
  /-- R95 -/
  | sub (rd rs1 rs2 : Reg)
  /-- R95 -/
  | and (rd rs1 rs2 : Reg)
  /-- R95 -/
  | or (rd rs1 rs2 : Reg)
  /-- R95 -/
  | xor (rd rs1 rs2 : Reg)
  /-- R95 -/
  | andn (rd rs1 rs2 : Reg)
  /-- R95 -/
  | sll (rd rs1 rs2 : Reg)
  /-- R95 -/
  | srl (rd rs1 rs2 : Reg)
  /-- R95 -/
  | sra (rd rs1 rs2 : Reg)
  /-- R95 -/
  | slt (rd rs1 rs2 : Reg)
  /-- R95 -/
  | sltu (rd rs1 rs2 : Reg)
  /-- R95 -/
  | min (rd rs1 rs2 : Reg)
  /-- R95 -/
  | max (rd rs1 rs2 : Reg)
  /-- R95 -/
  | minu (rd rs1 rs2 : Reg)
  /-- R95 -/
  | maxu (rd rs1 rs2 : Reg)
  /-- R95 -/
  | mul (rd rs1 rs2 : Reg)
  /-- R95 -/
  | mulhiSs (rd rs1 rs2 : Reg)
  /-- R95 -/
  | mulhiUu (rd rs1 rs2 : Reg)
  /-- R95 -/
  | mulhiSu (rd rs1 rs2 : Reg)
  /-- R95 -/
  | div (rd rs1 rs2 : Reg)
  /-- R95 -/
  | divu (rd rs1 rs2 : Reg)
  /-- R95 -/
  | rem (rd rs1 rs2 : Reg)
  /-- R95 -/
  | remu (rd rs1 rs2 : Reg)
  /-- R95 -/
  | clz (rd rs1 : Reg)
  /-- R95 -/
  | ctz (rd rs1 : Reg)
  /-- R95 -/
  | popc (rd rs1 : Reg)
  /-- R96 -/
  | addi (rd rs1 : Reg) (imm : BitVec 16)
  /-- R96 -/
  | andi (rd rs1 : Reg) (imm : BitVec 16)
  /-- R96 -/
  | ori (rd rs1 : Reg) (imm : BitVec 16)
  /-- R96 -/
  | xori (rd rs1 : Reg) (imm : BitVec 16)
  /-- R96 -/
  | slti (rd rs1 : Reg) (imm : BitVec 16)
  /-- R96 -/
  | sltiu (rd rs1 : Reg) (imm : BitVec 16)
  /-- R96 -/
  | slli (rd rs1 : Reg) (shamt : BitVec 6)
  /-- R96 -/
  | srli (rd rs1 : Reg) (shamt : BitVec 6)
  /-- R96 -/
  | srai (rd rs1 : Reg) (shamt : BitVec 6)
  /-- R97 -/
  | lis (rd : Reg) (imm : BitVec 16) (sh : BitVec 2)
  /-- R97 -/
  | lisK (rd : Reg) (imm : BitVec 16) (sh : BitVec 2)
  /-- R98 -/
  | addpc (rd : Reg) (imm : BitVec 16)
  /-- R100 -/
  | jal (rd : Reg) (imm : BitVec 21)
  /-- R100 -/
  | jalr (rd rs1 : Reg) (imm : BitVec 16)
  /-- R101 -/
  | beq (ra rb : Reg) (imm : BitVec 13)
  /-- R101 -/
  | bne (ra rb : Reg) (imm : BitVec 13)
  /-- R101 -/
  | blt (ra rb : Reg) (imm : BitVec 13)
  /-- R101 -/
  | bge (ra rb : Reg) (imm : BitVec 13)
  /-- R101 -/
  | bltu (ra rb : Reg) (imm : BitVec 13)
  /-- R101 -/
  | bgeu (ra rb : Reg) (imm : BitVec 13)
  /-- R102 -/
  | lb (rd rs1 : Reg) (off : BitVec 13)
  /-- R102 -/
  | lh (rd rs1 : Reg) (off : BitVec 13)
  /-- R102 -/
  | lw (rd rs1 : Reg) (off : BitVec 13)
  /-- R102 -/
  | ld (rd rs1 : Reg) (off : BitVec 13)
  /-- R102 -/
  | lbu (rd rs1 : Reg) (off : BitVec 13)
  /-- R102 -/
  | lhu (rd rs1 : Reg) (off : BitVec 13)
  /-- R102 -/
  | lwu (rd rs1 : Reg) (off : BitVec 13)
  /-- R103 -/
  | sb (rs rs1 : Reg) (off : BitVec 13)
  /-- R103 -/
  | sh (rs rs1 : Reg) (off : BitVec 13)
  /-- R103 -/
  | sw (rs rs1 : Reg) (off : BitVec 13)
  /-- R103 -/
  | sd (rs rs1 : Reg) (off : BitVec 13)
  /-- R109 -/
  | loop (k : Bool) (rs1 : Reg) (imm : BitVec 16)
  /-- R90 -/
  | crr (rd : Reg) (crn : BitVec 12)
  /-- R90 -/
  | crw (rd : Reg) (crn : BitVec 12) (rs1 : Reg)
  /-- R90 -/
  | crs (rd : Reg) (crn : BitVec 12) (rs1 : Reg)
  /-- R90 -/
  | crc (rd : Reg) (crn : BitVec 12) (rs1 : Reg)
  /-- R106 -/
  | fadd (a : FArgs)
  /-- R106 -/
  | fsub (a : FArgs)
  /-- R106 -/
  | fmul (a : FArgs)
  /-- R106 -/
  | fdiv (a : FArgs)
  /-- R106 -/
  | fsqrt (a : FArgs)
  /-- R106 -/
  | fmadd (a : FArgs)
  /-- R106 -/
  | fmin (a : FArgs)
  /-- R106 -/
  | fmax (a : FArgs)
  /-- R106 -/
  | fsignCp (a : FArgs)
  /-- R106 -/
  | fsignNg (a : FArgs)
  /-- R106 -/
  | fsignXr (a : FArgs)
  /-- R106 -/
  | feq (a : FArgs)
  /-- R106 -/
  | flt (a : FArgs)
  /-- R106 -/
  | fle (a : FArgs)
  /-- R107 -/
  | fcvt (a : FArgs)
  /-- R107 -/
  | fcvtInt64 (a : FArgs)
  /-- R107 -/
  | fcvtInt64Sat (a : FArgs)
  /-- R107 -/
  | fcvtNat64 (a : FArgs)
  /-- R107 -/
  | fcvtNat64Sat (a : FArgs)
  /-- R192 -/
  | amoadd (a : AmoArgs)
  /-- R192 -/
  | amoand (a : AmoArgs)
  /-- R192 -/
  | amoor (a : AmoArgs)
  /-- R192 -/
  | amoxor (a : AmoArgs)
  /-- R192 -/
  | amomin (a : AmoArgs)
  /-- R192 -/
  | amomax (a : AmoArgs)
  /-- R192 -/
  | amominu (a : AmoArgs)
  /-- R192 -/
  | amomaxu (a : AmoArgs)
  /-- R192 -/
  | amofx (a : AmoArgs)
  /-- R192 -/
  | amoswap (a : AmoArgs)
  /-- R192 -/
  | amocas (a : AmoArgs)
  /-- R192 -/
  | amofadd (a : AmoArgs)
  /-- R192 -/
  | lda (a : AmoArgs)
  /-- R192 -/
  | str (a : AmoArgs)
  /-- R197 -/
  | fence (set : BitVec 4) (scope : BitVec 3)
  /-- R198 -/
  | prefetch (rs1 rs2 : Reg)
  /-- R199 -/
  | tlbinv (rs1 : Reg)
  /-- R121 -/
  | setvl (rd rs1 : Reg) (wc : BitVec 3) (cap : Bool) (rs2 : Reg)
  /-- R122 -/
  | setvlG (rd rs1 : Reg) (wc : BitVec 3) (cap : Bool) (rs2 : Reg)
  /-- R135 -/
  | vcfg (vd : Reg) (tag : BitVec 5) (s b : Bool) (vsc : Reg)
  /-- R135 -/
  | vretag (vd : Reg) (tag : BitVec 5) (s b : Bool) (vsc : Reg)
  /-- R128 -/
  | hwpub (rs1 : Reg)
  /-- R125 -/
  | lpartRcl (rd rs1 rs2 : Reg)
  /-- R125 -/
  | lpartWt (rd rs1 : Reg)
  /-- R208 -/
  | mstart (rows cols : BitVec 8) (rs1 : Reg)
  /-- R208 -/
  | mstartKeep (rows cols : BitVec 8) (rs1 : Reg)
  /-- R147 -/
  | vadd (a : VArgs)
  /-- R147 -/
  | vsub (a : VArgs)
  /-- R147 -/
  | vaddSat (a : VArgs)
  /-- R147 -/
  | vsubSat (a : VArgs)
  /-- R147 -/
  | vmul (a : VArgs)
  /-- R148 -/
  | vdiv (a : VArgs)
  /-- R148 -/
  | vmin (a : VArgs)
  /-- R148 -/
  | vmax (a : VArgs)
  /-- R147 -/
  | vfma (a : VArgs)
  /-- R147 -/
  | vfms (a : VArgs)
  /-- R147 -/
  | vfnma (a : VArgs)
  /-- R147 -/
  | vfnms (a : VArgs)
  /-- R149 -/
  | vand (a : VArgs)
  /-- R149 -/
  | vor (a : VArgs)
  /-- R149 -/
  | vxor (a : VArgs)
  /-- R149 -/
  | vandn (a : VArgs)
  /-- R150 -/
  | vsll (a : VArgs)
  /-- R150 -/
  | vsrl (a : VArgs)
  /-- R150 -/
  | vsra (a : VArgs)
  /-- R150 -/
  | vrol (a : VArgs)
  /-- R151 -/
  | vneg (a : VArgs)
  /-- R151 -/
  | vabs (a : VArgs)
  /-- R151 -/
  | vsqrt (a : VArgs)
  /-- R151 -/
  | vrcp (a : VArgs)
  /-- R151 -/
  | vrsqrt (a : VArgs)
  /-- R151 -/
  | vfloor (a : VArgs)
  /-- R151 -/
  | vceil (a : VArgs)
  /-- R151 -/
  | vtrunc (a : VArgs)
  /-- R151 -/
  | vrint (a : VArgs)
  /-- R151 -/
  | vnot (a : VArgs)
  /-- R151 -/
  | vclz (a : VArgs)
  /-- R151 -/
  | vctz (a : VArgs)
  /-- R151 -/
  | vpopc (a : VArgs)
  /-- R151 -/
  | vidx (a : VArgs)
  /-- R152 -/
  | vcmpEq (a : VArgs)
  /-- R152 -/
  | vcmpNe (a : VArgs)
  /-- R152 -/
  | vcmpLt (a : VArgs)
  /-- R152 -/
  | vcmpLe (a : VArgs)
  /-- R152 -/
  | vcmpGt (a : VArgs)
  /-- R152 -/
  | vcmpGe (a : VArgs)
  /-- R152 -/
  | vcmpUno (a : VArgs)
  /-- R152 -/
  | vcmpOrd (a : VArgs)
  /-- R153 -/
  | vcvt (a : VArgs)
  /-- R153 -/
  | vcvtSat (a : VArgs)
  /-- R154 -/
  | vcvtBlk (a : VArgs)
  /-- R155 -/
  | vsel (a : VArgs)
  /-- R155 -/
  | vsplat (a : VArgs)
  /-- R155 -/
  | vsplatImm (pre : VectorPrefix) (vs1 : BitVec 5) (vd : Reg)
  /-- R156 -/
  | vext (a : VArgs)
  /-- R156 -/
  | vins (a : VArgs)
  /-- R157 -/
  | vperm (a : VArgs)
  /-- R157 -/
  | vslup (a : VArgs)
  /-- R157 -/
  | vsldn (a : VArgs)
  /-- R157 -/
  | vcompress (a : VArgs)
  /-- R158 -/
  | vredsum (a : VArgs)
  /-- R158 -/
  | vredsumO (a : VArgs)
  /-- R158 -/
  | vredmin (a : VArgs)
  /-- R158 -/
  | vredmax (a : VArgs)
  /-- R159 -/
  | vscan (a : VArgs)
  /-- R160 -/
  | vscanLin (a : VArgs)
  /-- R161 -/
  | vrenorm (a : VArgs)
  /-- R162 -/
  | vrng (a : VArgs)
  /-- R163 -/
  | vrngF (a : VArgs)
  /-- R164 -/
  | pair (pg : BitVec 4)
  /-- R167 -/
  | pand (a : PArgs)
  /-- R167 -/
  | por (a : PArgs)
  /-- R167 -/
  | pxor (a : PArgs)
  /-- R167 -/
  | pandn (a : PArgs)
  /-- R167 -/
  | pmov (a : PArgs)
  /-- R167 -/
  | pnot (a : PArgs)
  /-- R167 -/
  | pset (a : PArgs)
  /-- R167 -/
  | pclr (a : PArgs)
  /-- R167 -/
  | pbrk (a : PArgs)
  /-- R167 -/
  | pbrkb (a : PArgs)
  /-- R168 -/
  | pcnt (a : CArgs)
  /-- R168 -/
  | pfirst (a : CArgs)
  /-- R168 -/
  | plast (a : CArgs)
  /-- R182 -/
  | vld (a : VArgs)
  /-- R184 -/
  | vldO (a : VArgs)
  /-- R188 -/
  | vldTr (a : VArgs)
  /-- R188 -/
  | vldOTr (a : VArgs)
  /-- R182 -/
  | vst (a : VArgs)
  /-- R184 -/
  | vstO (a : VArgs)
  /-- R185 -/
  | vstX (a : VArgs)
  /-- R185 -/
  | vstOX (a : VArgs)
  /-- R181 -/
  | vlds (a : VArgs)
  /-- R184 -/
  | vldsO (a : VArgs)
  /-- R188 -/
  | vldsTr (a : VArgs)
  /-- R188 -/
  | vldsOTr (a : VArgs)
  /-- R181 -/
  | vsts (a : VArgs)
  /-- R184 -/
  | vstsO (a : VArgs)
  /-- R185 -/
  | vstsX (a : VArgs)
  /-- R185 -/
  | vstsOX (a : VArgs)
  /-- R187 -/
  | vgather (a : VArgs)
  /-- R187 -/
  | vgatherO (a : VArgs)
  /-- R187 -/
  | vscatter (a : VArgs)
  /-- R187 -/
  | vscatterO (a : VArgs)
  /-- R185 -/
  | vscatterX (a : VArgs)
  /-- R185 -/
  | vscatterOX (a : VArgs)
  /-- R248 -/
  | scopy (pd : BitVec 6) (rd rs1 rs2 : Reg)
  /-- R261 -/
  | sbind (vd rs1 : Reg)
  /-- R265 -/
  | sunbind (vd : Reg)
  /-- R264 -/
  | srearm (vd : Reg)
  /-- R267 -/
  | tkput (q p : BitVec 2)
  /-- R267 -/
  | tkget (q p : BitVec 2)
  /-- R346 -/
  | qsig (rs1 rs2 : Reg)
  /-- R346 -/
  | qwait (rs1 rs2 : Reg)
  /-- R325 -/
  | vspill (reg : BitVec 6) (rs1 : Reg)
  /-- R325 -/
  | vfill (reg : BitVec 6) (rs1 : Reg)
  /-- R325 -/
  | vspillP (reg : BitVec 6) (rs1 : Reg)
  /-- R325 -/
  | vfillP (reg : BitVec 6) (rs1 : Reg)
  /-- R327 -/
  | pfset (reg : BitVec 6)
  /-- R326 -/
  | evictV (rs1 : Reg)
  /-- R326 -/
  | evictP (rs1 : Reg)
  /-- R326 -/
  | evictA (rs1 : Reg)
  /-- R213 -/
  | opa (a : OpaArgs)
  /-- R216 -/
  | resolve (a : ResolveArgs)
  /-- R218 -/
  | acmp (a : AcmpArgs)
  /-- R219 -/
  | accstRaw (tile : Bool) (rs1 : Reg)
  /-- R219 -/
  | accstFx (tile : Bool) (rs1 : Reg)
  /-- R219 -/
  | accldRaw (tile : Bool) (rs1 : Reg)
  /-- R221 -/
  | acczero (tile both : Bool)
  /-- R221 -/
  | anchor (tile isImm : Bool) (imm : BitVec 8) (rs1 : Reg)
  /-- R36 -/
  | wideVectorForm (pre : VectorPrefix) (body : VectorBody)
  /-- R37 -/
  | wideSystemForm (imm : BitVec 26) (body : SystemBody)
  /-- R44 -/
  | cAddi (rd : Reg) (imm : BitVec 5)
  /-- R44 -/
  | cMv (rd rs : Reg)
  /-- R44 -/
  | cAdd (rd rs : Reg)
  /-- R44 -/
  | cLd (r rs1 : BitVec 3) (off : BitVec 4)
  /-- R44 -/
  | cSd (r rs1 : BitVec 3) (off : BitVec 4)
  /-- R44 -/
  | cBz (rs : BitVec 3) (imm : BitVec 6)
  /-- R44 -/
  | cBnz (rs : BitVec 3) (imm : BitVec 6)
  /-- R44 -/
  | cJ (imm : BitVec 10)
  /-- R196 -/
  | fenceSv
  /-- R196 -/
  | fenceVs
  /-- R122 -/
  | gangLengthGrant
  /-- R129 -/
  | chainGrant
  /-- R130 -/
  | bar
  /-- R130 -/
  | barrierComplete
  /-- R131 -/
  | jnext
  /-- R132 -/
  | yield
  /-- R133 -/
  | endHart
  /-- R125 -/
  | lpartWtRelease
  /-- R208 -/
  | mstop
  /-- R244 -/
  | channelGrant
  /-- R249 -/
  | scopyChunkComplete
  /-- R263 -/
  | stripFetch
  /-- R267 -/
  | tokenFifoRelease
  /-- R346 -/
  | qwaitRelease
  /-- R280 -/
  | cairnBlockCopy
  /-- R283 -/
  | ladderRestoreChunk
  /-- R300 -/
  | hpop
  /-- R317 -/
  | preempt
  /-- R44 -/
  | cRet
  /-- R44 -/
  | cEnd
  /-- R44 -/
  | cYield
  /-- R20 -/
  | placeGang
  /-- R23 -/
  | jobCompletion
  /-- R345 -/
  | spreadSteal
  /-- R337 -/
  | summitScan
  /-- R338 -/
  | declineDelay
  /-- R339 -/
  | nop
  /-- R342 -/
  | job
  /-- R340 -/
  | copy
  /-- R340 -/
  | copyComplete
  /-- R340 -/
  | signal
  /-- R340 -/
  | wait
  /-- R340 -/
  | fenceCommand
  /-- R368 -/
  | indirect
  /-- R339 -/
  | createStream
  /-- R339 -/
  | destroyStream
  /-- R339 -/
  | cairnStoreSize
  /-- R339 -/
  | spillAreas
  /-- R339 -/
  | invalidate
  /-- R339 -/
  | allocateSignal
  /-- R367 -/
  | freeSignal
  /-- R335 -/
  | tailWrite
  /-- R350 -/
  | controlRegionWrite
  /-- R351 -/
  | rdmaWrite
  /-- R350 -/
  | rdmaRead
  /-- R349 -/
  | fabricAtomic
  /-- R349 -/
  | connectionSetup
  /-- R349 -/
  | transportGiveUp
  /-- R354 -/
  | ident
  /-- R354 -/
  | upload
  /-- R354 -/
  | select
  /-- R354 -/
  | reset
  /-- R354 -/
  | status
  /-- R358 -/
  | attest
  /-- R364 -/
  | resumeRequest
  /-- R353 -/
  | powerGood
  /-- R353 -/
  | baseMode
  /-- R355 -/
  | firmwareVerify
  /-- R356 -/
  | memoryTraining
  /-- R363 -/
  | thermalSample
  /-- R359 -/
  | singleBitError
  /-- R359 -/
  | uncorrectableRead
  /-- R360 -/
  | linkFlitRetry
  /-- R41 -/
  | illegalInstruction
  /-- R28 -/
  | instructionFetchFault
  /-- R237 -/
  | storeReachesHome
  /-- R362 -/
  | mainInputOff
  /-- R316 -/
  | hpre (rd rs1 rs2 : Reg)
  /-- R319 -/
  | hpark (rd : Reg)
  /-- R319 -/
  | hwake (rd rs1 rs2 : Reg)
  /-- R280 -/
  | ladv (rd rs1 : Reg)
  /-- R283 -/
  | lrewind (pd : BitVec 6) (rd rs1 : Reg)
  /-- R287 -/
  | ltok (rd rs1 : Reg)
  /-- R291 -/
  | lfork (pd : BitVec 6) (rd rs1 : Reg)
  /-- R287 -/
  | lmatch (rd rs1 rs2 : Reg)
  /-- R288 -/
  | lpin (rd rs1 : Reg)
  /-- R288 -/
  | lunpin (rd rs1 : Reg)
  /-- R289 -/
  | lopen (pd : BitVec 6) (rd rs1 : Reg)
  /-- R290 -/
  | lclose (rd : Reg)
  /-- R290 -/
  | lcloseS (rd : Reg)
  /-- R288 -/
  | lset (rd rs1 : Reg)
  /-- R305 -/
  | perform (rd rs1 rs2 : Reg)
  /-- R305 -/
  | vperform (pg : BitVec 4) (rd rs1 rs2 : Reg)
  /-- R299 -/
  | hpush (rd rs1 rs2 : Reg)
  /-- R310 -/
  | resume (rs1 rs2 : Reg)
  /-- R311 -/
  | abort (rs1 rs2 : Reg)
  /-- R312 -/
  | tkeep (rs1 rs2 : Reg)
  /-- R313 -/
  | tdrop (rs1 : Reg)
  deriving DecidableEq, Repr

/-- A far instruction as a constructor of `Instr`. -/
noncomputable def FarInstr.instr : FarInstr → Instr
  | .hpre rd rs1 rs2 => .hpre rd rs1 rs2
  | .hpark rd => .hpark rd
  | .hwake rd rs1 rs2 => .hwake rd rs1 rs2
  | .ladv rd rs1 => .ladv rd rs1
  | .lrewind pd rd rs1 => .lrewind pd rd rs1
  | .ltok rd rs1 => .ltok rd rs1
  | .lfork pd rd rs1 => .lfork pd rd rs1
  | .lmatch rd rs1 rs2 => .lmatch rd rs1 rs2
  | .lpin rd rs1 => .lpin rd rs1
  | .lunpin rd rs1 => .lunpin rd rs1
  | .lopen pd rd rs1 => .lopen pd rd rs1
  | .lclose rd => .lclose rd
  | .lcloseS rd => .lcloseS rd
  | .lset rd rs1 => .lset rd rs1
  | .perform rd rs1 rs2 => .perform rd rs1 rs2
  | .vperform pg rd rs1 rs2 => .vperform pg rd rs1 rs2
  | .hpush rd rs1 rs2 => .hpush rd rs1 rs2
  | .resume rs1 rs2 => .resume rs1 rs2
  | .abort rs1 rs2 => .abort rs1 rs2
  | .tkeep rs1 rs2 => .tkeep rs1 rs2
  | .tdrop rs1 => .tdrop rs1

/-- What the decoder reads: an instruction, near or far. -/
inductive Code where
  | near (i : Instr)
  | far (i : FarInstr)
  deriving DecidableEq, Repr

/-- The instruction that was read. -/
noncomputable def Code.instr : Code → Instr
  | .near i => i
  | .far i => i.instr

end Sys2Proof
end

