-- ==== Sys2Proof/Machine/State.lean ====
section
/-! DEFINITION. The state of the module: the hart whose turn it is, every other hart, gangs, jobs, engines, dies and memory,
as plain data; the reasons a step can stop; and the state after reset. -/

namespace Sys2Proof.Machine

/-- Keyed data in one canonical form: keys strictly rising, and no entry equal to what an unlisted key reads as. -/
abbrev Sparse (α : Type) := List (Nat × α)

/-- A register image or memory contents: unlisted bytes read as zero. -/
abbrev Image := List Host.Cell

/-- One bit for each element index, as a number. -/
abbrev Mask := Nat

/-! ### The hart -/

/-- Identity and placement (R17, R113, R172). `slot`, `rank`, `gang`, `nh`, `first` and `lanes` are the fields of HID, GID and
LANES; `gangKey` and `job` name records of this state. -/
structure HartId where
  core : Nat
  slot : Nat
  rank : Nat
  nh : Nat
  gang : Nat
  first : Nat
  lanes : Nat
  ctx : BitVec 16
  root : Nat
  gangKey : Nat
  job : Nat
  deriving DecidableEq, Repr

/-- What a hart asks of a grant: its rank and destination, the width, the length and the cap (R121, R122). -/
structure LengthRequest where
  rank : Nat
  rd : Reg
  width : Nat
  avl : Nat
  cap : Nat
  deriving DecidableEq, Repr

/-- The fields of a binding record (R260). -/
structure BindRecord where
  base : Nat
  bitoff : Nat
  npl : Nat
  sc : Bool
  sb : Bool
  tag : BitVec 5
  nrows : Nat
  rowlen : Nat
  estr : Nat
  pitch : Int
  plpitch : Int
  sbase : Nat
  spitch : Int
  deriving DecidableEq, Repr

/-- What a waiting hart waits at, with the operands that its release needs (R121, R122, R125, R130, R133, R244, R267, R319, R346). -/
inductive Wait where
  /-- `setvl` on its chain source. -/
  | setvl (r : LengthRequest)
  | setvlG
  | bar
  | lpartWt (rd : Reg) (slot : Word)
  /-- `tkput` or `tkget`, by queue and partner. -/
  | fifo (put : Bool) (q p : BitVec 2)
  | qwait (id : Nat) (v : Word) (length : Nat)
  /-- `end`, or an `abort` to the base frame, until the hart's transfers complete. -/
  | finish
  /-- `hpark`, until the hart's transfers complete. -/
  | park
  /-- An instruction that follows a transfer, a restore or its block copies: it waits in its queue, and the hart goes on. -/
  | engine
  /-- An indexed instruction between element accesses, with the elements it has still to perform and whether it compares in replay mode
  (R187, R285, R317). -/
  | elements (left : Nat) (compare : Bool)
  /-- `accst` or `accld` between rows; VSTART names the next row (R317). -/
  | rows
  /-- The scalar stream, for an older instruction that waits in another queue (R91, R136, R141). -/
  | queue
  deriving DecidableEq, Repr

/-- The condition of a hart slot. -/
inductive Condition where
  /-- No hart: never placed, or ended (R133). -/
  | vacant
  /-- The hart runs instructions. -/
  | running
  /-- The hart's oldest instruction has issued and not retired. -/
  | waiting (on : Wait)
  /-- The hart gave up its lanes; `hpark` will write its destination when it is woken (R319). -/
  | parked (rd : Reg)
  /-- The hart found no handler and ends once its transfers complete (R304). -/
  | halted (id : BitVec 16) (epc : Word)
  deriving DecidableEq, Repr

/-- One hardware loop level (R108). -/
structure Loop where
  count : Word
  start : Word
  stop : Word
  armed : Word
  close : Bool
  deriving DecidableEq, Repr

/-- Floating-point control: FFLAGS, FRM, XCLS (R72, R73, R143). -/
structure FpState where
  fflags : BitVec 6
  frm : BitVec 3
  xcls : BitVec 6
  deriving DecidableEq, Repr

/-- The register tags (R59), in the order of their codes. -/
inductive Tag where
  | nat8 | nat16 | nat32 | nat64 | int8 | int16 | int32 | int64 | fp32 | fp16 | bf16 | e4m3 | e5m2 | e2m1 | e8m0 | fx96
  deriving DecidableEq, Repr

/-- One entry of VTAGS (R140): the tag, and the sidecar with its block flag. -/
structure TagEntry where
  tag : Tag
  s : Bool
  b : Bool
  vsc : Reg
  deriving DecidableEq, Repr

/-- The vector side (R116, R118, R138 to R143, R321, R322). Predicates, pf, pe and XMASK hold bit e for element e. The
presence and dirty words use the bit positions of VDIRTY and PDIRTY. -/
structure VecState where
  vl : Nat
  vstart : Nat
  mz : Bool
  ta : Bool
  regs : Vector Image 32
  tags : Vector TagEntry 32
  preds : Vector Mask 48
  pf : Mask
  pe : Mask
  xmask : Mask
  present : BitVec 32
  ppresent : BitVec 51
  dirty : BitVec 32
  pdirty : BitVec 51
  deriving DecidableEq, Repr

/-- The matrix side (R202 to R205, R223). Element (i, j) of a tile has key 256·i + j and holds X. -/
structure MatState where
  m : Bool
  nz0 : Bool
  nz1 : Bool
  rows : Nat
  cols : Nat
  anchor0 : BitVec 8
  anchor1 : BitVec 8
  aovf : BitVec 2
  acc0 : Sparse Int
  acc1 : Sparse Int
  present : BitVec 2
  dirty : BitVec 2
  deriving DecidableEq, Repr

/-- Chaining (R127). -/
structure ChainState where
  en : Bool
  src : BitVec 3
  final : Bool
  index : BitVec 63
  pos : BitVec 63
  deriving DecidableEq, Repr

/-- Privilege, deterministic mode, a pending reclaim and the scalar data partition in 4 KiB granules (R93, R115, R125). -/
structure PrivState where
  sup : Bool
  det : Bool
  reclaim : Option Nat
  sdbase : BitVec 6
  sdlim : BitVec 7
  deriving DecidableEq, Repr

/-- A handler frame (R296). -/
structure Frame where
  serial : BitVec 32
  lo : BitVec 16
  hi : BitVec 16
  link : BitVec 8
  target : Word
  priv : Bool
  rd : Reg
  exit : Word
  sp : Word
  deriving DecidableEq, Repr

/-- Whether a token record is free (R308). -/
inductive TokenKind where
  | free | oneShot | multiShot
  deriving DecidableEq, Repr

/-- How the performer continues (R310). -/
inductive ResumeKind where
  /-- After a `perform` or `vperform` of this length, its result written to `rd`. -/
  | after (length : Nat) (rd : Reg)
  /-- By executing the instruction at EPC again. -/
  | again
  /-- By executing the indexed instruction at EPC again under pf (R187). -/
  | underPf
  deriving DecidableEq, Repr

/-- What the hart keeps of a token record, apart from its bytes in memory (R302, R308). -/
structure Token where
  gen : BitVec 32
  kind : TokenKind
  epc : Word
  cause : BitVec 24
  frame : Nat
  serial : BitVec 32
  topSerial : BitVec 32
  depth : Nat
  srch : Nat
  pmask : Bool
  sup : Bool
  resume : ResumeKind
  capaddr : Word
  deriving DecidableEq, Repr

/-- Effects (R295, R302, R303, R316, R323). `frames` are the topmost frames, at most eight, the top first; a deeper frame lies
in memory at HSP. `underPf` marks that the instruction at the pc re-executes under pf, `hold` that the
handler's first instruction has not retired (R318). -/
structure EffState where
  hsp : Word
  ppend : Bool
  pmask : Bool
  srch : Nat
  depth : Nat
  frames : List Frame
  pushes : BitVec 32
  message : Word
  requester : BitVec 8
  lastFrontEnd : Bool
  tokbase : Word
  tokens : Vector Token 64
  epc : Word
  ecause : BitVec 24
  eval : Word
  vcap : BitVec 32
  pcap : BitVec 51
  underPf : Bool
  hold : Bool
  deriving DecidableEq, Repr

/-- A strip delivered ahead of its read, or the mark of the fault that ended it (R262, R264). -/
inductive Strip where
  | data (codes : List Nat) (scales : List Byte)
  | marked (kind : BitVec 3) (addr : Word)
  deriving DecidableEq, Repr

/-- A bound register (R261 to R264): its record, strip length, head strip and the strips fetched ahead. -/
structure Binding where
  reg : Reg
  record : BindRecord
  sl : Nat
  head : Nat
  ahead : List Strip
  deriving DecidableEq, Repr

/-- An instruction that waits in a queue other than the scalar one while the hart goes on (R232, R244, R267, R278). -/
inductive Aside where
  /-- A `tkput` or `tkget`, by queue and partner. -/
  | fifo (put : Bool) (q p : BitVec 2)
  /-- A `scopy` after its dispatch, with its destination, its source, the first two dwords of its record, the hart's privilege, and
  whether the bits of pd are cleared. -/
  | copy (pd : BitVec 6) (dst src d0 d1 : Word) (sup cleared : Bool)
  /-- An `sbind` after its dispatch, with its record and strip length. -/
  | bind (vd : Reg) (r : BindRecord) (sl : Nat)
  /-- Any other instruction of the vector or the ladder queue, by its words, and whether it can still fault. -/
  | later (w u : IWord) (faults : Bool)
  deriving DecidableEq, Repr

/-- Engine state of a hart: token FIFOs from queue Q to queue P at 4·Q + P, bindings, SFSTRIP, the ladder stream, its own count of `jnext`,
and the predicates that a transfer has reported into (R131, R240, R264, R267, R276). A count below zero is that of an empty FIFO from which
an older `tkget` popped a token whose `tkput` was undone with a faulting instruction between them, and is put again (entry 24). -/
structure EngState where
  fifos : Vector Int 16
  masks : Mask
  bindings : List Binding
  sfKind : BitVec 3
  sfReg : Reg
  sfStrip : BitVec 48
  stream : Option Nat
  jnexts : Nat
  deriving DecidableEq, Repr

/-- A store that has retired and is not performed (R228, R231): its stream, place and bytes; `rel` for a release, with its scope; `both`
once an order at hart scope lets the other stream see it (R196); `readS` and `readV` once a scalar or a vector load of the hart has read it;
`group` names the ordered instruction whose element it is (R184); `epoch` counts the fences with ww before it; `age` is the step of its
instruction. -/
structure HeldStore where
  vec : Bool
  key : Nat
  bytes : List Byte
  rel : Option (BitVec 3)
  both : Bool
  readS : Bool
  readV : Bool
  group : Option Nat
  epoch : Nat
  age : Nat
  deriving DecidableEq, Repr

/-- A load that has retired and has not read memory yet (R231, R242): its destination, and the places it will read. -/
inductive HeldLoad where
  /-- A scalar load of `n` bytes, sign-extended or not. -/
  | scalar (rd : Reg) (key n : Nat) (sx : Bool)
  /-- A vector load without a fault: its register, whose inactive and tail elements are placed, and the elements with their keys, each of
  `size` bytes or a nibble of one. -/
  | vector (vd : Reg) (nibble : Bool) (size : Nat) (elems : List (Nat × Nat))
  deriving DecidableEq, Repr

/-- Bytes that a load of one stream read before its turn came (R231, R242). -/
structure Early where
  vec : Bool
  key : Nat
  bytes : List Byte
  deriving DecidableEq, Repr

/-- The accesses of a hart that are not performed in program order: stores and loads held back, oldest first, each load with the step of its
instruction, and bytes read early. -/
structure OrderState where
  stores : List HeldStore
  loads : List (Nat × HeldLoad)
  early : List Early
  epoch : Nat
  deriving DecidableEq, Repr

/-- One hart. -/
structure Hart where
  id : HartId
  cond : Condition
  pc : Word
  x : Vector Word 32
  retired : Word
  iw0 : IWord
  iw1 : IWord
  loop0 : Loop
  loop1 : Loop
  fp : FpState
  vec : VecState
  mat : MatState
  chain : ChainState
  priv : PrivState
  eff : EffState
  eng : EngState
  order : OrderState
  deriving DecidableEq, Repr

/-- An instruction that waits in its queue (R136, R267, R317): its hart's key, the hart as it stood before the instruction, whether a younger
one has acted outside the hart since, the record of the Preempt token that withdrew it, if one did, the step of its issue, and the members
of a pair, each as its words and its length. -/
structure Pend where
  hart : Nat
  what : Aside
  before : Hart
  acted : Bool
  token : Option Nat
  age : Nat
  members : List (IWord × IWord × Nat)
  deriving DecidableEq, Repr

/-- Module core index and slot as one number, 8·core + slot: the name of a hart in events. -/
def Hart.key (h : Hart) : Nat := 8 * h.id.core + h.id.slot

/-! ### Gangs and jobs -/

/-- A gang (R17, R122, R130, R131). `issued` holds the requests of the harts that wait at `setvl.g`, `chunks`
the chunks after the first, and `ended` the rank and published INDEX of each member that has ended (R129). -/
structure Gang where
  key : Nat
  job : Nat
  gen : BitVec 16
  arrived : BitVec 8
  issued : List LengthRequest
  chunks : List (Nat × Nat)
  ended : List (Nat × BitVec 63)
  deriving DecidableEq, Repr

/-- A job card as read (R342). -/
structure Card where
  addr : Word
  entry : Word
  args : Word
  trips : Nat
  minchunk : Nat
  grain : Nat
  gangs : Nat
  slots : List Word
  spread : Bool
  det : Bool
  lanes : Nat
  harts : Nat
  sv : Bool
  signal : Nat
  sigval : Word
  deriving DecidableEq, Repr

/-- A job's part on one die: its undealt range, the gangs still to place, and whether it gives its share up (R22, R24, R345). -/
structure Share where
  die : Nat
  lo : Nat
  hi : Nat
  unplaced : List Nat
  stopped : Bool
  reported : Nat
  deriving DecidableEq, Repr

/-- A job (R23, R342): the command that launched it, the context it runs in, and its failure if a hart halted (R304). -/
structure Job where
  key : Nat
  die : Nat
  queue : Nat
  seq : Nat
  prio : Nat
  ctx : BitVec 16
  root : Nat
  supent : Word
  card : Card
  shares : List Share
  steals : Nat
  tarnCores : List Nat
  failed : Option (BitVec 16 × Word)
  deriving DecidableEq, Repr

/-! ### Engines -/

/-- Who started a transfer: a hart with its completion predicate, or a COPY command (R248, R340). -/
inductive Owner where
  | hart (key : Nat) (pd : BitVec 6)
  | copy (die seq : Nat)
  deriving DecidableEq, Repr

/-- A transfer in flight (R247 to R251): `gaveUp` lists the chunks that the transport gave up on, `noHeader` those of them whose header it
did not bring, `old` the aligned 8-byte words that chunks overwrote where source and destination may overlap, `read` the words of its source
that it has read ahead of their chunk's end, and `wrote` the pieces of chunks (chunk, offset, length) that it has written so. -/
structure Transfer where
  key : Nat
  owner : Owner
  core : Nat
  ctx : BitVec 16
  root : Nat
  sup : Bool
  src : Word
  dst : Word
  len : Nat
  cs : Nat
  expand : Bool
  list : Word
  pending : List Nat
  gaveUp : List Nat
  noHeader : List Nat
  old : List (Nat × List Byte)
  read : List (Nat × List Byte)
  wrote : List (Nat × Nat × Nat)
  badCount : Nat
  deriving DecidableEq, Repr

/-- A cairn: its position and the stored block of each block of the stream's segments (R271, R280). -/
structure Cairn where
  pos : Nat
  blocks : List Nat
  deriving DecidableEq, Repr

/-- A restore in progress (R283, R289, R291): the cairn's blocks, the chunks left, the hart that started it, the harts and predicates
that it reports into, what its chunk 0 writes into the exact-region words, whether `lrewind` started it, and the places, with their lengths,
that stores have written meanwhile. -/
structure Restore where
  blocks : List Nat
  chunks : List Nat
  hart : Nat
  reports : List (Nat × BitVec 6)
  exact : Option Nat
  rewind : Bool
  stored : List (Nat × Nat)
  deriving DecidableEq, Repr

/-- A stream (R273 to R276, R284, R285, R288, R290). `pages` holds the translations of the last binding. -/
structure Stream where
  id : Nat
  ctx : BitVec 16
  root : Nat
  k : Nat
  cls : Nat
  segs : List (Nat × Nat)
  logbase : Nat
  logcap : Nat
  exws : List Nat
  lpos : Nat
  llen : Nat
  ltarget : Nat
  lcost : Nat
  cmps : Nat
  bad : Bool
  cairns : List Cairn
  pins : List Nat
  bound : Nat
  swapped : Bool
  pages : Sparse Nat
  written : List Nat
  copies : List Nat
  restore : Option Restore
  deriving DecidableEq, Repr

/-! ### Dies and the module -/

/-- A store that waits in a die's outbound queue: home address and bytes (R237). -/
structure OutStore where
  pa : Nat
  bytes : List Byte
  deriving DecidableEq, Repr

/-- A leaf as the walker found it: the page's physical base for the 64 KiB region, memory type and permissions (R173). -/
structure Leaf where
  pa : Nat
  remote : Bool
  u : Bool
  x : Bool
  w : Bool
  r : Bool
  deriving DecidableEq, Repr

/-- A cached translation of one 64 KiB region (R175). -/
structure TlbEntry where
  ctx : BitVec 16
  region : Nat
  leaf : Leaf
  deriving DecidableEq, Repr

/-- The state of a command (R347). -/
inductive Phase where
  | accepted | started | completed | failed
  deriving DecidableEq, Repr

/-- A command the front end has accepted and not finished (R340, R368); `card` is the card of a JOB as it was read at acceptance (R342),
`left` holds the buffer commands of an indirect command not yet accepted, `fail` the SEQ and code of its lowest-numbered failed one. -/
structure Command where
  seq : Nat
  queue : Nat
  unit : List Byte
  card : Option Card
  phase : Phase
  parent : Option Nat
  left : List Nat
  fail : Option (Nat × Nat)
  deriving DecidableEq, Repr

/-- The core clock of a die (R363). -/
inductive Clock where
  | full | throttled | slow
  deriving DecidableEq, Repr

/-- A hardware slot of a mapped queue, with its copy of the queue record (R336). -/
structure Slot where
  slot : Nat
  queue : Nat
  record : List Byte
  deriving DecidableEq, Repr

/-- A die: queue state, commands, translations, outbound stores, cairn store sizes in MiB, clock counts of its cores and temperatures.
`unsealed` lists the sequence numbers of journal entries whose SEQ reads as all ones (R347). -/
structure Die where
  seq : Nat
  jseq : Nat
  signals : List (Nat × BitVec 16)
  pend : List Nat
  blocked : List Nat
  last : Vector Nat 8
  slots : List Slot
  commands : List Command
  unsealed : List Nat
  request : Option (Nat × Nat)
  declined : List Nat
  outbound : List OutStore
  tlb : List TlbEntry
  storeMiB : Nat
  dramMiB : Nat
  lpMiB : Nat
  grants : Vector Nat 8
  cycles : Vector Nat 8
  clock : Clock
  junction : BitVec 16
  layer0 : BitVec 16
  layer1 : BitVec 16
  refresh0 : Bool
  refresh1 : Bool
  logSerial : Nat
  deriving DecidableEq, Repr

/-- The stages of start (R353); `off` with the main input off (R362). -/
inductive Stage where
  | off | held | base | verified | full
  deriving DecidableEq, Repr

/-- A Col link: lanes of its width as 4, 2, 1 or 0 quarters, and failed retries in a row (R360). -/
structure Link where
  d1 : Nat
  d2 : Nat
  quarters : Nat
  failures : Nat
  deriving DecidableEq, Repr

/-- The module: stage, slots, fuses, links, retired blocks and what the outside sees (R353 to R362). `starting` marks that stage 1
will run, `tarnSections` holds the `tarn` sections that a loader has left for the front ends, by context, card and offset in the Tarn (R53, R54, entry 36),
`request` is the mailbox request not yet answered, `nanos` the nanoseconds since module reset as they were last read, `answer` and
`refusedLast` are what the last fabric request received. `resuming` marks that stages 1 and 2 run for a RESUME. -/
structure Module where
  stage : Stage
  selected : Nat
  running : Option Nat
  failA : Nat
  failB : Nat
  stageTwoFailed : Bool
  resuming : Bool
  svn : Nat
  shutdown : Bool
  starting : Bool
  trained : Bool
  links : List Link
  retiredBlocks : List Nat
  lasting : List (List Byte)
  connections : List DeliveryMode
  tarnContext : Vector (Option (BitVec 16)) 32
  tarnSections : List (BitVec 16 × Word × Nat × List Byte)
  nanos : Nat
  request : List Byte
  answer : List Byte
  refusedLast : Bool
  deriving DecidableEq, Repr

/-- The operands of a step that is no instruction of a hart; each step names the ones it reads. -/
structure EventArgs where
  die : Nat
  hart : Nat
  core : Nat
  queue : Nat
  item : Nat
  chunk : Nat
  reg : Reg
  addr : Word
  count : Nat
  control : Bool
  good : Bool
  unit : BitVec 8
  effect : BitVec 16
  temps : BitVec 16 × BitVec 16 × BitVec 16
  mode : DeliveryMode
  bytes : List Byte
  deriving DecidableEq, Repr

/-- Whose turn a step is: a hart by its key, or a step of another agent with its operands. -/
inductive Turn where
  | hart (key : Nat)
  /-- As `hart`, but an instruction that R317 lets a pre-emption interrupt inside stops: `accst` and `accld` after `count` rows, an indexed
  instruction after the elements whose bits `count` has. -/
  | part (key count : Nat)
  /-- As `hart`, but the accesses of the instruction may be held back, and held ones stay so. -/
  | loose (key : Nat)
  /-- A hart's scalar or vector stream reads `n` bytes early. -/
  | early (key : Nat) (vec : Bool) (at_ n : Nat)
  /-- The store or the load of a hart at an index of its held ones is performed, if it may be. -/
  | store (key i : Nat)
  | load (key i : Nat)
  /-- A transfer reads `n` bytes of its source, or writes `n` bytes of chunk `c` from offset `o` on, ahead of the chunk's end (R249). -/
  | grab (item : Nat) (addr : Word) (n : Nat)
  | piece (item c o n : Nat)
  /-- As `event`, but the journal entries it writes keep SEQ at all ones until they are sealed (R347). -/
  | unsealed (i : Instr) (args : EventArgs)
  | seal (die : Nat)
  | event (i : Instr) (args : EventArgs)
  deriving DecidableEq, Repr

/-- The module. `hart` is the hart whose turn it is and `others` are the rest, in order of turn; `waits` holds the instructions that wait in
the queues of the harts, those of one hart oldest first. Addresses of `mem` are those of `Space`: one memory holds the DRAM of the dies, the Tarns, the scalar data memories, the control regions and the flash.
`stale` lists, newest first, what stores have overwritten while jobs run (next key at the store, address, bytes), since instruction
fetch may still see it (R29). `ticks` numbers the steps, so that each free value is fresh; `agenda` lists the turns to come; `stopAfter`
is the count of the turn under way when that is a `part`, and 0 otherwise; `loose` marks a `loose` or `unsealed` turn. -/
structure State where
  hart : Hart
  others : List Hart
  waits : List Pend
  gangs : List Gang
  jobs : List Job
  transfers : List Transfer
  streams : List Stream
  cairnBlocks : List (Nat × Image)
  nextKey : Nat
  dies : Vector Die 4
  module : Module
  mem : Image
  stale : List (Nat × Nat × List Byte)
  ticks : Nat
  agenda : List Turn
  args : EventArgs
  stopAfter : Nat
  loose : Bool
  deriving DecidableEq, Repr

/-- Why the machine stops with a fault. -/
inductive Fault where
  /-- Raised by `step` when the agenda names a hart that is in no slot: the turn belongs to nobody. Safe: the agenda is the
  model's own account of whose turn it is. -/
  | noSuchHart (key : Nat)
  deriving DecidableEq, Repr

/-- Why a step is refused. -/
inductive Refusal where
  /-- Raised by an arm of `exec` whose instruction has no meaning yet. Safe. -/
  | notModelled (mnemonic : String)
  /-- Raised by `step` when the agenda holds an instruction of a hart as if it were a step of another agent. Safe: a hart's
  instructions come from its fetch alone. -/
  | notAnEvent
  deriving DecidableEq, Repr

/-! ### Where things lie in `mem` -/

/-- The spaces that share `mem`, each in its own range of keys: physical addresses below 2^52, then the rest. -/
def Space.tarn (core off : Nat) : Nat := 2 ^ 60 + core * 2 ^ 24 + off
/-- Scalar data memory of a core. -/
def Space.sdm (core off : Nat) : Nat := 2 ^ 61 + core * 2 ^ 18 + off
/-- Control region of a die (R350). -/
def Space.control (die off : Nat) : Nat := 2 ^ 62 + die * 2 ^ 21 + off
/-- Flash of a firmware slot (R355). -/
def Space.flash (slot off : Nat) : Nat := 2 ^ 63 + slot * 2 ^ 26 + off

/-! ### Reset -/

/-- An idle loop level (R88). -/
def Loop.idle : Loop := ⟨0, 0, 0, 0, false⟩

/-- The entry nat8 without a sidecar (R139). -/
def TagEntry.start : TagEntry := ⟨.nat8, false, false, 0⟩

/-- A token record that was never used (R308). -/
def Token.unused : Token := ⟨0, .free, 0, 0, 0, 0, 0, 0, 0, false, false, .again, 0⟩

/-- FRM is RNE, FFLAGS and XCLS zero (R72, R73, R143). -/
def FpState.start : FpState := ⟨0, 1, 0⟩

/-- The register files before the first instruction (R139). -/
def VecState.start : VecState :=
  { vl := 0, vstart := 0, mz := false, ta := false, regs := Vector.replicate 32 [], tags := Vector.replicate 32 .start,
    preds := Vector.replicate 48 0, pf := 0, pe := 0, xmask := 0, present := BitVec.allOnes 32,
    ppresent := BitVec.allOnes 51, dirty := 0, pdirty := 0 }

/-- Clear tiles in V mode (R202 to R205). -/
def MatState.start : MatState := ⟨false, false, false, 0, 0, 0, 0, 0, [], [], 3, 0⟩

/-- No chaining (R127). -/
def ChainState.start : ChainState := ⟨false, 0, false, 0, 0⟩

/-- No bindings, empty FIFOs, no stream (R264, R267, R276). -/
def EngState.start : EngState := ⟨Vector.replicate 16 0, 0, [], 0, 0, 0, none, 0⟩

/-- Nothing held back. -/
def OrderState.start : OrderState := ⟨[], [], [], 0⟩

/-- No frames and no tokens, for a hart of slot 0 with the partition at offset 0 (R295, R307). -/
def EffState.start : EffState :=
  { hsp := 0x7F0100000000, ppend := false, pmask := false, srch := 0, depth := 0, frames := [], pushes := 0, message := 0,
    requester := 0, lastFrontEnd := false, tokbase := 0x7F0000EFE000, tokens := Vector.replicate 64 .unused, epc := 0,
    ecause := 0, eval := 0, vcap := 0, pcap := 0, underPf := false, hold := false }

/-- The record of a slot in which no hart was ever placed. The spec gives a hart's registers values only when it starts; this
record holds those start values where they do not depend on the placement, and zero elsewhere. DESIGN CHOICE, entry 1. -/
def Hart.vacant : Hart :=
  { id := ⟨0, 0, 0, 0, 0, 0, 4, 0, 0, 0, 0⟩, cond := .vacant, pc := 0, x := Vector.replicate 32 0, retired := 0, iw0 := 0,
    iw1 := 0, loop0 := .idle, loop1 := .idle, fp := .start, vec := .start, mat := .start, chain := .start,
    priv := ⟨false, false, none, 0, 0⟩, eff := .start, eng := .start, order := .start }

/-- A die after module reset: no command accepted, 512 MiB of cairn store (R13, R347); spill areas and temperatures zero,
DESIGN CHOICE, entry 1. -/
def Die.reset : Die :=
  { seq := 0, jseq := 0, signals := [], pend := [], blocked := [], last := Vector.replicate 8 0, slots := [], commands := [],
    unsealed := [], request := none, declined := [], outbound := [], tlb := [], storeMiB := 512, dramMiB := 0, lpMiB := 0, grants := Vector.replicate 8 8,
    cycles := Vector.replicate 8 0,
    clock := .full, junction := 0, layer0 := 0, layer1 := 0, refresh0 := false, refresh1 := false, logSerial := 0 }

/-- The six links at full width (R11). -/
def allLinks : List Link :=
  [⟨0, 1, 4, 0⟩, ⟨0, 2, 4, 0⟩, ⟨0, 3, 4, 0⟩, ⟨1, 2, 4, 0⟩, ⟨1, 3, 4, 0⟩, ⟨2, 3, 4, 0⟩]

/-- The module with reset held (R353); slot A selected, DESIGN CHOICE, entry 1. -/
def Module.reset : Module :=
  { stage := .held, selected := 0, running := none, failA := 0, failB := 0, stageTwoFailed := false, resuming := false, svn := 0,
    shutdown := false, starting := false, trained := false, links := allLinks, retiredBlocks := [], lasting := [], connections := [],
    tarnContext := Vector.replicate 32 none, tarnSections := [], nanos := 0, request := [], answer := [], refusedLast := false }

/-- No operands. -/
def EventArgs.none : EventArgs :=
  ⟨0, 0, 0, 0, 0, 0, 0, 0, 0, false, false, 0, 0, (0, 0, 0), .rud, []⟩

/-- The module right after reset: reset held, no hart placed, memory with nothing listed. -/
def State.reset : State :=
  { hart := .vacant, others := [], waits := [], gangs := [], jobs := [], transfers := [], streams := [], cairnBlocks := [], nextKey := 1,
    dies := Vector.replicate 4 .reset, module := .reset, mem := [], stale := [], ticks := 0, agenda := [], args := .none,
    stopAfter := 0, loose := false }

end Sys2Proof.Machine
end

