-- ==== Sys2Proof/Machine/Bits.lean ====
section
/-! DEFINITION. Keyed data in canonical form, bytes and bit masks: the helpers under memory, register images and predicates. -/

namespace Sys2Proof.Machine

/-! ### Keyed data -/

/-- What a key reads as; an unlisted key reads as `d`. -/
def Sparse.get {α : Type} (d : α) : Sparse α → Nat → α
  | [], _ => d
  | (k, v) :: m, a => if a = k then v else Sparse.get d m a

/-- Writing a key keeps the keys rising, and writing `d` removes the entry. -/
def Sparse.set {α : Type} [DecidableEq α] (d : α) : Sparse α → Nat → α → Sparse α
  | [], a, b => if b = d then [] else [(a, b)]
  | (k, v) :: m, a, b =>
    if a < k then (if b = d then (k, v) :: m else (a, b) :: (k, v) :: m)
    else if a = k then (if b = d then m else (a, b) :: m)
    else (k, v) :: Sparse.set d m a b

/-- The canonical form from a lowest key on: keys strictly rising, no entry equal to `d`. -/
def Sparse.wfFrom {α : Type} [DecidableEq α] (d : α) (low : Nat) : Sparse α → Bool
  | [] => true
  | (k, v) :: m => decide (low ≤ k) && decide (v ≠ d) && Sparse.wfFrom d (k + 1) m

/-- The canonical form. -/
def Sparse.wf {α : Type} [DecidableEq α] (d : α) (m : Sparse α) : Bool := Sparse.wfFrom d 0 m

/-- Only the keys below `n`. -/
def Sparse.below {α : Type} (n : Nat) (m : Sparse α) : Sparse α := m.filter (fun p => p.1 < n)

/-- Writes a list of values at consecutive keys. -/
def Sparse.setList {α : Type} [DecidableEq α] (d : α) : Sparse α → Nat → List α → Sparse α
  | m, _, [] => m
  | m, a, v :: vs => Sparse.setList d (Sparse.set d m a v) (a + 1) vs

/-- Reads `n` values at consecutive keys. -/
def Sparse.getList {α : Type} (d : α) (m : Sparse α) (a : Nat) : Nat → List α
  | 0 => []
  | n + 1 => Sparse.get d m a :: Sparse.getList d m (a + 1) n

/-- Memory in its canonical form. -/
def Memory.wf (m : Image) : Bool := Sparse.wf 0#8 m

/-! ### Order -/

/-- Inserts before the first element that it is not above. -/
def insertBy {α : Type} (le : α → α → Bool) (a : α) : List α → List α
  | [] => [a]
  | b :: l => if le a b then a :: b :: l else b :: insertBy le a l

/-- A list in rising order; equals keep their order. -/
def sortBy {α : Type} (le : α → α → Bool) : List α → List α
  | [] => []
  | a :: l => insertBy le a (sortBy le l)

/-! ### Bytes -/

/-- The number that little-endian bytes stand for (R3). -/
def leNat : List Byte → Nat
  | [] => 0
  | b :: bs => b.toNat + 256 * leNat bs

/-- The low `n` bytes of a number, little-endian (R3). -/
def natLe : Nat → Nat → List Byte
  | 0, _ => []
  | n + 1, v => BitVec.ofNat 8 v :: natLe n (v / 256)

/-- The little-endian bytes of a word. -/
def wordLe (n : Nat) (v : Word) : List Byte := natLe n v.toNat

/-- The word that little-endian bytes stand for, zero-extended. -/
def leWord (bs : List Byte) : Word := BitVec.ofNat 64 (leNat bs)

/-- One element stored. -/
def setCode (w : Nat) (m : Image) (e code : Nat) : Image := Sparse.setList 0 m (e * w) (natLe w code)

/-- Elements stored in order. -/
def setCodes (w : Nat) (m : Image) (cs : List (Nat × Nat)) : Image := cs.foldl (fun m p => setCode w m p.1 p.2) m

/-- Two's complement reading of the low `w` bits of a number. -/
def signed (w : Nat) (v : Nat) : Int :=
  let u := v % 2 ^ w
  if 2 * u < 2 ^ w then (u : Int) else (u : Int) - (2 ^ w : Nat)

/-- The `w`-bit pattern of an integer. -/
def wrapInt (w : Nat) (v : Int) : Nat := (v % (2 ^ w : Nat)).toNat

/-- A word holding an integer modulo 2^64. -/
def intWord (v : Int) : Word := BitVec.ofInt 64 v

/-- Sign extension of a field to 64 bits. -/
def sext {w : Nat} (v : BitVec w) : Word := v.signExtend 64

/-- A truth value as 0 or 1. -/
def boolWord (b : Bool) : Word := if b then 1 else 0

/-! ### Masks -/

/-- All bits below `n`. -/
def ones (n : Nat) : Mask := 2 ^ n - 1

/-- The bits of `m` at `lo` and above, below `hi`. -/
def maskRange (m : Mask) (lo hi : Nat) : Mask := (m % 2 ^ hi) >>> lo <<< lo

/-- One bit set or cleared. -/
def setBit (m : Mask) (i : Nat) (b : Bool) : Mask :=
  if b then m ||| 2 ^ i else if m.testBit i then m ^^^ 2 ^ i else m

/-- Bit-by-bit choice: `a` where `sel` is one, `b` where it is zero. -/
def maskSelect (sel a b : Mask) : Mask := (a &&& sel) ||| (b ^^^ (b &&& sel))

/-- The indices below `n` whose bit is one, ascending. -/
def maskIndices (m : Mask) (n : Nat) : List Nat := (List.range n).filter (fun i => m.testBit i)

/-- The number of one bits below `n`. -/
def maskCount (m : Mask) (n : Nat) : Nat := (maskIndices m n).length

/-- The bytes of a mask: bit e at byte ⌊e/8⌋, bit e mod 8 (R325). -/
def maskBytes (n : Nat) (m : Mask) : List Byte := natLe n m

/-- Leading zeros of a `w`-bit code. -/
def clzNat (w v : Nat) : Nat := if v % 2 ^ w = 0 then w else w - 1 - Nat.log2 (v % 2 ^ w)

/-- Trailing zeros of a `w`-bit code, found below fuel `w`. -/
def ctzGo : Nat → Nat → Nat
  | 0, _ => 0
  | n + 1, v => if v % 2 = 1 then 0 else 1 + ctzGo n (v / 2)

/-- Trailing zeros of a `w`-bit code; `w` for zero. -/
def ctzNat (w v : Nat) : Nat := ctzGo w v

/-- One bits of a `w`-bit code. -/
def popcNat : Nat → Nat → Nat
  | 0, _ => 0
  | n + 1, v => v % 2 + popcNat n (v / 2)

end Sys2Proof.Machine
end

