-- ==== Sys2Proof/Machine/Numbers.lean ====
section
/-! DEFINITION. Type tags, exact values and the one rounding of each result (R59 to R77). -/

namespace Sys2Proof.Machine

/-! ### Tags -/

/-- The tag of a 5-bit code; reserved and bit-plane codes are no register tags (R59). -/
def Tag.ofCode (c : BitVec 5) : Option Tag :=
  match c.toNat with
  | 0 => some .nat8 | 1 => some .nat16 | 2 => some .nat32 | 3 => some .nat64
  | 4 => some .int8 | 5 => some .int16 | 6 => some .int32 | 7 => some .int64
  | 8 => some .fp32 | 9 => some .fp16 | 10 => some .bf16 | 11 => some .e4m3
  | 12 => some .e5m2 | 13 => some .e2m1 | 14 => some .e8m0 | 15 => some .fx96
  | _ => none

/-- The code of a tag (R59). -/
def Tag.code : Tag → BitVec 5
  | .nat8 => 0 | .nat16 => 1 | .nat32 => 2 | .nat64 => 3 | .int8 => 4 | .int16 => 5 | .int32 => 6 | .int64 => 7
  | .fp32 => 8 | .fp16 => 9 | .bf16 => 10 | .e4m3 => 11 | .e5m2 => 12 | .e2m1 => 13 | .e8m0 => 14 | .fx96 => 15

/-- Register width in bytes (R59). -/
def Tag.width : Tag → Nat
  | .nat8 | .int8 | .e4m3 | .e5m2 | .e2m1 | .e8m0 => 1
  | .nat16 | .int16 | .fp16 | .bf16 => 2
  | .nat32 | .int32 | .fp32 => 4
  | .nat64 | .int64 => 8
  | .fx96 => 16

/-- Memory width in bits (R59). -/
def Tag.memBits (t : Tag) : Nat := if t = .e2m1 then 4 else 8 * t.width

/-- Signed integer tags. -/
def Tag.isSigned : Tag → Bool
  | .int8 | .int16 | .int32 | .int64 => true
  | _ => false

/-- Integer tags (R64). -/
def Tag.isInt : Tag → Bool
  | .nat8 | .nat16 | .nat32 | .nat64 | .int8 | .int16 | .int32 | .int64 => true
  | _ => false

/-- Tags that may name a sidecar (R59). -/
def Tag.hasSidecar : Tag → Bool
  | .int8 | .e4m3 | .e5m2 | .e2m1 => true
  | _ => false

/-- A floating-point layout: fraction and exponent widths, bias, and the limit codes of R62. -/
structure FpFormat where
  mb : Nat
  eb : Nat
  bias : Nat
  maxCode : Nat
  inf : Option Nat
  nan : Option Nat
  deriving DecidableEq, Repr

/-- The layouts of R61 and R62. -/
def Tag.format : Tag → Option FpFormat
  | .fp32 => some ⟨23, 8, 127, 0x7F7FFFFF, some 0x7F800000, some 0x7FC00000⟩
  | .fp16 => some ⟨10, 5, 15, 0x7BFF, some 0x7C00, some 0x7E00⟩
  | .bf16 => some ⟨7, 8, 127, 0x7F7F, some 0x7F80, some 0x7FC0⟩
  | .e5m2 => some ⟨2, 5, 15, 0x7B, some 0x7C, some 0x7E⟩
  | .e4m3 => some ⟨3, 4, 7, 0x7E, none, some 0x7F⟩
  | .e2m1 => some ⟨1, 2, 1, 0x7, none, none⟩
  | _ => none

/-! ### Exact values -/

/-- A positive magnitude: a ratio, or the square root of one. A root is only ever rounded. -/
inductive Mag where
  | rat (n d : Nat)
  | root (n d : Nat)
  deriving DecidableEq, Repr

/-- An exact value (R76). `made` says that the NaN came from operands that were none (R73). -/
inductive Value where
  | nan (made : Bool)
  | inf (neg : Bool)
  | zero (neg : Bool)
  | num (neg : Bool) (m : Mag)
  deriving DecidableEq, Repr

/-- Rounding modes (R72). -/
inductive Mode where
  | rne | rtz | rdn | rup
  deriving DecidableEq, Repr

/-- Flag bits in the positions of FFLAGS (R73). -/
abbrev Flags := BitVec 6
def flagNX : Flags := 1
def flagUF : Flags := 2
def flagOF : Flags := 4
def flagDZ : Flags := 8
def flagNV : Flags := 16
def flagSA : Flags := 32

/-- The ratio n/d with a sign; n = 0 gives a zero of that sign. -/
def mkRat (neg : Bool) (n d : Nat) : Value := if n = 0 then .zero neg else .num neg (.rat n d)

/-- n · 2^k with a sign. -/
def mkPow (neg : Bool) (n : Nat) (k : Int) : Value :=
  if 0 ≤ k then mkRat neg (n * 2 ^ k.toNat) 1 else mkRat neg n (2 ^ (-k).toNat)

/-- An integer, zero being +0. -/
def Value.ofInt (v : Int) : Value := mkRat (decide (v < 0)) v.natAbs 1

/-- The ratio of a magnitude that is an operand. -/
def Mag.ratio : Mag → Nat × Nat
  | .rat n d => (n, d)
  | .root n d => (n, d)

/-- Times 2^k. -/
def Value.scale (v : Value) (k : Int) : Value :=
  match v with
  | .num neg (.rat n d) => if 0 ≤ k then mkRat neg (n * 2 ^ k.toNat) d else mkRat neg n (d * 2 ^ (-k).toNat)
  | .num neg (.root n d) =>
    if 0 ≤ k then .num neg (.root (n * 4 ^ k.toNat) d) else .num neg (.root n (d * 4 ^ (-k).toNat))
  | w => w

def Value.isNan : Value → Bool
  | .nan _ => true
  | _ => false

/-- Sign of a value; a NaN counts as positive. -/
def Value.isNeg : Value → Bool
  | .inf s | .zero s | .num s _ => s
  | .nan _ => false

def Value.neg : Value → Value
  | .nan m => .nan m
  | .inf s => .inf (!s)
  | .zero s => .zero (!s)
  | .num s m => .num (!s) m

def Value.abs : Value → Value
  | .nan m => .nan m
  | .inf _ => .inf false
  | .zero _ => .zero false
  | .num _ m => .num false m

/-- The exact sum; an exact zero of opposite signs is −0 under RDN and +0 otherwise (R75). -/
def Value.add (m : Mode) (a b : Value) : Value :=
  match a, b with
  | .nan x, .nan y => .nan (x && y)
  | .nan x, _ => .nan x
  | _, .nan y => .nan y
  | .inf s, .inf t => if s = t then .inf s else .nan true
  | .inf s, _ => .inf s
  | _, .inf t => .inf t
  | .zero s, .zero t => if s = t then .zero s else .zero (decide (m = .rdn))
  | .zero _, v => v
  | v, .zero _ => v
  | .num s p, .num t q =>
    let x := p.ratio.1 * q.ratio.2
    let y := q.ratio.1 * p.ratio.2
    let d := p.ratio.2 * q.ratio.2
    if s = t then .num s (.rat (x + y) d)
    else if x = y then .zero (decide (m = .rdn))
    else if x > y then .num s (.rat (x - y) d)
    else .num t (.rat (y - x) d)

def Value.sub (m : Mode) (a b : Value) : Value := a.add m b.neg

/-- The exact product. -/
def Value.mul (a b : Value) : Value :=
  let s := a.isNeg != b.isNeg
  match a, b with
  | .nan x, .nan y => .nan (x && y)
  | .nan x, _ => .nan x
  | _, .nan y => .nan y
  | .inf _, .zero _ => .nan true
  | .zero _, .inf _ => .nan true
  | .inf _, _ => .inf s
  | _, .inf _ => .inf s
  | .zero _, _ => .zero s
  | _, .zero _ => .zero s
  | .num _ p, .num _ q => .num s (.rat (p.ratio.1 * q.ratio.1) (p.ratio.2 * q.ratio.2))

/-- The exact quotient, with DZ for a finite non-zero dividend over zero (R148). -/
def Value.div (a b : Value) : Value × Flags :=
  let s := a.isNeg != b.isNeg
  match a, b with
  | .nan x, .nan y => (.nan (x && y), 0)
  | .nan x, _ => (.nan x, 0)
  | _, .nan y => (.nan y, 0)
  | .inf _, .inf _ => (.nan true, 0)
  | .zero _, .zero _ => (.nan true, 0)
  | .inf _, _ => (.inf s, 0)
  | .num _ _, .zero _ => (.inf s, flagDZ)
  | .zero _, _ => (.zero s, 0)
  | .num _ _, .inf _ => (.zero s, 0)
  | .num _ p, .num _ q => (.num s (.rat (p.ratio.1 * q.ratio.2) (p.ratio.2 * q.ratio.1)), 0)

/-- The exact root; NaN below zero, and √−0 = −0 (R106, R151). -/
def Value.sqrt : Value → Value
  | .nan x => .nan x
  | .zero s => .zero s
  | .inf s => if s then .nan true else .inf false
  | .num s p => if s then .nan true else .num false (.root p.ratio.1 p.ratio.2)

/-- 1/√a, with DZ at the zeros (R151). -/
def Value.rsqrt : Value → Value × Flags
  | .nan x => (.nan x, 0)
  | .zero s => (.inf s, flagDZ)
  | .inf s => (if s then .nan true else .zero false, 0)
  | .num s p => (if s then .nan true else .num false (.root p.ratio.2 p.ratio.1), 0)

/-- a × b + c, one exact value (R75). -/
def Value.fma (m : Mode) (a b c : Value) : Value := (a.mul b).add m c

/-- Order of two values that are no NaN, −0 equal to +0. -/
def Value.cmp (a b : Value) : Ordering :=
  let cross (s : Bool) (p : Mag) (t : Bool) (q : Mag) : Ordering :=
    let x : Int := (p.ratio.1 * q.ratio.2 : Nat)
    let y : Int := (q.ratio.1 * p.ratio.2 : Nat)
    compare (if s then -x else x) (if t then -y else y)
  match a, b with
  | .inf s, .inf t => if s = t then .eq else if s then .lt else .gt
  | .inf s, _ => if s then .lt else .gt
  | _, .inf t => if t then .gt else .lt
  | .num s p, .num t q => cross s p t q
  | .num s _, _ => if s then .lt else .gt
  | _, .num t _ => if t then .gt else .lt
  | _, _ => .eq

/-- The smaller value, −0 below +0; one NaN gives the other operand (R148). -/
def Value.min (a b : Value) : Value :=
  if a.isNan then b else if b.isNan then a
  else match a.cmp b with
    | .lt => a
    | .gt => b
    | .eq => if a.isNeg then a else b

/-- The larger value, −0 below +0; one NaN gives the other operand (R148). -/
def Value.max (a b : Value) : Value :=
  if a.isNan then b else if b.isNan then a
  else match a.cmp b with
    | .lt => b
    | .gt => a
    | .eq => if a.isNeg then b else a

/-! ### Decoding -/

/-- A floating-point code as a value (R61). -/
def FpFormat.decode (f : FpFormat) (ieee : Bool) (c : Nat) : Value :=
  let neg := c.testBit (f.mb + f.eb)
  let e := (c >>> f.mb) % 2 ^ f.eb
  let m := c % 2 ^ f.mb
  if ieee && e = 2 ^ f.eb - 1 then (if m = 0 then .inf neg else .nan false)
  else if e = 0 then mkPow neg m (1 - f.bias - f.mb)
  else mkPow neg (2 ^ f.mb + m) ((e : Int) - f.bias - f.mb)

/-- A stored code as a value, before any sidecar; fx96 is read at anchor 0 (R60 to R64, R153). -/
def decodeElem (t : Tag) (c : Nat) : Value :=
  match t with
  | .nat8 | .nat16 | .nat32 | .nat64 => .ofInt (c % 2 ^ (8 * t.width) : Nat)
  | .int8 | .int16 | .int32 | .int64 => .ofInt (signed (8 * t.width) c)
  | .e8m0 => if c % 256 = 255 then .nan false else mkPow false 1 (((c % 256 : Nat) : Int) - 127)
  | .fx96 => (Value.ofInt (signed 96 c)).scale (-48)
  | .e4m3 => if c % 128 = 127 then .nan false else (FpFormat.mk 3 4 7 0x7E none none).decode false c
  | .e2m1 => (FpFormat.mk 1 2 1 0x7 none none).decode false c
  | .fp32 => (FpFormat.mk 23 8 127 0 none none).decode true c
  | .fp16 => (FpFormat.mk 10 5 15 0 none none).decode true c
  | .bf16 => (FpFormat.mk 7 8 127 0 none none).decode true c
  | .e5m2 => (FpFormat.mk 2 5 15 0 none none).decode true c

/-! ### Rounding -/

/-- The integer square root, bit by bit from bit `b`. -/
def isqrtGo (n : Nat) : Nat → Nat → Nat
  | 0, r => if (r + 1) * (r + 1) ≤ n then r + 1 else r
  | b + 1, r => isqrtGo n b (if (r + 2 ^ (b + 1)) * (r + 2 ^ (b + 1)) ≤ n then r + 2 ^ (b + 1) else r)

/-- ⌊√n⌋. -/
def isqrt (n : Nat) : Nat := isqrtGo n (Nat.log2 n / 2 + 1) 0

/-- ⌊log2⌋ of a positive ratio. -/
def ratLog2 (n d : Nat) : Int :=
  let k : Int := (Nat.log2 n : Int) - Nat.log2 d
  let reaches : Bool := if 0 ≤ k then decide (d * 2 ^ k.toNat ≤ n) else decide (d ≤ n * 2 ^ (-k).toNat)
  if reaches then k else k - 1

/-- ⌊log2⌋ of a positive magnitude. -/
def Mag.log2 : Mag → Int
  | .rat n d => ratLog2 n d
  | .root n d => (ratLog2 n d) / 2

/-- A magnitude over 2^e: its floor, whether it is whole, and its fraction against one half. -/
def Mag.quot (m : Mag) (e : Int) : Nat × Bool × Ordering :=
  match m with
  | .rat n d =>
    let a := n * 2 ^ (-e).toNat
    let b := d * 2 ^ e.toNat
    let q := a / b
    let r := a % b
    (q, decide (r = 0), compare (2 * r) b)
  | .root n d =>
    let a := n * 4 ^ (-e).toNat
    let b := d * 4 ^ e.toNat
    let q := isqrt (a / b)
    (q, decide (q * q * b = a), compare (4 * a) ((2 * q + 1) * (2 * q + 1) * b))

/-- RoundInt of a magnitude with a sign over 2^e, as a magnitude, and whether it was whole (R76). -/
def roundQuot (mode : Mode) (neg : Bool) (m : Mag) (e : Int) : Nat × Bool :=
  let (q, exact, half) := m.quot e
  let up : Bool := match mode with
    | .rne => half == .gt || (half == .eq && q % 2 == 1)
    | .rtz => false
    | .rdn => neg && !exact
    | .rup => !neg && !exact
  (if up then q + 1 else q, exact)

/-- RoundInt of a finite value (R76). -/
def Value.roundInt (mode : Mode) : Value → Int
  | .num neg m => let n := (roundQuot mode neg m 0).1; if neg then -(n : Int) else n
  | _ => 0

/-- A rounded element: its stored code, its flags, and whether it must poison its block's scale (R68). -/
structure Rounded where
  code : Nat
  flags : Flags
  poison : Bool
  deriving DecidableEq, Repr

/-- Smallest and largest value of an integer tag (R64). -/
def Tag.intRange (t : Tag) : Int × Int :=
  let w := 8 * t.width
  if t.isSigned then (-(2 ^ (w - 1) : Nat), (2 ^ (w - 1) : Nat) - 1) else (0, (2 ^ w : Nat) - 1)

/-- Conversion into an integer tag (R64). -/
def roundToInt (t : Tag) (mode : Mode) (sat : Bool) (v : Value) : Rounded :=
  let w := 8 * t.width
  let (lo, hi) := t.intRange
  match v with
  | .nan _ => ⟨0, flagNV, false⟩
  | .inf neg => ⟨wrapInt w (if neg then lo else hi), flagNV, false⟩
  | .zero _ => ⟨0, 0, false⟩
  | .num neg m =>
    let (q, exact) := roundQuot mode neg m 0
    let n : Int := if neg then -(q : Int) else q
    let nx : Flags := if exact then 0 else flagNX
    if lo ≤ n ∧ n ≤ hi then ⟨wrapInt w n, nx, false⟩
    else if sat then ⟨wrapInt w (if n < lo then lo else hi), flagSA ||| nx, false⟩
    else ⟨wrapInt w n, flagOF ||| nx, false⟩

/-- Rounding into e8m0 (R63). -/
def roundToScale (mode : Mode) (sat : Bool) (v : Value) : Rounded :=
  match v with
  | .num false m =>
    let k := m.log2
    let (q, exact, _) := m.quot (k - 1)
    let whole := exact && q == 2
    let up : Bool := match mode with
      | .rtz | .rdn => false
      | .rup => !whole
      | .rne => decide (3 < q) || (q == 3 && (!exact || (k + 127) % 2 == 1))
    let r := if up then k + 1 else k
    if r < -127 then ⟨0x00, flagUF ||| flagNX, false⟩
    else if 127 < r then (if sat then ⟨0xFE, flagSA ||| flagNX, false⟩ else ⟨0xFF, flagOF ||| flagNX, false⟩)
    else ⟨(r + 127).toNat, if whole then 0 else flagNX, false⟩
  | _ => ⟨0xFF, flagNV, false⟩

/-- NaN of a tag; e2m1 has none: with a sidecar the element poisons its block, without one it takes the largest magnitude,
with NV (R62, R68). -/
def nanOf (f : FpFormat) (sidecar neg : Bool) (flags : Flags) : Rounded :=
  match f.nan with
  | some c => ⟨c, flags, false⟩
  | none => if sidecar then ⟨0, flags, true⟩ else ⟨(if neg then 8 else 0) + 7, flags ||| flagNV, false⟩

/-- Overflow (R77). -/
def overflow (f : FpFormat) (mode : Mode) (sat sidecar neg : Bool) (flags : Flags) : Rounded :=
  let sign := if neg then 2 ^ (f.mb + f.eb) else 0
  let away : Bool := match mode with
    | .rne => true
    | .rtz => false
    | .rdn => neg
    | .rup => !neg
  if sat then ⟨sign + f.maxCode, flags ||| flagNX ||| flagSA, false⟩
  else if away then
    match f.inf with
    | some c => ⟨sign + c, flags ||| flagNX ||| flagOF, false⟩
    | none => nanOf f sidecar neg (flags ||| flagNX ||| flagOF)
  else ⟨sign + f.maxCode, flags ||| flagNX ||| flagOF, false⟩

/-- Round into a floating-point tag (R76). -/
def roundToFp (f : FpFormat) (mode : Mode) (sat sidecar : Bool) (v : Value) : Rounded :=
  let sign (neg : Bool) := if neg then 2 ^ (f.mb + f.eb) else 0
  match v with
  | .nan made => nanOf f sidecar false (if made then flagNV else 0)
  | .inf neg =>
    if sat then ⟨sign neg + f.maxCode, flagSA, false⟩
    else match f.inf with
      | some c => ⟨sign neg + c, 0, false⟩
      | none => nanOf f sidecar neg flagNV
  | .zero neg => ⟨sign neg, 0, false⟩
  | .num neg m =>
    let emin : Int := 1 - f.bias
    let k := m.log2
    let e := Max.max k emin - f.mb
    let (n, exact) := roundQuot mode neg m e
    let tiny := !exact && decide (k < emin) &&
      decide (((roundQuot mode neg m (k - f.mb)).1 : Nat) < 2 ^ (emin - k + f.mb).toNat)
    let flags : Flags := (if exact then 0 else flagNX) ||| (if tiny then flagUF else 0)
    let code := ((e + f.mb + f.bias).toNat * 2 ^ f.mb + n) - 2 ^ f.mb
    if f.maxCode < code then overflow f mode sat sidecar neg flags
    else ⟨sign neg + code, flags, false⟩

/-- Round(v, T, m, sat) (R76); `sidecar` says that the destination names one (R68). No instruction rounds into fx96 (R144). -/
def roundTo (t : Tag) (mode : Mode) (sat sidecar : Bool) (v : Value) : Rounded :=
  match t.format with
  | some f => roundToFp f mode sat sidecar v
  | none => if t.isInt then roundToInt t mode sat v else if t = .e8m0 then roundToScale mode sat v else ⟨0, 0, false⟩

/-- The code an element takes under a block scale of 0xFF: the tag's NaN, 0x0 for e2m1, 0 for int8 (R67; for int8 see entry 20). -/
def poisonCode (t : Tag) : Nat :=
  match t.format with
  | some f => f.nan.getD 0
  | none => 0

/-- RoundToAnchor (R70): the contribution of a product, and whether it saturated. -/
def roundToAnchor (v : Value) (anchor : Int) : Int × Bool :=
  let top : Int := (2 ^ 95 : Nat) - 1
  match v with
  | .nan _ => (0, true)
  | .inf neg => (if neg then -top else top, true)
  | .zero _ => (0, false)
  | .num neg m =>
    let n := (roundQuot .rne neg m (anchor - 48)).1
    if 2 ^ 95 ≤ n then (if neg then -top else top, true) else (if neg then -(n : Int) else n, false)

/-- An integer modulo 2^96, read as signed (R69). -/
def wrap96 (v : Int) : Int := signed 96 (wrapInt 96 v)

/-- The exact value of X at an anchor (R69). -/
def fxValue (x : Int) (anchor : Int) : Value := (Value.ofInt x).scale (anchor - 48)

/-- The mode of an rm field; dyn takes FRM (R72, R86). -/
def modeOf (frm : BitVec 3) (rm : BitVec 3) : Mode :=
  let c := if rm = 0#3 then frm else rm
  if c = 2#3 then .rtz else if c = 3#3 then .rdn else if c = 4#3 then .rup else .rne

end Sys2Proof.Machine
end

