-- ==== Sys2Proof/Machine/Ops.lean ====
section
/-! DEFINITION. The named operations that meanings are written over: registers, retirement, translation, memory, handler
frames, and taking an effect. -/

namespace Sys2Proof.Machine

/-- What a meaning answers. -/
abbrev Out := Host.Outcome State Fault Refusal

/-! ### Registers of the hart whose turn it is -/

/-- The hart changed. -/
def State.onHart (s : State) (f : Hart → Hart) : State := { s with hart := f s.hart }

/-- x(r); x0 reads as zero (R87). -/
def State.getX (s : State) (r : Reg) : Word :=
  if r = 0#5 then 0 else s.hart.x[r.toNat]'(r.isLt)

/-- x(r) := v; a write to x0 is discarded (R87). -/
def State.setX (s : State) (r : Reg) (v : Word) : State :=
  if r = 0#5 then s else { s with hart := { s.hart with x := s.hart.x.set r.toNat v r.isLt } }

def State.setPc (s : State) (pc : Word) : State := { s with hart := { s.hart with pc := pc } }
def State.setFp (s : State) (fp : FpState) : State := { s with hart := { s.hart with fp := fp } }
def State.setVec (s : State) (v : VecState) : State := { s with hart := { s.hart with vec := v } }
def State.setMat (s : State) (m : MatState) : State := { s with hart := { s.hart with mat := m } }
def State.setChain (s : State) (c : ChainState) : State := { s with hart := { s.hart with chain := c } }
def State.setPriv (s : State) (p : PrivState) : State := { s with hart := { s.hart with priv := p } }
def State.setEff (s : State) (e : EffState) : State := { s with hart := { s.hart with eff := e } }
def State.setEng (s : State) (e : EngState) : State := { s with hart := { s.hart with eng := e } }
def State.setLoop (s : State) (k : Bool) (l : Loop) : State :=
  if k then { s with hart := { s.hart with loop1 := l } } else { s with hart := { s.hart with loop0 := l } }
def State.setCond (s : State) (c : Condition) : State := { s with hart := { s.hart with cond := c } }
def State.setOrder (s : State) (o : OrderState) : State := { s with hart := { s.hart with order := o } }
def State.setMem (s : State) (m : Image) : State := { s with mem := m }

/-- One loop level of the hart (R108). -/
def State.getLoop (s : State) (k : Bool) : Loop := if k then s.hart.loop1 else s.hart.loop0

/-- FFLAGS gathers flags and never loses one (R73). -/
def State.raise (s : State) (f : Flags) : State := s.setFp { s.hart.fp with fflags := s.hart.fp.fflags ||| f }

/-- Lanes of the hart. -/
def State.lanes (s : State) : Nat := s.hart.id.lanes

/-- The die of the hart's core (R10). -/
def State.dieOf (s : State) : Nat := s.hart.id.core / 8

/-- MVL(w) (R117). -/
def State.mvl (s : State) (w : Nat) : Nat := 4096 * s.lanes / w

/-- Elements of a predicate (R142). -/
def State.bits (s : State) : Nat := 4096 * s.lanes

/-! ### Harts and dies by name -/

/-- The harts that exist, the current one first. -/
def State.harts (s : State) : List Hart := (s.hart :: s.others).filter (fun h => h.cond != .vacant)

/-- Whether a hart record exists in a slot. -/
def State.findHart (s : State) (key : Nat) : Option Hart := s.harts.find? (fun h => h.key == key)

/-- One hart changed, by its key, and with it the hart as each of its waiting instructions found it. -/
def State.updateHart (s : State) (key : Nat) (f : Hart → Hart) : State :=
  let g (h : Hart) : Hart := if h.cond != .vacant && h.key == key then f h else h
  { s with hart := g s.hart, others := s.others.map g, waits := s.waits.map (fun p => { p with before := g p.before }) }

/-- The state with another hart's turn; the one that had it goes last. None when there is no such hart. -/
def State.focus (s : State) (key : Nat) : Option State :=
  if s.hart.cond != .vacant && s.hart.key == key then some s
  else
    match s.others.find? (fun h => h.cond != .vacant && h.key == key) with
    | none => none
    | some h =>
      let rest := s.others.filter (fun o => !(o.cond != .vacant && o.key == key))
      some { s with hart := h, others := if s.hart.cond = .vacant then rest else rest ++ [s.hart] }

/-! ### Instructions that wait in their queues (R136, R267, R317; entry 24) -/

/-- Whether an instruction waits for the hart of a key and may go on: a Preempt token has not withdrawn it. -/
def Pend.active (p : Pend) (key : Nat) : Bool := p.hart == key && p.token.isNone

/-- The instructions that wait in the queues of the hart, oldest first. -/
def State.pends (s : State) : List Pend := s.waits.filter (fun p => p.active s.hart.key)

/-- The hart's waiting instructions replaced. -/
def State.setPends (s : State) (ps : List Pend) : State :=
  { s with waits := s.waits.filter (fun p => !p.active s.hart.key) ++ ps }

/-- Every record of a waiting instruction of a hart goes. -/
def State.dropPends (s : State) (key : Nat) : State := { s with waits := s.waits.filter (fun p => p.hart != key) }

/-- Whether an instruction that waits can still fault (R136). -/
def Aside.canFault : Aside → Bool
  | .later _ _ f => f
  | _ => false

/-- Whether such an instruction of the hart waits: until it is over, nothing younger acts outside the hart (R136). -/
def State.exposed (s : State) : Bool := s.pends.any (fun p => p.what.canFault)

/-- The machine as anyone but the hart can tell it: all but the hart's own registers, its queues and what translation has cached. -/
def State.outside (s : State) : State :=
  { s with hart := { Hart.vacant with cond := (if s.hart.cond = .vacant then .vacant else .running), id := s.hart.id, chain := s.hart.chain,
                                      eng := { EngState.start with bindings := s.hart.eng.bindings.map (fun b => { b with head := 0, ahead := [] }) } },
           waits := [], dies := Vector.ofFn (fun i => { s.dies[i] with tlb := [] }), args := .none, loose := false }

/-- The waiting instructions of the hart can no longer be undone: a younger one has acted. -/
def State.markActed (s : State) : State :=
  { s with waits := s.waits.map (fun p => if p.active s.hart.key then { p with acted := true } else p) }

/-- `t` after `s`: where the hart has acted outside itself, its waiting instructions can no longer be undone. -/
def State.noting (s t : State) : State := if s.pends.isEmpty || t.outside == s.outside then t else t.markActed

/-- A die; indices are taken modulo 4. -/
def State.die (s : State) (d : Nat) : Die := s.dies[d % 4]'(Nat.mod_lt d (by decide))

def State.setDie (s : State) (d : Nat) (v : Die) : State :=
  { s with dies := s.dies.set (d % 4) v (Nat.mod_lt d (by decide)) }

def State.onDie (s : State) (d : Nat) (f : Die → Die) : State := s.setDie d (f (s.die d))

/-- The gang of the hart. -/
def State.gang (s : State) : Option Gang := s.gangs.find? (fun g => g.key == s.hart.id.gangKey)

def State.updateGang (s : State) (key : Nat) (f : Gang → Gang) : State :=
  { s with gangs := s.gangs.map (fun g => if g.key == key then f g else g) }

def State.findJob (s : State) (key : Nat) : Option Job := s.jobs.find? (fun j => j.key == key)

def State.updateJob (s : State) (key : Nat) (f : Job → Job) : State :=
  { s with jobs := s.jobs.map (fun j => if j.key == key then f j else j) }

/-- The live harts of a gang: those that have not retired `end` (R122). -/
def State.members (s : State) (gang : Nat) : List Hart := s.harts.filter (fun h => h.id.gangKey == gang)

/-! ### Retirement -/

/-- One level of the loop test (R110): none when the level leaves the next pc to the other level. -/
def loopLevel (l : Loop) (npc : Word) (taken : Bool) : Loop × Option Word :=
  if l.count = 0 then (l, none)
  else if l.close && (taken || npc = l.armed) then ({ l with count := 0, close := false }, none)
  else if npc = l.armed then
    if 1 < l.count.toNat then ({ l with count := l.count - 1, armed := l.stop }, some l.start)
    else ({ l with count := 0 }, none)
  else (l, none)

/-- LoopTest (R110): level 1 first; a loop-back leaves level 0 untested. -/
def Hart.loopTest (h : Hart) (npc : Word) (taken : Bool) : Hart :=
  let r1 := loopLevel h.loop1 npc taken
  match r1.2 with
  | some target => { h with loop1 := r1.1, pc := target }
  | none =>
    let r0 := loopLevel h.loop0 npc taken
    match r0.2 with
    | some target => { h with loop1 := r1.1, loop0 := r0.1, pc := target }
    | none => { h with loop1 := r1.1, loop0 := r0.1, pc := npc }

/-- The hart runs and counts instructions retired (R99); an instruction that re-executed under pf has ended that (R187), and a
pre-emption is recognised again (R318). -/
def Hart.count (h : Hart) (n : Nat) : Hart :=
  { h with cond := .running, retired := h.retired + BitVec.ofNat 64 n, eff := { h.eff with underPf := false, hold := false } }

/-- Retirement of an instruction of `len` bytes that falls through. -/
def Hart.retire (h : Hart) (len : Nat) : Hart := (h.count 1).loopTest (h.pc + BitVec.ofNat 64 len) false

/-- Retirement of a taken transfer of control. -/
def Hart.jump (h : Hart) (target : Word) : Hart := (h.count 1).loopTest target true

def State.count (s : State) (n : Nat) : State := { s with hart := s.hart.count n }
def State.retire (s : State) (len : Nat) : State := { s with hart := s.hart.retire len }
def State.jump (s : State) (target : Word) : State := { s with hart := s.hart.jump target }

/-- The instruction has issued and waits. -/
def State.wait (s : State) (w : Wait) : State := s.setCond (.waiting w)

/-! ### Addresses -/

/-- Home die of a backed physical address (R170). -/
def homeOf (pa : Nat) : Nat :=
  if pa < 2 ^ 36 then pa / 2 ^ 34 else (pa - 2 ^ 40) / 2 ^ 38

/-- Whether a physical address is backed for translation (R170). -/
def backed (pa : Nat) : Bool :=
  decide (pa < 2 ^ 36) ||
  (decide (2 ^ 40 ≤ pa) && decide (pa < 2 ^ 40 + 2 ^ 40) && decide ((pa - 2 ^ 40) % 2 ^ 38 < 2 ^ 38 - 2 ^ 24))

/-- First byte of a die's journal (R347). -/
def journalBase (d : Nat) : Nat := 2 ^ 40 + d * 2 ^ 38 + (2 ^ 38 - 2 ^ 24)

/-- Whether a physical address lies in a journal (R347). -/
def inJournal (pa : Nat) : Bool :=
  decide (2 ^ 40 ≤ pa) && decide (pa < 2 ^ 40 + 2 ^ 40) && decide (2 ^ 38 - 2 ^ 24 ≤ (pa - 2 ^ 40) % 2 ^ 38)

/-- Kinds of access, as R174 tells them apart. -/
inductive Acc where
  | fetch | load | store | atomic
  deriving DecidableEq, Repr

/-- Who makes an access: a die's core (or its front end), a context and a privilege. `window` gives the granules of the scalar
data partition for the accesses that may reach it (R92); `engine` marks accesses that may reach remote pages (R174). -/
structure View where
  core : Nat
  die : Nat
  ctx : BitVec 16
  root : Nat
  sup : Bool
  window : Option (Nat × Nat)
  engine : Bool
  deriving DecidableEq, Repr

/-- Where an access lands: a key of `mem`, or an offset of a remote window. -/
inductive Spot where
  | local (key : Nat)
  | remote (window offset : Nat)
  deriving DecidableEq, Repr

/-- Effect ids (R292). -/
def effIllegal : BitVec 16 := 0x0001
def effPrivileged : BitVec 16 := 0x0002
def effMisaligned : BitVec 16 := 0x0003
def effLoadFault : BitVec 16 := 0x0004
def effStoreFault : BitVec 16 := 0x0005
def effProtection : BitVec 16 := 0x0006
def effUncorrectable : BitVec 16 := 0x0007
def effVectorFirst : BitVec 16 := 0x0008
def effTileFirst : BitVec 16 := 0x0009
def effDet : BitVec 16 := 0x000A
def effReplay : BitVec 16 := 0x000B
def effDeadToken : BitVec 16 := 0x000C
def effExhausted : BitVec 16 := 0x000D
def effPreempt : BitVec 16 := 0x000E
def effStream : BitVec 16 := 0x000F

/-- The page-fault effect of an access (R169, R174). -/
def pageFault : Acc → BitVec 16
  | .fetch | .load => effLoadFault
  | .store | .atomic => effStoreFault

/-- Whether the Col link between two dies is up; a die reaches itself (R360). -/
def State.linkUp (s : State) (a b : Nat) : Bool :=
  a == b || s.module.links.any (fun l => l.d1 == min a b && l.d2 == max a b && l.quarters != 0)

/-- Whether the 64 KiB block of a byte is retired: of a physical address, or of a Tarn or a scalar data memory (R359). -/
def State.retiredAt (s : State) (key : Nat) : Bool := s.module.retiredBlocks.contains (key / 2 ^ 16)

/-- Whether a physical address cannot be read from a die: its 64 KiB block is retired or its link is down (R359, R360). -/
def State.lost (s : State) (die pa : Nat) : Bool := s.retiredAt pa || !s.linkUp die (homeOf pa)

/-- Whether a byte of a core's scalar data memory is in the spill slot of a frame that a hart holds in hardware (R296). -/
def Hart.slotHeld (h : Hart) (core off : Nat) : Bool :=
  let base := h.eff.hsp.toNat
  let va := 0x7F0100000000 + off
  h.cond != .vacant && h.id.core == core && decide (base + 32 * (h.eff.depth - 8) ≤ va) &&
    decide (va < base + 32 * h.eff.depth) &&
    decide (h.priv.sdbase.toNat * 4096 ≤ off) && decide (off < h.priv.sdlim.toNat * 4096)

/-- The latest byte of a physical address in an outbound queue (R237). -/
def outboundByte (q : List OutStore) (pa : Nat) : Option Byte :=
  q.foldl (fun acc o => if o.pa ≤ pa ∧ pa < o.pa + o.bytes.length then o.bytes[pa - o.pa]? else acc) none

/-- A byte as an observer of a die reads it: from the die's outbound queue while a store is on its way, else at its home
(R171, R237). -/
def State.byteAt (s : State) (die key : Nat) : Byte :=
  if key < 2 ^ 52 then
    match outboundByte (s.die die).outbound key with
    | some b => b
    | none => Sparse.get 0 s.mem key
  else if 2 ^ 61 ≤ key ∧ key < 2 ^ 61 + 2 ^ 23 then
    let core := (key - 2 ^ 61) / 2 ^ 18
    let off := (key - 2 ^ 61) % 2 ^ 18
    if s.harts.any (fun h => h.slotHeld core off) then Config.frameSlotByte s.ticks (core * 2 ^ 18 + off) else Sparse.get 0 s.mem key
  else Sparse.get 0 s.mem key

/-- `n` bytes as an observer of a die reads them. -/
def State.bytesAt (s : State) (die : Nat) : Nat → Nat → List Byte
  | _, 0 => []
  | key, n + 1 => s.byteAt die key :: s.bytesAt die (key + 1) n

/-- A little-endian number as the walker of a die reads it: a store to it is seen once it is performed at die scope (R176). -/
def State.dieNat (s : State) (die key n : Nat) : Nat := leNat (s.bytesAt die key n)

/-- A table entry as the walker reads it: invalid, a pointer or a leaf (R173). -/
inductive Entry where
  | invalid
  | lost
  | pointer (table : Nat)
  | leaf (bits : Nat)
  deriving DecidableEq, Repr

/-- The entry of one level (R172, R173). An entry that is not backed, or in a journal, is read as memory holds it there: the spec speaks of
pages alone, entry 39. -/
def State.entry (s : State) (die level table index : Nat) : Entry :=
  let pa := table + 8 * index
  if s.lost die pa then .lost
  else
    let e := s.dieNat die pa 8
    let isLeaf := if level = 3 then true else e.testBit 1
    if !e.testBit 0 then .invalid
    else if isLeaf then
      if level = 0 || (e / 2 ^ 10) % 2 = 1 then .invalid else .leaf e
    else .pointer (e % 2 ^ 52 / 2 ^ 8 * 2 ^ 8)

/-- The leaf of one 64 KiB region from a leaf entry at a level whose page covers 2^shift bytes (R173). -/
def leafOf (e shift va : Nat) : Leaf :=
  { pa := (e % 2 ^ 52) / 2 ^ shift * 2 ^ shift + (va % 2 ^ shift) / 2 ^ 16 * 2 ^ 16,
    remote := (e / 2 ^ 9) % 4 = 1, u := e.testBit 5, x := e.testBit 4, w := e.testBit 3, r := e.testBit 2 }

/-- What a walk finds. -/
inductive Walked where
  | invalid
  | lost
  | leaf (l : Leaf)
  deriving DecidableEq, Repr

/-- The four-level walk (R172): root 1 MiB aligned, levels 1 and 2 4 KiB, level 3 256 bytes. -/
def State.walk (s : State) (die root va : Nat) : Walked :=
  match s.entry die 0 (root / 2 ^ 20 * 2 ^ 20) (va / 2 ^ 39 % 2 ^ 17) with
  | .pointer t1 =>
    match s.entry die 1 (t1 / 2 ^ 12 * 2 ^ 12) (va / 2 ^ 30 % 2 ^ 9) with
    | .leaf e => .leaf (leafOf e 30 va)
    | .pointer t2 =>
      match s.entry die 2 (t2 / 2 ^ 12 * 2 ^ 12) (va / 2 ^ 21 % 2 ^ 9) with
      | .leaf e => .leaf (leafOf e 21 va)
      | .pointer t3 =>
        match s.entry die 3 t3 (va / 2 ^ 16 % 2 ^ 5) with
        | .leaf e => .leaf (leafOf e 16 va)
        | .lost => .lost
        | _ => .invalid
      | .lost => .lost
      | .invalid => .invalid
    | .lost => .lost
    | .invalid => .invalid
  | .lost => .lost
  | _ => .invalid

/-- The leaves of a region that the die's caches hold for a context. -/
def Die.cached (d : Die) (ctx : BitVec 16) (region : Nat) : List Leaf :=
  (d.tlb.filter (fun t => t.ctx == ctx && t.region == region)).map (fun t => t.leaf)

/-- The translation an access uses: that of the tables as they stand, or a cached one until a `tlbinv` removes it (R176, R199). -/
def State.leafFor (s : State) (v : View) (va : Nat) : Walked :=
  let region := va / 2 ^ 16
  match ((s.die v.die).cached v.ctx region)[Config.cachedLeaf s.ticks region]? with
  | some l => .leaf l
  | none => s.walk v.die v.root va

/-- The effect a leaf raises for an access, in the order of R174; none when it may proceed. -/
def leafCheck (v : View) (k : Acc) (l : Leaf) (pa : Nat) : Option (BitVec 16) :=
  let allowed := match k with
    | .fetch => l.x
    | .load => l.r
    | .store => l.w
    | .atomic => l.r && l.w
  if (!v.sup && !l.u) || !allowed then some effProtection
  else if l.remote then (if v.engine then none else some effProtection)
  else if backed pa then none else some effProtection

/-- A byte of a Tarn or a scalar data memory, or the error of its block (R359). -/
def State.localSpot (s : State) (key : Nat) : Except (BitVec 16) Spot :=
  if s.retiredAt key then .error effUncorrectable else .ok (.local key)

/-- Where an access of at most 64 aligned bytes lands, or the effect it raises (R92, R169, R174, R359). -/
def State.resolve (s : State) (v : View) (k : Acc) (a : Word) : Except (BitVec 16) Spot :=
  let va := a.toNat
  if 2 ^ 56 ≤ va then .error (pageFault k)
  else if va / 2 ^ 40 = 0x7F then
    let off := va % 2 ^ 40
    if off < 0xF00000 then (if k = .fetch then .error effProtection else s.localSpot (Space.tarn v.core off))
    else if 0x100000000 ≤ off ∧ off < 0x100040000 then
      match v.window with
      | some (lo, hi) =>
        let o := off - 0x100000000
        if lo * 4096 ≤ o ∧ o < hi * 4096 then s.localSpot (Space.sdm v.core o) else .error effProtection
      | none => .error effProtection
    else .error effProtection
  else
    match s.leafFor v va with
    | .invalid => .error (pageFault k)
    | .lost => .error effUncorrectable
    | .leaf l =>
      let pa := l.pa + va % 2 ^ 16
      match leafCheck v k l pa with
      | some e => .error e
      | none =>
        if l.remote then .ok (.remote (pa / 2 ^ 39 % 2 ^ 12) (pa % 2 ^ 39))
        else if s.lost v.die pa then .error effUncorrectable
        else .ok (.local pa)

/-- Whether the remote window entry of a die can be used: it is valid and holds no reserved value (R352). -/
def State.windowOk (s : State) (die w : Nat) : Bool :=
  let e := leNat (Sparse.getList 0 s.mem (Space.control die (0x60000 + 32 * w)) 8)
  e.testBit 63 && e / 2 ^ 60 % 4 != 3 && e / 2 ^ 32 % 2 ^ 28 == 0

/-- The hart's scalar accesses (R92). -/
def State.scalarView (s : State) : View :=
  { core := s.hart.id.core, die := s.dieOf, ctx := s.hart.id.ctx, root := s.hart.id.root, sup := s.hart.priv.sup,
    window := some (s.hart.priv.sdbase.toNat, s.hart.priv.sdlim.toNat), engine := false }

/-- The hart's vector accesses and instruction fetch: no scalar data memory (R92). -/
def State.vectorView (s : State) : View := { s.scalarView with window := none }

/-- A page the access translated is kept, after the translations of its region that are cached already, so that the same step finds it again
(R175, R176); an access to the local region translates nothing. -/
def State.noteUse (s : State) (v : View) (a : Word) : State :=
  let va := a.toNat
  if 2 ^ 56 ≤ va ∨ va / 2 ^ 40 = 0x7F then s
  else
    match s.leafFor v va with
    | .leaf l =>
      let t : TlbEntry := ⟨v.ctx, va / 2 ^ 16, l⟩
      s.onDie v.die (fun d => if d.tlb.contains t then d else { d with tlb := d.tlb ++ [t] })
    | _ => s

/-- The 64 KiB regions that `n` bytes from an address span, each with the bytes that lie in it (R175). -/
def pieces : Nat → Word → Nat → List (Word × Nat)
  | 0, _, _ => []
  | fuel + 1, a, n =>
    if n = 0 then []
    else
      let k := min n (2 ^ 16 - a.toNat % 2 ^ 16)
      (a, k) :: pieces fuel (a + BitVec.ofNat 64 k) (n - k)

/-- The regions of `n` bytes. -/
def piecesOf (a : Word) (n : Nat) : List (Word × Nat) := pieces (n / 2 ^ 16 + 2) a n

/-! ### Bytes -/

/-- The block of segments laid end to end, the first of which has the number `first`, that holds an address. -/
def blockIn : List (Nat × Nat) → Nat → Nat → Option Nat
  | [], _, _ => none
  | (sva, n) :: rest, first, va => if sva ≤ va ∧ va < sva + n * 4096 then some (first + (va - sva) / 4096) else blockIn rest (first + n) va

/-- The blocks of a stream's segments that hold the byte of a physical address, one for each region that is mapped to its page (R274, R280). -/
def Stream.blocksOf (st : Stream) (pa : Nat) : List Nat :=
  (st.pages.filter (fun p => decide (p.2 ≤ pa) && decide (pa < p.2 + 2 ^ 16))).filterMap (fun p => blockIn st.segs 0 (p.1 * 2 ^ 16 + (pa - p.2)))

/-- The 4 KiB blocks of memory that `n` bytes share, by their first bytes. -/
def blockBases (pa n : Nat) : List Nat := (List.range ((pa % 4096 + n + 4095) / 4096)).map (fun i => (pa / 4096 + i) * 4096)

/-- A block of a stream that a store touches: the store has waited for the block's copy, which went ahead of the others, and the block is
written since its last cut (R280). -/
def Stream.touch (st : Stream) (b : Nat) : Stream :=
  { st with copies := st.copies.filter (fun c => c != b), written := if st.written.contains b then st.written else b :: st.written }

/-- A store to a stream that a restore fills, kept until the restore is over (R283). -/
def Stream.noteStored (st : Stream) (pa n : Nat) : Stream :=
  { st with restore := st.restore.map (fun r => { r with stored := (pa, n) :: r.stored }) }

/-- The blocks of a stream that a store to `n` bytes touches. -/
def Stream.touched (st : Stream) (pa n : Nat) : List Nat := (blockBases pa n).flatMap st.blocksOf

/-- The blocks of every stream that a store touches (R280, R283). -/
def State.markWritten (s : State) (pa : Nat) (n : Nat) : State :=
  { s with streams := s.streams.map (fun st =>
      let bs := st.touched pa n
      if bs.isEmpty then st else (bs.foldl Stream.touch st).noteStored pa n) }

/-- Bytes written at their home. -/
def State.writeHome (s : State) (key : Nat) (bs : List Byte) : State :=
  let s := if key < 2 ^ 52 ∧ s.streams ≠ [] then s.markWritten key bs.length else s
  s.setMem (Sparse.setList 0 s.mem key bs)

/-- The bytes that a store overwrites while jobs run, kept for instruction fetch; jobs launched later have higher keys (R29). -/
def State.noteStale (s : State) (die key n : Nat) : State :=
  if key < 2 ^ 52 ∧ s.jobs ≠ [] then { s with stale := (s.nextKey, key, s.bytesAt die key n) :: s.stale } else s

/-- A store by a core of a die: to another die's byte it enters the outbound queue, else it is written at home (R237). -/
def State.writeFrom (s : State) (die key : Nat) (bs : List Byte) : State :=
  let s := s.noteStale die key bs.length
  if key < 2 ^ 52 ∧ homeOf key ≠ die then s.onDie die (fun d => { d with outbound := d.outbound ++ [⟨key, bs⟩] })
  else s.writeHome key bs

/-- The stores of a die that wait for one home arrive there, oldest first; over a link that is down none does (R360, entry 38). -/
def State.drainTo (s : State) (die home : Nat) : State :=
  let q := (s.die die).outbound
  let go := q.filter (fun o => homeOf o.pa == home && s.linkUp die home)
  let s1 := s.onDie die (fun d => { d with outbound := q.filter (fun o => !(homeOf o.pa == home && s.linkUp die home)) })
  go.foldl (fun s o => s.writeHome o.pa o.bytes) s1

/-- Every store of a die that can reach its home is home: performed at module scope (R237). The whole queue goes, the stores of the die's
other harts with it: the model's choice, entry 38. -/
def State.drain (s : State) (die : Nat) : State :=
  let q := (s.die die).outbound
  let s1 := s.onDie die (fun d => { d with outbound := q.filter (fun o => !s.linkUp die (homeOf o.pa)) })
  (q.filter (fun o => s.linkUp die (homeOf o.pa))).foldl (fun s o => s.writeHome o.pa o.bytes) s1

/-! ### Accesses out of program order (R228 to R236, R242) -/

/-- Whether `n` bytes at one key and `m` bytes at another share a byte. -/
def meets (k n l m : Nat) : Bool := decide (k < l + m) && decide (l < k + n)

/-- Whether a load of a stream finds a held store: its own stream's, one ordered before it, or one that the hart has read (R230, R231). -/
def HeldStore.seenBy (h : HeldStore) (vec : Bool) : Bool := h.vec == vec || h.both || h.readS || h.readV

/-- Whether a load of a stream has read a held store: it is performed only once the store is (R228). -/
def HeldStore.readBy (h : HeldStore) (vec : Bool) : Bool := if vec then h.readV else h.readS

/-- Whether an earlier held store is performed before a later one: to a byte they share in one stream, across an order, or where a load of the
later one's stream has read the earlier one (R228, R231), across a fence with ww (R236), in one ordered instruction (R184), and before a
release (R234). -/
def HeldStore.precedes (h q : HeldStore) : Bool :=
  ((h.vec == q.vec || h.both || h.readBy q.vec) && meets h.key h.bytes.length q.key q.bytes.length) || decide (h.epoch < q.epoch) || q.rel.isSome ||
    (h.group.isSome && h.group == q.group)

/-- Whether a held load of a stream reads one of `n` bytes. -/
def HeldLoad.meets (l : HeldLoad) (vec : Bool) (key n : Nat) : Bool :=
  match l with
  | .scalar _ k m _ => !vec && Machine.meets k m key n
  | .vector _ _ size es => vec && es.any (fun e => Machine.meets e.2 size key n)

/-- Whether a held load is the scalar stream's. -/
def HeldLoad.isScalar : HeldLoad → Bool
  | .scalar _ _ _ _ => true
  | .vector _ _ _ _ => false

/-- The latest byte at a key among held stores. -/
def heldByte (hs : List HeldStore) (key : Nat) : Option Byte :=
  hs.foldl (fun acc h => if h.key ≤ key ∧ key < h.key + h.bytes.length then h.bytes[key - h.key]? else acc) none

/-- Bytes from a key on, under held stores. -/
def overlay (hs : List HeldStore) : Nat → List Byte → List Byte
  | _, [] => []
  | key, b :: bs => (heldByte hs key).getD b :: overlay hs (key + 1) bs

/-- The bytes that a loose turn has read early for the whole of an access (R229, R231). -/
def State.earlyBytes (s : State) (vec : Bool) (key n : Nat) : Option (List Byte) :=
  if s.loose then
    (s.hart.order.early.find? (fun e => e.vec == vec && decide (e.key ≤ key) && decide (key + n ≤ e.key + e.bytes.length))).map
      (fun e => (e.bytes.drop (key - e.key)).take n)
  else none

/-- `n` bytes as a stream of the hart finds them in memory and in the hart's held stores. -/
def State.foundBytes (s : State) (vec : Bool) (key n : Nat) : List Byte :=
  overlay (s.hart.order.stores.filter (fun h => h.seenBy vec)) key (s.bytesAt s.dieOf key n)

/-- `n` bytes as a stream of the hart reads them: those read early where they cover the access, under the held stores that the stream finds
(R228, R231). -/
def State.streamBytes (s : State) (vec : Bool) (key n : Nat) : List Byte :=
  match s.earlyBytes vec key n with
  | some bs => overlay (s.hart.order.stores.filter (fun h => h.seenBy vec)) key bs
  | none => s.foundBytes vec key n

/-- `n` bytes as the scalar stream reads them. -/
def State.scalarBytes (s : State) (key n : Nat) : List Byte := s.streamBytes false key n

/-- `n` bytes as the vector stream reads them. -/
def State.vectorBytes (s : State) (key n : Nat) : List Byte := s.streamBytes true key n

/-- Bytes read early are dropped where they meet `n` bytes: the hart has read those and reads nothing older there (R230). -/
def OrderState.forget (o : OrderState) (key n : Nat) : OrderState :=
  { o with early := o.early.filter (fun e => !meets e.key e.bytes.length key n) }

/-- Held stores that a condition picks are ordered, at hart scope, before what follows in both streams (R196, R231). -/
def OrderState.share (o : OrderState) (p : HeldStore → Bool) : OrderState :=
  { o with stores := o.stores.map (fun h => if p h then { h with both := true } else h) }

/-- Nothing is kept that a condition picks among what was read early. -/
def OrderState.fresh (o : OrderState) (p : Early → Bool) : OrderState := { o with early := o.early.filter (fun e => !p e) }

/-- A stream has read `n` bytes: the held stores that it found there are the hart's to see from now on (R228, R230). -/
def OrderState.saw (o : OrderState) (vec : Bool) (key n : Nat) : OrderState :=
  { (o.forget key n) with
    stores := o.stores.map (fun h => if h.seenBy vec && meets h.key h.bytes.length key n
      then { h with readS := h.readS || !vec, readV := h.readV || vec } else h) }

/-- The scalar stream has read `n` bytes. -/
def State.sawScalar (s : State) (key n : Nat) : State := s.setOrder (s.hart.order.saw false key n)

/-- The vector stream has read bytes at places, each of its own length. -/
def State.sawVector (s : State) (spots : List (Nat × Nat)) : State :=
  spots.foldl (fun s p => s.setOrder (s.hart.order.saw true p.1 p.2)) s

/-- A held load reads memory and writes its destination. -/
def State.finishLoad (s : State) (l : HeldLoad) : State :=
  match l with
  | .scalar rd key n sx =>
    let v := leNat (s.foundBytes false key n)
    (s.sawScalar key n).setX rd (if sx then intWord (signed (8 * n) v) else BitVec.ofNat 64 v)
  | .vector vd nibble size es =>
    let code (e : Nat × Nat) : Nat :=
      let c := leNat (s.foundBytes true e.2 size)
      if nibble then c / 16 ^ (e.1 % 2) % 16 else c
    let s1 := s.sawVector (es.map (fun e => (e.2, size)))
    let v := s1.hart.vec
    let img := setCodes (if nibble then 1 else size) (v.regs[vd.toNat]'(vd.isLt)) (es.map (fun e => (e.1, code e)))
    s1.setVec { v with regs := v.regs.set vd.toNat img vd.isLt }

/-- The held loads that a condition picks read memory, oldest first. -/
def State.finishLoads (s : State) (p : HeldLoad → Bool) : State :=
  let go := (s.hart.order.loads.filter (fun l => p l.2)).map (fun l => l.2)
  go.foldl State.finishLoad (s.setOrder { s.hart.order with loads := s.hart.order.loads.filter (fun l => !p l.2) })

/-- A store of the hart's streams is written (R237). -/
def State.writeOwn (s : State) (key : Nat) (bs : List Byte) : State := s.writeFrom s.dieOf key bs

/-- A held store is performed; a release at module scope first brings every earlier store home (R234, R237). -/
def State.land (s : State) (h : HeldStore) : State :=
  let s1 := match h.rel with
    | some scope => if 4 ≤ scope.toNat then s.drain s.dieOf else s
    | none => s
  if h.both then (s1.setOrder (s1.hart.order.forget h.key h.bytes.length)).writeOwn h.key h.bytes else s1.writeOwn h.key h.bytes

/-- Held stores, each with whether a condition picks it or a later one that is picked must follow it. -/
def picked (p : HeldStore → Bool) : List HeldStore → List (Bool × HeldStore)
  | [] => []
  | h :: hs =>
    let r := picked p hs
    (p h || r.any (fun q => q.1 && h.precedes q.2), h) :: r

/-- The held stores that a condition picks are performed, with those that they must follow; a release among them waits for the held
loads (R234). -/
def State.landWhere (s : State) (p : HeldStore → Bool) : State :=
  let r := picked p s.hart.order.stores
  let go := (r.filter (fun q => q.1)).map (fun q => q.2)
  let s1 := if go.any (fun h => h.rel.isSome) then s.finishLoads (fun _ => true) else s
  go.foldl State.land (s1.setOrder { s1.hart.order with stores := (r.filter (fun q => !q.1)).map (fun q => q.2) })

/-- Every held access of the hart is performed, and what was read early stays. -/
def State.settle (s : State) : State :=
  let s1 := (s.finishLoads (fun _ => true)).landWhere (fun _ => true)
  s1.setOrder { s1.hart.order with epoch := 0 }

/-- An acquire: nothing that a later load returns was read before it (R234, R235). -/
def OrderState.acquire (o : OrderState) : OrderState := { o with early := [] }
def State.acquire (s : State) : State := s.setOrder s.hart.order.acquire

/-- Every earlier access of the hart is performed before every later one. -/
def State.ordered (s : State) : State := s.settle.acquire

/-- The hart's held stores to `n` bytes are performed, and nothing read early there is kept: before an access that is not one of its
streams' (R302). -/
def State.clearWay (s : State) (key n : Nat) : State :=
  let s1 := s.landWhere (fun h => meets h.key h.bytes.length key n)
  s1.setOrder (s1.hart.order.forget key n)

/-- The held accesses that an access of a stream to `n` bytes must follow are performed (R231, R236). -/
def State.makeWay (s : State) (vec : Bool) (key n : Nat) : State :=
  (s.finishLoads (fun l => l.meets vec key n)).landWhere (fun h =>
    (h.seenBy vec && meets h.key h.bytes.length key n) || decide (h.epoch < s.hart.order.epoch))

/-- A store of a stream; a loose turn holds it, but for the scalar data memory, which no one else reads (R92, R231). Stores of one `group`
keep their order. -/
def State.streamWrite (s : State) (vec : Bool) (group : Option Nat) (key : Nat) (bs : List Byte) : State :=
  let s1 := s.setOrder { s.hart.order with early := s.hart.order.early.filter (fun e => !(e.vec == vec && meets e.key e.bytes.length key bs.length)) }
  if s.loose ∧ key < 2 ^ 61 then
    let s2 := s1.finishLoads (fun l => l.meets vec key bs.length)
    let o := s2.hart.order
    s2.setOrder { o with stores := o.stores ++ [⟨vec, key, bs, none, false, false, false, group, o.epoch, s.ticks⟩] }
  else (s1.makeWay vec key bs.length).writeOwn key bs

/-- A load that a loose turn holds. -/
def State.holdLoad (s : State) (l : HeldLoad) : State := s.setOrder { s.hart.order with loads := s.hart.order.loads ++ [(s.ticks, l)] }

/-- A store of the scalar stream. -/
def State.scalarWrite (s : State) (key : Nat) (bs : List Byte) : State := s.streamWrite false none key bs

/-- A store of the vector stream. -/
def State.vectorWrite (s : State) (key : Nat) (bs : List Byte) : State := s.streamWrite true none key bs

/-- A release of a loose turn, held until every earlier access is performed (R234). -/
def State.holdRelease (s : State) (scope : BitVec 3) (key : Nat) (bs : List Byte) : State :=
  let s1 := s.finishLoads (fun l => l.meets false key bs.length)
  let o := s1.hart.order.forget key bs.length
  s1.setOrder { o with stores := o.stores ++ [⟨false, key, bs, some scope, false, false, false, none, o.epoch, s.ticks⟩] }

/-- The held store at an index is performed, unless an earlier access must be performed first or an older instruction can still fault (R136). -/
def State.landHeld (s : State) (i : Nat) : State :=
  let hs := s.hart.order.stores
  match hs[i]? with
  | none => s
  | some h =>
    if !s.exposed && (hs.take i).all (fun e => !e.precedes h) && (h.rel.isNone || s.hart.order.loads.isEmpty) then
      (s.setOrder { s.hart.order with stores := hs.eraseIdx i }).land h
    else s

/-- The held load at an index reads memory. -/
def State.readHeld (s : State) (i : Nat) : State :=
  let ls := s.hart.order.loads
  match ls[i]? with
  | none => s
  | some l => (s.setOrder { s.hart.order with loads := ls.eraseIdx i }).finishLoad l.2

/-- A stream of the hart reads `n` bytes early (R231); the vector stream none while an older instruction can still fault (R136). -/
def State.readEarly (s : State) (vec : Bool) (key n : Nat) : State :=
  if vec && s.exposed then s
  else s.setOrder { s.hart.order with early := ⟨vec, key, s.foundBytes vec key n⟩ :: s.hart.order.early }

/-! ### Effects -/

/-- An effect about to be taken: its id, argument, extra word and active mask (R302); `underPf` marks an indexed instruction
that continues under pf (R187). -/
structure Trap where
  id : BitVec 16
  arg : Word
  extra : Word
  pm : Mask
  underPf : Bool
  deriving DecidableEq, Repr

/-- A trap with an empty active mask. -/
def Trap.plain (id : BitVec 16) (arg extra : Word) : Trap := ⟨id, arg, extra, 0, false⟩

/-- IllegalInstruction, with the words as fetched (R43). -/
def State.illegal (s : State) : Trap := .plain effIllegal (s.hart.iw0.setWidth 64) (s.hart.iw1.setWidth 64)

/-- Privileged, with the words as fetched (R292). -/
def State.privileged (s : State) : Trap := .plain effPrivileged (s.hart.iw0.setWidth 64) (s.hart.iw1.setWidth 64)

/-- DetViolation (R292). -/
def State.detViolation (s : State) : Trap := .plain effDet (s.hart.iw0.setWidth 64) 0

/-- The access word (R294). -/
def accessWord (acc : Nat) (vec : Bool) (elem : Nat) : Word :=
  BitVec.ofNat 64 (acc * 2 ^ 62 + (if vec then 2 ^ 61 else 0) + elem % 2 ^ 48)

/-- ACC of an access (R294). -/
def Acc.code : Acc → Nat
  | .fetch => 0
  | .load => 1
  | .store | .atomic => 2

/-- The bytes of a frame record (R296). -/
def Frame.bytes (f : Frame) : List Byte :=
  natLe 8 (f.serial.toNat * 2 ^ 32 + f.hi.toNat * 2 ^ 16 + f.lo.toNat) ++
  natLe 8 (f.link.toNat * 2 ^ 56 + f.target.toNat % 2 ^ 56 / 2 * 2 + (if f.priv then 1 else 0)) ++
  natLe 8 (f.rd.toNat * 2 ^ 56 + f.exit.toNat % 2 ^ 56 / 2 * 2) ++ wordLe 8 f.sp

/-- The frame of a record (R296). -/
def Frame.ofBytes (bs : List Byte) : Frame :=
  let d0 := leNat (bs.take 8)
  let d1 := leNat ((bs.drop 8).take 8)
  let d2 := leNat ((bs.drop 16).take 8)
  { serial := BitVec.ofNat 32 (d0 / 2 ^ 32), hi := BitVec.ofNat 16 (d0 / 2 ^ 16), lo := BitVec.ofNat 16 d0,
    link := BitVec.ofNat 8 (d1 / 2 ^ 56), target := BitVec.ofNat 64 (d1 % 2 ^ 56 / 2 * 2), priv := d1.testBit 0,
    rd := BitVec.ofNat 5 (d2 / 2 ^ 56), exit := BitVec.ofNat 64 (d2 % 2 ^ 56 / 2 * 2),
    sp := leWord ((bs.drop 24).take 8) }

/-- Address of frame f's spill slot (R296). -/
def State.spillAddr (s : State) (f : Nat) : Word := s.hart.eff.hsp + BitVec.ofNat 64 (32 * f)

/-- The place of frame f's spill slot: outside the hart's partition Protection, and in a retired block the error of that block (R92, R296,
R299, R359). -/
def State.slotKey (s : State) (f : Nat) : Except (BitVec 16) Nat :=
  let va := (s.spillAddr f).toNat
  let off := va - 0x7F0100000000
  if 0x7F0100000000 + s.hart.priv.sdbase.toNat * 4096 ≤ va ∧ va < 0x7F0100000000 + s.hart.priv.sdlim.toNat * 4096 then
    let key := Space.sdm s.hart.id.core off
    if s.retiredAt key then .error effUncorrectable else .ok key
  else .error effProtection

/-- Frame f: in hardware, or in memory, or the effect that its spill read meets (R296). -/
def State.getFrame (s : State) (f : Nat) : Except (BitVec 16) Frame :=
  match s.hart.eff.frames[s.hart.eff.depth - 1 - f]? with
  | some fr => .ok fr
  | none => (s.slotKey f).map (fun key => .ofBytes (Sparse.getList 0 s.mem key 32))

/-- Whether a frame matches an id performed at a privilege (R293). -/
def Frame.matches (f : Frame) (id : BitVec 16) (sup : Bool) : Bool :=
  let supOnly := id = effVectorFirst || id = effTileFirst || id = effExhausted || id = effPreempt || decide (0x8000 ≤ id.toNat)
  decide (f.lo.toNat ≤ id.toNat) && decide (id.toNat ≤ f.hi.toNat) && (f.priv || (!sup && !supOnly))

/-- What a search finds: a frame, nothing, or a spill read that faults with an effect. -/
inductive Found where
  | frame (index : Nat) (f : Frame)
  | nothing
  | spillFault (id : BitVec 16)
  deriving DecidableEq, Repr

/-- Search from frame `srch` − 1 down the visible chain (R301); the chain is shorter than `fuel`. -/
def State.search (s : State) (ok : Frame → Bool) : Nat → Nat → Found
  | 0, _ => .nothing
  | fuel + 1, srch =>
    if srch = 0 then .nothing
    else
      match s.getFrame (srch - 1) with
      | .error e => .spillFault e
      | .ok f => if ok f then .frame (srch - 1) f else s.search ok fuel f.link.toNat

/-- SERIAL of frame DEPTH − 1, zero with no frame. -/
def State.topSerial (s : State) : BitVec 32 :=
  match s.hart.eff.frames with
  | f :: _ => f.serial
  | [] => 0

/-- The first free record among `is` (R302). -/
def State.freeToken (s : State) (is : List Nat) : Option Nat :=
  is.find? (fun i => match s.hart.eff.tokens[i]? with
    | some t => t.kind == .free
    | none => false)

/-- Key of a byte of a token record (R308). -/
def State.recordKey (s : State) (i off : Nat) : Nat :=
  Space.tarn s.hart.id.core (s.hart.eff.tokbase.toNat - 0x7F0000000000 + 128 * i + off)

/-- The bytes of a record that delivery writes, and the 32 bytes the spec leaves open (R308). -/
def State.recordBytes (s : State) (epc cause arg extra : Word) (gen : BitVec 32) : List Byte :=
  wordLe 8 epc ++ wordLe 8 cause ++ wordLe 8 arg ++ wordLe 8 extra ++
  wordLe 8 (s.getX 8) ++ wordLe 8 (s.getX 9) ++ wordLe 8 (s.getX 10) ++ wordLe 8 (s.getX 11) ++
  natLe 8 s.hart.vec.vl ++ natLe 8 s.hart.vec.vstart ++ natLe 8 0 ++
  natLe 8 (gen.toNat * 2 ^ 32 + (if s.hart.priv.sup then 8 else 0) + 2) ++
  (List.range 32).map (fun i => Config.recordByte s.ticks i)

/-- ECAUSE (R303). -/
def causeWord (vec supp : Bool) (kind : BitVec 2) (id : BitVec 16) : BitVec 24 :=
  BitVec.ofBool vec ++ BitVec.ofBool supp ++ kind ++ 0#4 ++ id

/-- The instructions that still wait in the hart's queues are withdrawn under the token in record `i`; none does of an earlier token there. -/
def State.withdrawPends (s : State) (i : Nat) : State :=
  let kept := s.waits.filter (fun p => !(p.hart == s.hart.key && p.token == some i))
  { s with waits := kept.map (fun p => if p.active s.hart.key then { p with token := some i } else p) }

/-- The hart halts: it issues nothing more, and its job is marked failed (R304). -/
def State.halt (s : State) (id : BitVec 16) : State :=
  let epc := s.hart.pc &&& 0x00FFFFFFFFFFFFFE
  let s := s.updateJob s.hart.id.job (fun j => if j.failed = none then { j with failed := some (id, epc) } else j)
  s.setCond (.halted id epc)

/-- Entry into the handler of frame `f` through record `i` (R302). A request that was pending waits for the handler's first instruction
(R318). -/
def State.enter (s : State) (i findex : Nat) (f : Frame) (t : Trap) (kind : BitVec 2) (vec : Bool) (resume : ResumeKind)
    (byRequest : Bool) : State :=
  let s := (s.withdrawPends i).clearWay (s.recordKey i 0) 128
  let e := s.hart.eff
  let old := e.tokens[i]?.getD .unused
  let gen := old.gen + 1
  let epc := s.hart.pc &&& 0x00FFFFFFFFFFFFFE
  let cause := causeWord vec s.hart.priv.sup kind t.id
  let token : Token :=
    { gen := gen, kind := .oneShot, epc := epc, cause := cause, frame := findex, serial := f.serial, topSerial := s.topSerial,
      depth := e.depth, srch := e.srch, pmask := e.pmask, sup := s.hart.priv.sup, resume := resume, capaddr := 0 }
  let mem := Sparse.setList 0 s.mem (s.recordKey i 0)
    (s.recordBytes epc (cause.setWidth 64) t.arg t.extra gen)
  let request := byRequest && t.id == effPreempt
  let s := { s with mem := mem }
  let s := s.setEff { e with tokens := e.tokens.setIfInBounds i token, epc := epc, ecause := cause, eval := t.arg,
                             srch := f.link.toNat, pmask := e.pmask || request || t.id == effExhausted,
                             ppend := e.ppend && !request,
                             lastFrontEnd := if request then e.requester == 0xFF#8 else e.lastFrontEnd, underPf := false,
                             hold := e.ppend && !request }
  let s := s.setVec { s.hart.vec with pe := t.pm }
  let s := s.setPriv { s.hart.priv with sup := f.priv }
  let s := (((s.setX 8 (gen ++ BitVec.ofNat 32 i)).setX 9 (t.id.setWidth 64)).setX 10 t.arg).setX 11 t.extra
  (s.setCond .running).setPc f.target

/-- Entry through record `i`; a hart whose record lies in a retired block cannot report that by an effect, and halts: DESIGN CHOICE, entry 27
(R304, R359). -/
def State.enterThrough (s : State) (i findex : Nat) (f : Frame) (t : Trap) (kind : BitVec 2) (vec : Bool) (resume : ResumeKind)
    (byRequest : Bool) : State :=
  if s.retiredAt (s.recordKey i 0) then s.halt effUncorrectable else s.enter i findex f t kind vec resume byRequest

/-- TokenExhausted through record 63, to a supervisor frame, with an empty active mask (R306, R307). -/
def State.exhausted (s : State) (t : Trap) (resume : ResumeKind) : State :=
  match s.freeToken [63] with
  | none => s.halt effExhausted
  | some i =>
    match s.search (fun f => f.priv && f.matches effExhausted true) 256 s.hart.eff.srch with
    | .frame k f =>
      s.enterThrough i k f ⟨effExhausted, t.id.setWidth 64, t.arg, 0, t.underPf⟩ 1 false
        (if resume = .underPf then .underPf else .again) false
    | .nothing => s.halt effExhausted
    | .spillFault e => s.halt e

/-- Taking an effect: search, token record, entry into the handler; with no handler the hart halts (R301 to R307). Delivery is no fence
(R233), but the registers it reads have their values, and what younger loads read early is of no use: they have accessed nothing (R136). A
spill read that faults halts the hart with the effect of that access, which the spec does not name: DESIGN CHOICE, entry 27. -/
def State.deliverAs (s : State) (t : Trap) (kind : BitVec 2) (vec : Bool) (resume : ResumeKind) (byRequest : Bool) : State :=
  let s := (s.finishLoads HeldLoad.isScalar).acquire
  match s.search (fun f => f.matches t.id s.hart.priv.sup) 256 s.hart.eff.srch with
  | .nothing => s.halt t.id
  | .spillFault e => s.halt e
  | .frame k f =>
    match s.freeToken (List.range 63) with
    | some i => s.enterThrough i k f t kind vec resume byRequest
    | none => s.exhausted t resume

/-- A synchronous hardware effect of the instruction at the pc (R292, R303); an instruction that re-executes under pf does so again
when the effect is resumed (R331). -/
def State.deliver (s : State) (t : Trap) : State :=
  s.deliverAs t 1 false (if t.underPf || s.hart.eff.underPf then .underPf else .again) false

/-- How a meaning ends: done, or a trap taken in a state. -/
inductive Result where
  | done (s : State)
  | trap (t : Trap) (s : State)

/-- The outcome of a meaning: a trap is delivered. -/
def Result.out : Result → Out
  | .done s => .next s
  | .trap t s => .next (s.deliver t)

/-- Checks in order: the first trap, or the rest. -/
def check (t : Option Trap) (s : State) (rest : Result) : Result :=
  match t with
  | some t => .trap t s
  | none => rest

/-! ### Privilege, presence -/

/-- Supervisor-only forms (check 3 of R42). -/
def State.needSup (s : State) : Option Trap := if s.hart.priv.sup then none else some s.privileged

/-- IllegalInstruction unless a condition holds (checks 2, 4 and 7). -/
def State.legalIf (s : State) (ok : Bool) : Option Trap := if ok then none else some s.illegal

/-- The lowest one bit of a word, below `n`. -/
def lowestBit (w n : Nat) : Option Nat := (List.range n).find? (fun i => w.testBit i)

/-- Check 5 of R42: the lowest absent vector register, then predicate, then tile, among those named (R322). -/
def State.absent (s : State) (vs : List Reg) (ps : List Nat) (tiles : List Bool) : Option Trap :=
  let v := lowestBit (vs.foldl (fun m r => if s.hart.vec.present.getLsbD r.toNat then m else m ||| 2 ^ r.toNat) 0) 32
  match v with
  | some n => some (.plain effVectorFirst (BitVec.ofNat 64 n) 0)
  | none =>
    let p := lowestBit (ps.foldl (fun m r =>
      if r = 0 ∨ r = 48 ∨ r = 49 ∨ s.hart.vec.ppresent.getLsbD r then m else m ||| 2 ^ r) 0) 51
    match p with
    | some n => some (.plain effVectorFirst (BitVec.ofNat 64 (64 + n)) 0)
    | none =>
      let t := lowestBit (tiles.foldl (fun m r =>
        if s.hart.mat.present.getLsbD r.toNat then m else m ||| 2 ^ r.toNat) 0) 2
      t.map (fun n => .plain effTileFirst (BitVec.ofNat 64 n) 0)

/-! ### Scalar accesses -/

/-- The trap of one access of a scalar instruction (R294). -/
def scalarTrap (id : BitVec 16) (k : Acc) (a : Word) : Trap := .plain id a (accessWord k.code false 0)

/-- Where an aligned scalar access lands, or its trap (R102, R193). -/
def State.scalarSpot (s : State) (k : Acc) (a : Word) (n : Nat) : Except Trap Nat :=
  if a.toNat % n ≠ 0 then .error (scalarTrap effMisaligned k a)
  else
    match s.resolve s.scalarView k a with
    | .error e => .error (scalarTrap e k a)
    | .ok (.local key) => .ok key
    | .ok (.remote _ _) => .error (scalarTrap effProtection k a)

/-- An aligned scalar load of n bytes: its value, zero-extended (R102). -/
def State.loadNat (s : State) (a : Word) (n : Nat) : Except Trap Nat :=
  match s.scalarSpot .load a n with
  | .error t => .error t
  | .ok key => .ok (leNat ((s.finishLoads (fun l => l.meets false key n)).scalarBytes key n))

/-- The state after an aligned scalar load of n bytes. -/
def State.afterLoad (s : State) (a : Word) (n : Nat) : State :=
  match s.scalarSpot .load a n with
  | .error _ => s
  | .ok key => ((s.finishLoads (fun l => l.meets false key n)).noteUse s.scalarView a).sawScalar key n

/-- An aligned scalar store of n bytes (R103). -/
def State.storeNat (s : State) (a : Word) (n v : Nat) : Except Trap State :=
  match s.scalarSpot .store a n with
  | .error t => .error t
  | .ok key => .ok ((s.noteUse s.scalarView a).scalarWrite key (natLe n v))

end Sys2Proof.Machine
end

