-- ==== Sys2Proof/Machine/Operands.lean ====
section
/-! DEFINITION. How instructions read and check their operands: predicates, tags, elements, modifiers, bound registers (R33,
R66, R80, R117, R134, R142, R259 to R264). -/

namespace Sys2Proof.Machine

/-! ### Predicates -/

/-- The bits of predicate number `n`: p0 all ones, 48 pf, 49 pe, 50 XMASK (R142, R166). -/
def State.pred (s : State) (n : Nat) : Mask :=
  let v := s.hart.vec
  if n = 0 then ones s.bits
  else if n = 48 then v.pf
  else if n = 49 then v.pe
  else if n = 50 then v.xmask
  else (v.preds[n]?).getD 0

/-- A predicate written whole, with its dirty bit; a write to p0 is discarded (R142). -/
def State.setPred (s : State) (n : Nat) (m : Mask) : State :=
  let v := s.hart.vec
  if n = 0 then s
  else if n = 50 then s.setVec { v with xmask := m, pdirty := v.pdirty ||| BitVec.ofNat 51 (2 ^ 50) }
  else s.setVec { v with preds := v.preds.setIfInBounds n m, pdirty := v.pdirty ||| BitVec.ofNat 51 (2 ^ n) }

/-! ### Tags and sidecars -/

/-- The VTAGS entry of a register (R140). -/
def State.tagOf (s : State) (r : Reg) : TagEntry := s.hart.vec.tags[r.toNat]'(r.isLt)

def State.setTag (s : State) (r : Reg) (t : TagEntry) : State :=
  s.setVec { s.hart.vec with tags := s.hart.vec.tags.set r.toNat t r.isLt }

/-- The image of a register (R79). -/
def State.image (s : State) (r : Reg) : Image := s.hart.vec.regs[r.toNat]'(r.isLt)

/-- A register image replaced, its dirty bit as it was. -/
def State.setImage (s : State) (r : Reg) (m : Image) : State :=
  s.setVec { s.hart.vec with regs := s.hart.vec.regs.set r.toNat m r.isLt }

/-- A register written: its dirty bit set (R138). -/
def State.markDirty (s : State) (r : Reg) : State :=
  s.setVec { s.hart.vec with dirty := s.hart.vec.dirty ||| BitVec.ofNat 32 (2 ^ r.toNat) }

/-- Register width of a register's tag (R59). -/
def State.widthOf (s : State) (r : Reg) : Nat := (s.tagOf r).tag.width

/-- The sidecars that registers name (R66). -/
def State.sidecars (s : State) (rs : List Reg) : List Reg :=
  rs.filterMap (fun r => if (s.tagOf r).s then some (s.tagOf r).vsc else none)

/-- Block size of a sidecar (R66). -/
def TagEntry.block (t : TagEntry) : Nat := if t.b then 32 else 16

/-! ### Elements -/

/-- The stored code of element `i` of an image of register width `w`. -/
def codeAt (m : Image) (w i : Nat) : Nat := leNat (Sparse.getList 0 m (i * w) w)

/-- The stored code of element `i`; bits 7:4 of an e2m1 element are ignored (R60). -/
def State.codeOf (s : State) (r : Reg) (i : Nat) : Nat :=
  let t := (s.tagOf r).tag
  let c := codeAt (s.image r) t.width i
  if t = .e2m1 then c % 16 else c

/-- The block scale of element `i`, 127 without a sidecar (R66). -/
def State.scaleOf (s : State) (r : Reg) (i : Nat) : Nat :=
  let t := s.tagOf r
  if t.s then codeAt (s.image t.vsc) 1 (i / t.block) else 127

/-- Elem(v, i) (R80): decoded in the register's tag with its block scale; a scale of 0xFF makes it NaN (R66). -/
def State.elem (s : State) (r : Reg) (i : Nat) : Value :=
  let sc := s.scaleOf r i
  if sc = 255 then .nan false else (decodeElem (s.tagOf r).tag (s.codeOf r i)).scale ((sc : Int) - 127)

/-- The index that a modifier reads for element `i` of an operand of length `n` (R33, R212). -/
def modIndex (mod : BitVec 3) (sz : BitVec 2) (n i : Nat) : Nat :=
  match mod.toNat with
  | 1 => i % 8 ^ sz.toNat
  | 2 => 2 * i
  | 3 => 2 * i + 1
  | 4 => n - 1 - i
  | _ => i

/-- Opnd2(i) (R33). -/
def State.opnd2 (s : State) (a : VArgs) (i : Nat) : Value := s.elem a.vs2 (modIndex a.mod a.sz s.hart.vec.vl i)

/-! ### Bindings -/

/-- The binding of a register: its own, or the one whose sidecar it is (R261). -/
def State.bindingOf (s : State) (r : Reg) : Option Binding :=
  s.hart.eng.bindings.find? (fun b => b.reg == r || ((s.tagOf b.reg).s && (s.tagOf b.reg).vsc == r))

/-- Total elements of a binding (R260). -/
def BindRecord.total (b : BindRecord) : Nat := b.rowlen * b.nrows

/-- Memory width in bits of a binding's element, 1 for the bit-plane tags (R60, R260). -/
def BindRecord.memBits (b : BindRecord) : Nat :=
  match Tag.ofCode b.tag with
  | some t => t.memBits
  | none => 1

/-- The register tag that a binding's tag delivers (R65, R260). -/
def BindRecord.regTag (b : BindRecord) : Tag := (Tag.ofCode b.tag).getD .int8

/-- First bit of element `g`, modulo 2^67 (R260). -/
def BindRecord.bitOf (b : BindRecord) (g : Nat) : Nat :=
  let first : Int := (8 * b.base + b.bitoff : Nat)
  let row : Int := (g / b.rowlen : Nat)
  ((first + row * b.pitch + (g % b.rowlen * b.estr : Nat)) % (2 ^ 67 : Nat)).toNat

/-- KIND of SFSTRIP for an access that fails (R264). -/
def faultKind (e : BitVec 16) : BitVec 3 :=
  if e = effProtection then 2 else if e = effUncorrectable then 3 else 1

/-- A byte that the address side reads: a transfer access, at the hart's privilege (R249, R263); one behind a window entry that cannot be used
faults as an unbacked address does (R264, R352; entry 18). -/
def State.engineByte (s : State) (v : View) (a : Word) : Except (BitVec 16) Byte :=
  match s.resolve v .load a with
  | .error e => .error e
  | .ok (.local key) => .ok (s.byteAt v.die key)
  | .ok (.remote w o) => if s.windowOk v.die w then .ok (Config.remoteByte s.ticks (w * 2 ^ 39 + o)) else .error effProtection

/-- The engine's view: the hart's translation, remote pages reachable, no scalar data memory (R249). -/
def State.engineView (s : State) : View := { s.vectorView with engine := true }

/-- `n` bits from a bit address, least significant first. -/
def State.engineBits (s : State) (v : View) (bit : Nat) : Nat → Except (BitVec 16) Nat
  | 0 => .ok 0
  | n + 1 =>
    match s.engineByte v (BitVec.ofNat 64 (bit / 8)) with
    | .error e => .error e
    | .ok b =>
      match s.engineBits v (bit + 1) n with
      | .error e => .error e
      | .ok rest => .ok ((if b.getLsbD (bit % 8) then 1 else 0) + 2 * rest)

/-- The planes of a bit-plane element from plane `j` on, the first read most significant (R65, R260). -/
def State.planes (s : State) (v : View) (bit : Int) (pitch : Int) : Nat → Nat → Except (BitVec 16) Nat
  | 0, acc => .ok acc
  | n + 1, acc =>
    match s.engineBits v (bit % (2 ^ 67 : Nat)).toNat 1 with
    | .error e => .error e
    | .ok b => s.planes v (bit + pitch) pitch n (2 * acc + b)

/-- The register code of element `g` of a binding (R260): the stored bits, or the planes as x >> (8 − k). -/
def State.bindElem (s : State) (v : View) (b : BindRecord) (g : Nat) : Except (BitVec 16) Nat :=
  match Tag.ofCode b.tag with
  | some t => s.engineBits v (b.bitOf g) t.memBits
  | none =>
    match s.planes v (b.bitOf g) b.plpitch b.npl 0 with
    | .error e => .error e
    | .ok x => .ok (wrapInt 8 (signed b.npl x))

/-- The scale byte of element (r, c) (R260). -/
def State.bindScale (s : State) (v : View) (b : BindRecord) (g : Nat) : Except (BitVec 16) Byte :=
  let block := if b.sb then 32 else 16
  s.engineByte v (intWord (((b.sbase : Nat) : Int) + ((g / b.rowlen : Nat) : Int) * b.spitch + ((g % b.rowlen / block : Nat) : Int)))

/-- Element `g` of a binding with the scale of its block, or the fault of one of them at the element's byte address (R264). -/
def State.bindOne (s : State) (v : View) (b : BindRecord) (g : Nat) : Except (BitVec 16 × Word) (Nat × Byte) :=
  let a := BitVec.ofNat 64 (b.bitOf g / 8)
  match s.bindElem v b g with
  | .error e => .error (e, a)
  | .ok c =>
    if b.sc then
      match s.bindScale v b g with
      | .error e => .error (e, a)
      | .ok q => .ok (c, q)
    else .ok (c, 0)

/-- All results, or the first failure. -/
def collect {α ε : Type} : List (Except ε α) → Except ε (List α)
  | [] => .ok []
  | .error e :: _ => .error e
  | .ok a :: rest =>
    match collect rest with
    | .error e => .error e
    | .ok l => .ok (a :: l)

/-- Length of strip `k` (R262). -/
def Binding.stripLen (b : Binding) (k : Nat) : Nat := min b.sl (b.record.total - k * b.sl)

/-- The scale of each block of a strip: that of its first element (R260, R262). -/
def stripScales (block : Nat) (es : List (Nat × Byte)) : List Byte :=
  (List.range ((es.length + block - 1) / block)).map (fun q => ((es[q * block]?).map (fun p => p.2)).getD 0)

/-- Strip `k` as the address side reads it; the lowest element that faults, in its code or its scale, marks it (R262 to R264; entry 18). -/
def State.fetchStrip (s : State) (b : Binding) (k : Nat) : Strip :=
  match collect ((List.range (b.stripLen k)).map (fun i => s.bindOne s.engineView b.record (k * b.sl + i))) with
  | .error (e, a) => .marked (faultKind e) a
  | .ok es => .data (es.map (fun p => p.1)) (if b.record.sc then stripScales (if b.record.sb then 32 else 16) es else [])

/-- A list of codes as a register image of width `w`. -/
def imageOfCodes (w : Nat) (codes : List Nat) : Image := Sparse.setList 0 [] 0 (codes.flatMap (natLe w))

/-- The head strip of a binding, fetched now if the address side has not yet (R262, R263). -/
def State.headStrip (s : State) (b : Binding) : Strip := b.ahead.head?.getD (s.fetchStrip b b.head)

/-- The head strip in place of the bound register's contents, its sidecar included (R262). -/
def State.deliverStrip (s : State) (b : Binding) : State :=
  match s.headStrip b with
  | .data codes scales =>
    let s := s.setImage b.reg (imageOfCodes (s.widthOf b.reg) codes)
    if b.record.sc then s.setImage (s.tagOf b.reg).vsc (imageOfCodes 1 (scales.map BitVec.toNat)) else s
  | .marked _ _ => s

/-- The distinct bindings that the sources of an instruction read (R262). -/
def State.readBindings (s : State) (rs : List Reg) : List Binding :=
  s.hart.eng.bindings.filter (fun b => rs.any (fun r => match s.bindingOf r with
    | some c => c.reg == b.reg
    | none => false))

/-- Strip-length check of a read of `count` elements (check 4, R262). -/
def State.stripsFit (s : State) (rs : List Reg) (count : Nat) : Bool :=
  (s.readBindings rs).all (fun b => b.stripLen b.head == count)

/-- The strips in place, or StreamFault with SFSTRIP written (check 7, R264). -/
def State.takeStrips (s : State) : List Binding → Except (Trap × State) State
  | [] => .ok s
  | b :: bs =>
    match s.headStrip b with
    | .marked kind a =>
      let s := s.setEng { s.hart.eng with sfKind := kind, sfReg := b.reg, sfStrip := BitVec.ofNat 48 b.head,
                                          bindings := s.hart.eng.bindings.map (fun c =>
                                            if c.reg == b.reg then { c with ahead := [.marked kind a] } else c) }
      .error (.plain effStream a 0, s)
    | .data _ _ => (s.deliverStrip b).takeStrips bs

/-- The head strips of the bindings an instruction read are popped when it retires (R262). -/
def State.popStrips (s : State) (bs : List Binding) : State :=
  if bs.isEmpty then s
  else s.setEng { s.hart.eng with bindings := s.hart.eng.bindings.map (fun c =>
    if bs.any (fun b => b.reg == c.reg) then { c with head := c.head + 1, ahead := c.ahead.tail } else c) }

/-! ### Checks of vector instructions -/

/-- The registers of an instruction with their sidecars. -/
def State.withSidecars (s : State) (rs : List Reg) : List Reg := rs ++ s.sidecars rs

/-- Whether the sidecar that each register names is tagged e8m0 (R134). -/
def State.sidecarsValid (s : State) (rs : List Reg) : Bool :=
  rs.all (fun r => !(s.tagOf r).s || (s.tagOf (s.tagOf r).vsc).tag == .e8m0)

/-- Whether VL fits MVL of every register named (R117). -/
def State.vlFits (s : State) (rs : List Reg) : Bool := rs.all (fun r => decide (s.hart.vec.vl ≤ s.mvl (s.widthOf r)))

/-- The length check of even and odd (R34). -/
def State.modFits (s : State) (a : VArgs) : Bool :=
  !(a.mod = 2#3 || a.mod = 3#3) || decide (2 * s.hart.vec.vl ≤ s.mvl (s.widthOf a.vs2))

/-- No register bound as the destination of an instruction (R261). -/
def State.writable (s : State) (rs : List Reg) : Bool := rs.all (fun r => (s.bindingOf r).isNone)

/-- Checks 4 and 5 of R42 for a vector instruction that reads and writes these registers and predicates; `legal` joins the
checks that its own description adds. -/
def State.vectorChecks (s : State) (reads writes : List Reg) (preds : List Nat) (legal : Bool) : Option Trap :=
  let all := reads ++ writes
  if legal && s.sidecarsValid all && s.vlFits (s.withSidecars all) && s.writable (s.withSidecars writes) &&
      s.stripsFit (s.withSidecars reads) s.hart.vec.vl then
    s.absent (s.withSidecars all) preds []
  else some s.illegal

end Sys2Proof.Machine
end

