-- ==== Sys2Proof/Machine/Flags.lean ====
section
/-! DEFINITION. What elements leave behind: stored codes under the mask and tail policies, flags, the exception mask and
block scales (R67, R68, R73, R74, R80, R119, R143). -/

namespace Sys2Proof.Machine

/-- Flags of an element with its exception-mask bit: bit e is set when a raised flag is selected by XCLS (R143). -/
def State.raiseAt (s : State) (e : Nat) (f : Flags) : State :=
  let s := s.raise f
  if f &&& s.hart.fp.xcls = 0 then s
  else
    let v := s.hart.vec
    s.setVec { v with xmask := v.xmask ||| 2 ^ e, pdirty := v.pdirty ||| BitVec.ofNat 51 (2 ^ 50) }

/-- Flags of a list of elements. -/
def State.raiseAll (s : State) (fs : List (Nat × Flags)) : State := fs.foldl (fun s p => s.raiseAt p.1 p.2) s

/-- SetElem as a rounding (R67, R80): the block scale is read as it stood at issue, and an element under a scale of 0xFF is the
tag's NaN without a flag. -/
def State.roundElem (s : State) (vd : Reg) (e : Nat) (m : Mode) (sat : Bool) (y : Value) : Rounded :=
  let t := s.tagOf vd
  let sc := s.scaleOf vd e
  if sc = 255 then ⟨poisonCode t.tag, 0, false⟩ else roundTo t.tag m sat t.s (y.scale (127 - (sc : Int)))

/-- Whether an instruction writes an element of any kind: some element below VL is active and VSTART is below VL (R119). -/
def writesAny (act : Mask) (vstart vl : Nat) : Bool := decide (vstart < vl) && act % 2 ^ vl != 0

/-- Place for a vector register (R119): `codes` are the active elements at and above VSTART; the inactive ones follow MZ and
the tail follows TA. -/
def placeImage (v : VecState) (w vstart vl : Nat) (act : Mask) (old : Image) (codes : List (Nat × Nat)) : Image :=
  let m := setCodes w old codes
  let m := if v.mz then
      ((List.range vl).filter (fun e => decide (vstart ≤ e) && !act.testBit e)).foldl (fun m e => setCode w m e 0) m
    else m
  if v.ta then Sparse.below (vl * w) m else m

/-- Place for a predicate (R119): `new` gives the bits of active elements. -/
def placeMask (v : VecState) (vstart vl : Nat) (act old new : Mask) : Mask :=
  let low := old % 2 ^ vstart
  let range := maskRange (ones vl) vstart vl
  let mid := maskSelect act new (if v.mz then 0 else old) &&& range
  let tail := if v.ta then 0 else old >>> vl <<< vl
  low ||| mid ||| tail

/-- The active elements at and above `vstart` and below `vl`. -/
def activeFrom (act : Mask) (vstart vl : Nat) : List Nat := (List.range vl).filter (fun e => decide (vstart ≤ e) && act.testBit e)

/-- The block scales that poisoned elements set to 0xFF, once each element is stored (R68). -/
def State.poison (s : State) (vd : Reg) (es : List Nat) : State :=
  let t := s.tagOf vd
  if es.isEmpty || !t.s then s
  else (s.setImage t.vsc (es.foldl (fun m e => setCode 1 m (e / t.block) 255) (s.image t.vsc))).markDirty t.vsc

/-- The register and the sidecar it names become dirty (R67, R138). -/
def State.dirtyWithSidecar (s : State) (vd : Reg) : State :=
  let t := s.tagOf vd
  let s := s.markDirty vd
  if t.s then s.markDirty t.vsc else s

/-- Stores rounded elements of vd by Place, with their flags and poisoned scales; `vstart` and `vl` play the parts of VSTART and
VL, and nothing is written when no element is active (R119, R145). The dirty bits are set also where every active element lies below VSTART
and the policies keep the rest: DESIGN CHOICE, entry 44. -/
def State.placeRounded (s : State) (vd : Reg) (vstart vl : Nat) (act : Mask) (rs : List (Nat × Rounded)) : State :=
  if writesAny act vstart vl then
    let codes := rs.map (fun p => (p.1, p.2.code))
    let img := placeImage s.hart.vec (s.widthOf vd) vstart vl act (s.image vd) codes
    let s1 := (s.setImage vd img).dirtyWithSidecar vd
    let s2 := s1.poison vd ((rs.filter (fun p => p.2.poison)).map (fun p => p.1))
    s2.raiseAll (rs.map (fun p => (p.1, p.2.flags)))
  else s

/-- Stores raw codes of vd by Place: no flags, no sidecar touched. -/
def State.placeCodes (s : State) (vd : Reg) (vstart vl : Nat) (act : Mask) (cs : List (Nat × Nat)) : State :=
  if writesAny act vstart vl then
    (s.setImage vd (placeImage s.hart.vec (s.widthOf vd) vstart vl act (s.image vd) cs)).markDirty vd
  else s

/-- Writes a predicate by Place (R119), with its PDIRTY bit even where no bit changes hands (entry 44). -/
def State.placePred (s : State) (pd vstart vl : Nat) (act new : Mask) : State :=
  if writesAny act vstart vl then s.setPred pd (placeMask s.hart.vec vstart vl act (s.pred pd) new) else s

/-- VSTART := 0, as every vector instruction that completes does (R116). -/
def State.vstart0 (s : State) : State := s.setVec { s.hart.vec with vstart := 0 }

end Sys2Proof.Machine
end

