-- ==== Sys2Proof/Machine/Vector.lean ====
section
/-! DEFINITION. What each vector operation of majors 0x19 to 0x25 checks and what it leaves behind (R144 to R163, R365). -/

namespace Sys2Proof.Machine

/-- How an instruction is governed: the predicate it names, the active mask, its rounding field and its length (R32, R36). -/
structure Gov where
  pg : Nat
  act : Mask
  rm : BitVec 3
  len : Nat
  deriving DecidableEq, Repr

/-- A 32-bit form: its own pg field, rounding by FRM. -/
def State.gov (s : State) (pg : BitVec 4) : Gov := ⟨pg.toNat, s.pred pg.toNat, 0, 4⟩

/-- A wide-vector form (R36). -/
def State.govWide (s : State) (pre : VectorPrefix) : Gov := ⟨pre.pg.toNat, s.pred pre.pg.toNat, pre.rm, 8⟩

/-- Mode(rm) (R86). -/
def State.mode (s : State) (g : Gov) : Mode := modeOf s.hart.fp.frm g.rm

/-! ### Element-wise results -/

/-- An element's rounding with the flags of its operation; under a block scale of 0xFF no flag is raised (R67). -/
def State.rounded (s : State) (vd : Reg) (m : Mode) (sat : Bool) (e : Nat) (r : Value × Flags) : Nat × Rounded :=
  let x := s.roundElem vd e m sat r.1
  (e, if s.scaleOf vd e = 255 then x else { x with flags := x.flags ||| r.2 })

/-- Element functions placed in vd, as if VSTART were `vstart` (R145). -/
def State.elementwiseFrom (s : State) (vd : Reg) (g : Gov) (sat : Bool) (vstart : Nat) (f : Nat → Value × Flags) : State :=
  let vl := s.hart.vec.vl
  s.placeRounded vd vstart vl g.act ((activeFrom g.act vstart vl).map (fun e => s.rounded vd (s.mode g) sat e (f e)))

/-- Place(vd, e, F(e)) (R145). -/
def State.elementwise (s : State) (vd : Reg) (g : Gov) (sat : Bool) (f : Nat → Value × Flags) : State :=
  s.elementwiseFrom vd g sat s.hart.vec.vstart f

/-- A code as a register of a tag stores it: an e2m1 element keeps four bits (R60). -/
def Tag.keep (t : Tag) (c : Nat) : Nat := if t = .e2m1 then c % 16 else c % 2 ^ (8 * t.width)

/-- Stored codes placed in vd: no rounding, no flag, no sidecar. -/
def State.rawwise (s : State) (vd : Reg) (g : Gov) (f : Nat → Nat) : State :=
  let v := s.hart.vec
  s.placeCodes vd v.vstart v.vl g.act
    ((activeFrom g.act v.vstart v.vl).map (fun e => (e, (s.tagOf vd).tag.keep (f e))))

/-- The stored code of vs2 that element `e` reads. -/
def State.code2 (s : State) (a : VArgs) (e : Nat) : Nat := s.codeOf a.vs2 (modIndex a.mod a.sz s.hart.vec.vl e)

/-! ### Element functions -/

/-- Rounding to an integral value; a zero keeps the sign of its operand (R151). -/
def Value.integral (m : Mode) (v : Value) : Value :=
  match v with
  | .num neg x => let q := (roundQuot m neg x 0).1; if q = 0 then .zero neg else .num neg (.rat q 1)
  | w => w

/-- The arithmetic of majors 0x19 to 0x1B (R147, R148). -/
def opArith (op : VOp) (m : Mode) (a b c : Value) : Value × Flags :=
  match op with
  | .vadd | .vaddSat => (a.add m b, 0)
  | .vsub | .vsubSat => (a.sub m b, 0)
  | .vmul => (a.mul b, 0)
  | .vdiv => a.div b
  | .vmin => (a.min b, 0)
  | .vmax => (a.max b, 0)
  | .vfma => (a.fma m b c, 0)
  | .vfms => (a.fma m b c.neg, 0)
  | .vfnma => ((a.mul b).neg.add m c, 0)
  | .vfnms => ((a.mul b).neg.add m c.neg, 0)
  | _ => (.zero false, 0)

/-- The value forms of major 0x1E (R151). -/
def opValue (op : VOp) (m : Mode) (a : Value) : Value × Flags :=
  match op with
  | .vneg => (a.neg, 0)
  | .vabs => (a.abs, 0)
  | .vsqrt => (a.sqrt, 0)
  | .vrcp => (Value.ofInt 1).div a
  | .vrsqrt => a.rsqrt
  | .vfloor => (a.integral .rdn, 0)
  | .vceil => (a.integral .rup, 0)
  | .vtrunc => (a.integral .rtz, 0)
  | .vrint => (a.integral m, 0)
  | _ => (a, 0)

/-- Bitwise logic (R149). -/
def opLogic (op : VOp) (w a b : Nat) : Nat :=
  match op with
  | .vand => a &&& b
  | .vor => a ||| b
  | .vxor => a ^^^ b
  | _ => a &&& (b ^^^ (2 ^ (8 * w) - 1))

/-- A shift amount: truncated, then modulo N; zero for NaN (R150). -/
def shiftAmount (n : Nat) (v : Value) : Nat := ((v.roundInt .rtz) % (n : Int)).toNat

/-- The shifts of N-bit codes (R150). -/
def opShift (op : VOp) (n c k : Nat) : Nat :=
  match op with
  | .vsll => (c * 2 ^ k) % 2 ^ n
  | .vsrl => c / 2 ^ k
  | .vsra => wrapInt n (signed n c / (2 ^ k : Nat))
  | _ => (c * 2 ^ k) % 2 ^ n + c / 2 ^ (n - k)

/-- The counts of a stored code (R151). -/
def opCount (op : VOp) (n c : Nat) : Nat :=
  match op with
  | .vclz => clzNat n c
  | .vctz => ctzNat n c
  | _ => popcNat n c

/-- The truth of a comparison, with its flag (R152). -/
def opCompare (op : VOp) (a b : Value) : Bool × Flags :=
  let nan := a.isNan || b.isNan
  let c := a.cmp b
  match op with
  | .vcmpEq => (!nan && c == .eq, 0)
  | .vcmpNe => (nan || c != .eq, 0)
  | .vcmpLt => (!nan && c == .lt, if nan then flagNV else 0)
  | .vcmpLe => (!nan && c != .gt, if nan then flagNV else 0)
  | .vcmpGt => (!nan && c == .gt, if nan then flagNV else 0)
  | .vcmpGe => (!nan && c != .lt, if nan then flagNV else 0)
  | .vcmpUno => (nan, 0)
  | _ => (!nan, 0)

/-! ### Block-scaled conversion (R154) -/

/-- Emax(T). -/
def Tag.emax : Tag → Int
  | .e4m3 => 8
  | .e5m2 => 15
  | .e2m1 => 2
  | _ => 6

/-- The block scale for values of a tag, and whether it is the NaN scale. -/
def blockScale (t : Tag) (vs : List Value) : Nat × Bool :=
  if vs.any (fun v => match v with
    | .nan _ | .inf _ => true
    | _ => false) then (255, true)
  else
    match vs.foldl (fun (m v : Value) => m.max v.abs) (.zero false) with
    | .num _ m => ((Min.min (Max.max (127 + m.log2 - t.emax) 0) 254).toNat, false)
    | _ => (127, false)

/-- `vcvt.blk`: the scales of the blocks with an active element below VL, then the elements; the inactive ones of those blocks keep their
codes, whatever VPOL.MZ says (R154). The NV of a block that holds a NaN or an infinity sets FFLAGS and no bit of XMASK, since it is no one element's:
the spec does not say; DESIGN CHOICE, entry 16. -/
def State.convertBlocks (s : State) (a : VArgs) (g : Gov) : State :=
  let v := s.hart.vec
  if writesAny g.act v.vstart v.vl then
    let t := s.tagOf a.vd
    let active := activeFrom g.act 0 v.vl
    let blocks := (List.range ((v.vl + t.block - 1) / t.block)).filterMap (fun b =>
      match active.filter (fun e => e / t.block == b) with
      | [] => none
      | es => some (b, blockScale t.tag (es.map (fun e => s.elem a.vs1 e))))
    let scaled := s.setImage t.vsc (blocks.foldl (fun m p => setCode 1 m p.1 p.2.1) (s.image t.vsc))
    let flagged := if blocks.any (fun p => p.2.2) then scaled.raise flagNV else scaled
    let rescaled := blocks.foldl (fun m p => m ||| ones t.block <<< (t.block * p.1)) g.act
    flagged.placeRounded a.vd v.vstart v.vl rescaled
      ((activeFrom g.act v.vstart v.vl).map (fun e => flagged.rounded a.vd (s.mode g) true e (s.elem a.vs1 e, 0)))
  else s

/-! ### Moves and permutes (R155 to R157) -/

/-- `vsel`: every element below VL is written, and only the active ones raise flags (R74, R155). -/
def State.select (s : State) (a : VArgs) (g : Gov) : State :=
  let v := s.hart.vec
  let es := activeFrom (ones v.vl) v.vstart v.vl
  if (s.tagOf a.vd).tag = .fx96 then
    s.placeCodes a.vd v.vstart v.vl (ones v.vl)
      (es.map (fun e => (e, if g.act.testBit e then s.codeOf a.vs1 e else s.code2 a e)))
  else
    s.placeRounded a.vd v.vstart v.vl (ones v.vl) (es.map (fun e =>
      if g.act.testBit e then s.rounded a.vd (s.mode g) false e (s.elem a.vs1 e, 0)
      else (e, { s.roundElem a.vd e (s.mode g) false (s.opnd2 a e) with flags := 0 })))

/-- `vext` (R156). -/
def State.extract (s : State) (a : VArgs) : State :=
  let t := (s.tagOf a.vs1).tag
  let i := (s.getX a.vs2).toNat
  s.setX a.vd
    (if s.mvl t.width ≤ i then 0
     else if t.isSigned then intWord (signed (8 * t.width) (s.codeOf a.vs1 i)) else BitVec.ofNat 64 (s.codeOf a.vs1 i))

/-- `vins` (R156). -/
def State.insert (s : State) (a : VArgs) : State :=
  let t := (s.tagOf a.vd).tag
  let i := (s.getX a.vs2).toNat
  if s.mvl t.width ≤ i then s
  else (s.setImage a.vd (setCode t.width (s.image a.vd) i (t.keep (s.getX a.vs1).toNat))).markDirty a.vd

/-- The element that an index names: an integer below VL, else zero (R157). -/
def State.permuted (s : State) (a : VArgs) (i : Value) : Value :=
  match i with
  | .zero _ => if 0 < s.hart.vec.vl then s.elem a.vs1 0 else .zero false
  | .num false (.rat n d) => if n % d = 0 ∧ n / d < s.hart.vec.vl then s.elem a.vs1 (n / d) else .zero false
  | _ => .zero false

/-- `vcompress` (R157): the active elements move down, and the tail begins after the last of them. A write makes vd and the sidecar it names
dirty, be it of the tail alone (R67). A rounding's flags go to the XMASK bit of the element of vd that it fills: DESIGN CHOICE, entry 45. -/
def State.compress (s : State) (a : VArgs) (g : Gov) : State :=
  let v := s.hart.vec
  if v.vl ≤ v.vstart then s
  else
    let from0 := activeFrom g.act 0 v.vl
    let k := from0.length
    let w := s.widthOf a.vd
    let rs := ((List.range k).zip from0).filterMap (fun p =>
      if v.vstart ≤ p.1 then some (s.rounded a.vd (s.mode g) false p.1 (s.elem a.vs1 p.2, 0)) else none)
    let m := setCodes w (s.image a.vd) (rs.map (fun p => (p.1, p.2.code)))
    let m := if v.ta then Sparse.below (max k v.vstart * w) m else m
    let s1 := s.setImage a.vd m
    let s2 := if rs.isEmpty && !v.ta then s1 else s1.dirtyWithSidecar a.vd
    (s2.poison a.vd ((rs.filter (fun p => p.2.poison)).map (fun p => p.1))).raiseAll (rs.map (fun p => (p.1, p.2.flags)))

/-! ### Reductions (R81, R82, R158) -/

/-- Join: an absent operand passes the other through; two values are rounded once (R81). -/
def joinNodes (t : Tag) (m : Mode) (f : Value → Value → Value) (u v : Option Value) : Option Value × Flags :=
  match u, v with
  | none, v => (v, 0)
  | u, none => (u, 0)
  | some a, some b => let r := roundTo t m false false (f a b); (some (decodeElem t r.code), r.flags)

/-- One level of the tree: neighbours joined. -/
def joinLevel (t : Tag) (m : Mode) (f : Value → Value → Value) : List (Option Value) → List (Option Value) × Flags
  | u :: v :: rest =>
    let j := joinNodes t m f u v
    let r := joinLevel t m f rest
    (j.1 :: r.1, j.2 ||| r.2)
  | l => (l, 0)

/-- Levels until one node is left. The tree over 64 element indices and then over group indices, both padded with absent nodes, is one
tree over all element indices (R81). -/
def joinAll (t : Tag) (m : Mode) (f : Value → Value → Value) : Nat → List (Option Value) → Option Value × Flags
  | _, [] => (none, 0)
  | _, [v] => (v, 0)
  | 0, v :: _ => (v, 0)
  | n + 1, l =>
    let r := joinLevel t m f l
    let q := joinAll t m f n r.1
    (q.1, r.2 ||| q.2)

/-- TreeReduce (R81): the code and the flags of every node. -/
def treeReduce (t : Tag) (m : Mode) (f : Value → Value → Value) (nodes : List (Option Value)) (init : Value) : Nat × Flags :=
  let r := joinAll t m f 18 nodes
  let last := match r.1 with
    | none => roundTo t m false false init
    | some v => roundTo t m false false (f init v)
  (last.code, r.2 ||| last.flags)

/-- OrderedReduce (R82). -/
def orderedReduce (t : Tag) (m : Mode) (f : Value → Value → Value) (nodes : List (Option Value)) (init : Value) : Nat × Flags :=
  let first := roundTo t m false false init
  nodes.foldl (fun acc v => match v with
    | none => acc
    | some x => let r := roundTo t m false false (f (decodeElem t acc.1) x); (r.code, acc.2 ||| r.flags)) (first.code, first.flags)

/-- A reduction into element 0; the tail begins at element 1 (R158, R365). -/
def State.reduce (s : State) (a : VArgs) (g : Gov) (ordered : Bool) (f : Value → Value → Value) : State :=
  let v := s.hart.vec
  if writesAny g.act v.vstart v.vl then
    let t := (s.tagOf a.vd).tag
    let nodes := (List.range v.vl).map (fun e => if g.act.testBit e then some (s.elem a.vs1 e) else none)
    let r := (if ordered then orderedReduce else treeReduce) t (s.mode g) f nodes (s.opnd2 a 0)
    let m := if v.vstart = 0 then setCode t.width (s.image a.vd) 0 r.1 else s.image a.vd
    let m := if v.ta then Sparse.below (max 1 v.vstart * t.width) m else m
    let s1 := s.setImage a.vd m
    (if v.vstart = 0 || v.ta then s1.markDirty a.vd else s1).raise r.2
  else s

/-! ### Scans (R83, R84, R159, R160) -/

/-- An element of a scan: its affine map, its offset map, and the flags of both roundings. -/
structure ScanStep where
  e : Nat
  a : Value
  b : Value
  flags : Flags
  deriving DecidableEq, Repr

/-- Rounded into the working tag and read back. -/
def scanRound (t : Tag) (m : Mode) (v : Value) : Value × Flags :=
  let r := roundTo t m false false v
  (decodeElem t r.code, r.flags)

/-- Phase 1 over the present elements of a group (R84). -/
def scanLocal (t : Tag) (m : Mode) (x y : Nat → Value) : List Nat → Option (Value × Value) → List ScanStep
  | [], _ => []
  | e :: es, none =>
    let p := scanRound t m (x e)
    let q := scanRound t m (y e)
    ⟨e, p.1, q.1, p.2 ||| q.2⟩ :: scanLocal t m x y es (some (p.1, q.1))
  | e :: es, some (a, b) =>
    let p := scanRound t m ((x e).mul a)
    let q := scanRound t m ((x e).fma m b (y e))
    ⟨e, p.1, q.1, p.2 ||| q.2⟩ :: scanLocal t m x y es (some (p.1, q.1))

/-- Phase 2: each group with the carry that enters it, then the carry out as a code, with the flags (R84). -/
def scanCarry (t : Tag) (m : Mode) : List (List ScanStep) → Nat → List (List ScanStep × Value) × Nat × Flags
  | [], h => ([], h, 0)
  | steps :: rest, h =>
    let v := decodeElem t h
    match steps.getLast? with
    | none => let r := scanCarry t m rest h; ((steps, v) :: r.1, r.2.1, r.2.2)
    | some last =>
      let x := roundTo t m false false (last.a.fma m v last.b)
      let r := scanCarry t m rest x.code
      ((steps, v) :: r.1, r.2.1, x.flags ||| r.2.2)

/-- The three phases (R83, R84), the results through Place and the carry to x(rs2) (R159, R160, R365). A plain scan is the linear one
with every coefficient 1: 1·u + z is u + z, and rounding 1 raises no flag. -/
def State.scan (s : State) (a : VArgs) (g : Gov) (x y : Nat → Value) : State :=
  let v := s.hart.vec
  let t := (s.tagOf a.vd).tag
  let m := s.mode g
  let present := activeFrom g.act 0 v.vl
  let groups := (List.range ((v.vl + 63) / 64)).map (fun k =>
    scanLocal t m x y (present.filter (fun e => e / 64 == k)) none)
  let cin := roundTo t m false false (decodeElem t ((s.getX a.vs2).toNat % 2 ^ (8 * t.width)))
  let r := scanCarry t m groups cin.code
  let s1 := (s.raiseAll (groups.flatten.map (fun p => (p.e, p.flags)))).raise (cin.flags ||| r.2.2)
  let outs := r.1.flatMap (fun p => (p.1.filter (fun q => decide (v.vstart ≤ q.e))).map (fun q =>
    (q.e, roundTo t m false false (q.a.fma m p.2 q.b))))
  let s2 := s1.placeRounded a.vd v.vstart v.vl g.act outs
  s2.setX a.vs2 (if t.isSigned then intWord (signed (8 * t.width) r.2.1) else BitVec.ofNat 64 r.2.1)

/-! ### Renormalisation (R161) -/

/-- The exponent step of a group: none where the group stays as it is. -/
def renormStep (scale : Nat) (vs : List Value) : Option Int :=
  if scale = 255 ∨ vs.any (fun v => match v with
    | .nan _ | .inf _ => true
    | _ => false) then none
  else
    match vs.foldl (fun (m v : Value) => m.max v.abs) (.zero false) with
    | .num _ m => some (Min.min (Max.max m.log2 (-(scale : Int))) (254 - (scale : Int)))
    | _ => none

/-- `vrenorm`: inactive elements keep their codes, and vs1 has no tail (R161). -/
def State.renorm (s : State) (a : VArgs) (g : Gov) : State :=
  let v := s.hart.vec
  if writesAny g.act v.vstart v.vl then
    let present := activeFrom g.act 0 v.vl
    let steps := (List.range ((v.vl + 63) / 64)).filterMap (fun k =>
      match present.filter (fun e => e / 64 == k) with
      | [] => none
      | es =>
        (renormStep (s.codeOf a.vs1 k) (es.map (fun e => s.elem a.vd e))).map (fun d => (k, d, es)))
    let rs := steps.flatMap (fun p => (p.2.2.filter (fun e => decide (v.vstart ≤ e))).map (fun e =>
      s.rounded a.vd (s.mode g) false e ((s.elem a.vd e).scale (-p.2.1), 0)))
    let w := s.widthOf a.vd
    let m := setCodes w (s.image a.vd) (rs.map (fun p => (p.1, p.2.code)))
    let m := if v.ta then Sparse.below (v.vl * w) m else m
    let s1 := s.setImage a.vd m
    let s2 := if rs.isEmpty && !v.ta then s1 else s1.markDirty a.vd
    let s3 := if steps.isEmpty then s2 else
      (s2.setImage a.vs1 (setCodes 1 (s2.image a.vs1) (steps.map (fun p =>
        (p.1, (((s.codeOf a.vs1 p.1 : Nat) : Int) + p.2.1).toNat))))).markDirty a.vs1
    s3.raiseAll (rs.map (fun p => (p.1, p.2.flags)))
  else s

/-! ### The generator (R162, R163) -/

/-- One round. -/
def rngRound (k0 k1 : BitVec 32) (i : Nat) (p : BitVec 32 × BitVec 32) : BitVec 32 × BitVec 32 :=
  let a := (p.1 ^^^ p.2.rotateLeft 13) * 0xA3B1C5D7#32
  let b := p.2.rotateLeft 7 + a + (if i % 2 = 0 then k0 else k1) + BitVec.ofNat 32 i
  (a, b)

/-- Eight rounds on a key and a counter. -/
def rngWords (key counter : Word) : BitVec 32 × BitVec 32 :=
  (List.range 8).foldl (fun p i => rngRound (key.setWidth 32) (key.extractLsb' 32 32) i p)
    (counter.setWidth 32, counter.extractLsb' 32 32)

/-- The code that `vrng` writes (R162). -/
def rngCode (w : Nat) (key counter : Word) : Nat :=
  let r := rngWords key counter
  if w = 4 then (r.1 ^^^ r.2).toNat else r.2.toNat * 2 ^ 32 + r.1.toNat

/-- The value that `vrng.f` writes, exact in its tag (R163). -/
def rngValue (t : Tag) (key counter : Word) : Value :=
  let r := rngWords key counter
  let x := (r.1 ^^^ r.2).toNat
  match t with
  | .bf16 => mkRat false (x / 2 ^ 24) (2 ^ 8)
  | .fp16 => mkRat false (x / 2 ^ 21) (2 ^ 11)
  | _ => mkRat false (x / 2 ^ 8) (2 ^ 24)

/-! ### What an operation names and admits -/

/-- The registers and predicates that an operation reads and writes, and whether its own checks hold (check 4 of R42). -/
structure Shape where
  reads : List Reg
  writes : List Reg
  preds : List Nat
  legal : Bool
  deriving DecidableEq, Repr

/-- Whether none of the registers is tagged fx96 (R60, R144). -/
def State.noFx (s : State) (rs : List Reg) : Bool := rs.all (fun r => (s.tagOf r).tag != .fx96)

/-- Whether a tag may hold a scan (R159). -/
def Tag.scans (t : Tag) : Bool := t.isInt || t == .fp32 || t == .fp16 || t == .bf16

/-- The operands of an operation, and the tags it admits (R144 to R163). -/
def opShape (op : VOp) (a : VArgs) (s : State) : Shape :=
  let d := s.tagOf a.vd
  let t1 := s.tagOf a.vs1
  let two (legal : Bool) : Shape := ⟨[a.vs1, a.vs2], [a.vd], [], legal && s.modFits a⟩
  let one (legal : Bool) : Shape := ⟨[a.vs1], [a.vd], [], legal⟩
  match op with
  | .vadd | .vsub | .vaddSat | .vsubSat | .vmul | .vdiv | .vmin | .vmax => two (s.noFx [a.vd, a.vs1, a.vs2])
  | .vfma | .vfms | .vfnma | .vfnms => ⟨[a.vs1, a.vs2, a.vd], [a.vd], [], s.noFx [a.vd, a.vs1, a.vs2] && s.modFits a⟩
  | .vand | .vor | .vxor | .vandn =>
    two (s.noFx [a.vd, a.vs1, a.vs2] && d.tag.width == t1.tag.width && d.tag.width == s.widthOf a.vs2)
  | .vsll | .vsrl | .vsra | .vrol => two (d.tag == t1.tag && d.tag.isInt && (s.tagOf a.vs2).tag.isInt)
  | .vneg | .vabs | .vsqrt | .vrcp | .vrsqrt | .vfloor | .vceil | .vtrunc | .vrint => one (s.noFx [a.vd, a.vs1])
  | .vnot => one (d.tag == t1.tag && d.tag.isInt)
  | .vclz | .vctz | .vpopc => one (t1.tag.isInt && s.noFx [a.vd])
  | .vidx => ⟨[], [a.vd], [], s.noFx [a.vd]⟩
  | .vcmpEq | .vcmpNe | .vcmpLt | .vcmpLe | .vcmpGt | .vcmpGe | .vcmpUno | .vcmpOrd =>
    ⟨[a.vs1, a.vs2], [], [a.vd.toNat], s.noFx [a.vs1, a.vs2] && s.modFits a⟩
  | .vcvt | .vcvtSat => one (s.noFx [a.vd])
  | .vcvtBlk => one (d.tag.hasSidecar && d.s && s.noFx [a.vs1])
  | .vsel => two (s.noFx [a.vd, a.vs1, a.vs2] ||
      (d.tag == .fx96 && t1.tag == .fx96 && (s.tagOf a.vs2).tag == .fx96))
  | .vsplat => ⟨[], [a.vd], [], s.noFx [a.vd]⟩
  | .vext => ⟨[a.vs1], [], [], s.noFx [a.vs1]⟩
  | .vins => ⟨[], [a.vd], [], s.noFx [a.vd]⟩
  | .vperm => two (s.noFx [a.vd, a.vs1] && (s.tagOf a.vs2).tag.isInt)
  | .vslup | .vsldn | .vcompress => one (s.noFx [a.vd, a.vs1])
  | .vredsum | .vredsumO | .vredmin | .vredmax => two (!d.s && s.noFx [a.vd, a.vs1, a.vs2])
  | .vscan => one (d.tag.scans && !d.s && s.noFx [a.vs1])
  | .vscanLin => ⟨[a.vs1, a.vd], [a.vd], [], d.tag.scans && !d.s && s.noFx [a.vs1]⟩
  | .vrenorm => ⟨[a.vs1, a.vd], [a.vd, a.vs1], [], (d.tag == .fp32 || d.tag == .fp16 || d.tag == .bf16) && t1.tag == .e8m0⟩
  | .vrng => ⟨[], [a.vd], [], d.tag == .int32 || d.tag == .nat32 || d.tag == .int64 || d.tag == .nat64⟩
  | .vrngF => ⟨[], [a.vd], [], d.tag == .fp32 || d.tag == .fp16 || d.tag == .bf16⟩

/-! ### What an operation leaves behind -/

/-- The registers, predicates, flags and scalars that an operation writes, its sources in place. -/
def opEffect (op : VOp) (a : VArgs) (g : Gov) (s : State) : State :=
  let m := s.mode g
  let x (e : Nat) : Value := s.elem a.vs1 e
  let shift (r : Reg) : Nat := (s.getX r).toNat
  match op with
  | .vaddSat | .vsubSat => s.elementwise a.vd g true (fun e => opArith op m (x e) (s.opnd2 a e) (.zero false))
  | .vadd | .vsub | .vmul | .vdiv | .vmin | .vmax =>
    s.elementwise a.vd g false (fun e => opArith op m (x e) (s.opnd2 a e) (.zero false))
  | .vfma | .vfms | .vfnma | .vfnms => s.elementwise a.vd g false (fun e => opArith op m (x e) (s.opnd2 a e) (s.elem a.vd e))
  | .vand | .vor | .vxor | .vandn => s.rawwise a.vd g (fun e => opLogic op (s.widthOf a.vd) (s.codeOf a.vs1 e) (s.code2 a e))
  | .vsll | .vsrl | .vsra | .vrol =>
    let n := 8 * s.widthOf a.vd
    s.rawwise a.vd g (fun e => opShift op n (s.codeOf a.vs1 e) (shiftAmount n (s.opnd2 a e)))
  | .vneg | .vabs | .vsqrt | .vrcp | .vrsqrt | .vfloor | .vceil | .vtrunc | .vrint =>
    s.elementwise a.vd g false (fun e => opValue op m (x e))
  | .vnot => s.rawwise a.vd g (fun e => s.codeOf a.vs1 e ^^^ (2 ^ (8 * s.widthOf a.vd) - 1))
  | .vclz | .vctz | .vpopc =>
    s.elementwise a.vd g false (fun e => (.ofInt (opCount op (8 * s.widthOf a.vs1) (s.codeOf a.vs1 e) : Nat), 0))
  | .vidx => s.elementwise a.vd g false (fun e => (.ofInt (e : Nat), 0))
  | .vcmpEq | .vcmpNe | .vcmpLt | .vcmpLe | .vcmpGt | .vcmpGe | .vcmpUno | .vcmpOrd =>
    let v := s.hart.vec
    let rs := (activeFrom g.act v.vstart v.vl).map (fun e => (e, opCompare op (x e) (s.opnd2 a e)))
    let new := rs.foldl (fun acc p => if p.2.1 then acc ||| 2 ^ p.1 else acc) 0
    (s.placePred a.vd.toNat v.vstart v.vl g.act new).raiseAll (rs.map (fun p => (p.1, p.2.2)))
  | .vcvt => s.elementwise a.vd g false (fun e => (x e, 0))
  | .vcvtSat => s.elementwise a.vd g true (fun e => (x e, 0))
  | .vcvtBlk => s.convertBlocks a g
  | .vsel => s.select a g
  | .vsplat => s.rawwise a.vd g (fun _ => (s.getX a.vs1).toNat)
  | .vext => s.extract a
  | .vins => s.insert a
  | .vperm => s.elementwise a.vd g false (fun e => (s.permuted a (s.opnd2 a e), 0))
  | .vslup =>
    let k := shift a.vs2
    s.elementwiseFrom a.vd g false (max s.hart.vec.vstart (min k s.hart.vec.vl)) (fun e => (x (e - k), 0))
  | .vsldn => s.elementwise a.vd g false (fun e => (if e + shift a.vs2 < s.hart.vec.vl then x (e + shift a.vs2) else .zero false, 0))
  | .vcompress => s.compress a g
  | .vredsum => s.reduce a g false (fun u v => u.add m v)
  | .vredsumO => s.reduce a g true (fun u v => u.add m v)
  | .vredmin => s.reduce a g false Value.min
  | .vredmax => s.reduce a g false Value.max
  | .vscan => s.scan a g (fun _ => .ofInt 1) x
  | .vscanLin => s.scan a g x (fun e => s.elem a.vd e)
  | .vrenorm => s.renorm a g
  | .vrng => s.rawwise a.vd g (fun e => rngCode (s.widthOf a.vd) (s.getX a.vs1) (s.getX a.vs2 + BitVec.ofNat 64 e))
  | .vrngF =>
    s.elementwise a.vd g false (fun e => (rngValue (s.tagOf a.vd).tag (s.getX a.vs1) (s.getX a.vs2 + BitVec.ofNat 64 e), 0))

/-! ### A vector instruction -/

/-- Checks 4 and 5, the strips it reads, its effect, VSTART := 0 and retirement (R42, R145, R262). -/
def State.vector (s : State) (op : VOp) (a : VArgs) (g : Gov) : Result :=
  let sh := opShape op a s
  check (s.vectorChecks sh.reads sh.writes (g.pg :: sh.preds) sh.legal) s
    (let bs := s.readBindings (s.withSidecars sh.reads)
     match s.takeStrips bs with
      | .error (t, s') => .trap t s'
      | .ok s' => .done (((opEffect op a g s').popStrips bs).vstart0.retire g.len))

end Sys2Proof.Machine
end

