-- ==== Sys2Proof/Machine/Context.lean ====
section
/-! DEFINITION. Spilling and filling registers, evicting them, and setting pf (R324 to R327). -/

namespace Sys2Proof.Machine

/-- Whether an unfinished transfer or restore of the hart reports into one of the predicates, or a `scopy` that still waits to start will
(R245). -/
def State.reportsInto (s : State) (named : Nat → Bool) : Bool :=
  s.transfers.any (fun t => match t.owner with
    | .hart k pd => k == s.hart.key && named pd.toNat
    | .copy _ _ => false) ||
  s.streams.any (fun t => match t.restore with
    | some r => !r.chunks.isEmpty && r.reports.any (fun p => p.1 == s.hart.key && named p.2.toNat)
    | none => false) ||
  s.waits.any (fun p => p.hart == s.hart.key && (match p.what with
    | .copy pd _ _ _ _ _ _ => named pd.toNat
    | _ => false))

/-! ### Images by 64-byte units (R325) -/

/-- Where a unit's access lands, or its fault. -/
def State.unitSpot (s : State) (k : Acc) (base : Word) (u : Nat) : Except Trap Nat :=
  let va := base + BitVec.ofNat 64 (64 * u)
  let trap (id : BitVec 16) : Trap := .plain id va (accessWord k.code true u)
  match s.resolve s.vectorView k va with
  | .error id => .error (trap id)
  | .ok (.remote _ _) => .error (trap effProtection)
  | .ok (.local key) => .ok key

/-- The units from VSTART on, below `n`, each with its spot; then the lowest that faults. -/
def State.unitSpots (s : State) (k : Acc) (base : Word) (n : Nat) : List (Nat × Except Trap Nat) :=
  ((List.range n).filter (fun u => decide (s.hart.vec.vstart ≤ u))).map (fun u => (u, s.unitSpot k base u))

/-- The lowest unit that faults. -/
def firstUnitFault (us : List (Nat × Except Trap Nat)) : Option (Nat × Trap) :=
  us.findSome? (fun p => match p.2 with
    | .error t => some (p.1, t)
    | .ok _ => none)

/-- The units performed: all below the fault, and of those above it the ones that the machine had reached (R189). -/
def State.unitsDone (s : State) (us : List (Nat × Except Trap Nat)) (fault : Option Nat) : List (Nat × Nat) :=
  us.filterMap (fun p => match p.2, fault with
    | .ok key, none => some (p.1, key)
    | .ok key, some k => if p.1 < k || Config.performsAbove s.ticks p.1 then some (p.1, key) else none
    | .error _, _ => none)

/-- Runs a spill or fill of `n` units: `perform` acts on the units done, `finish` follows the last of them (R189, R325). -/
def State.byUnits (s : State) (k : Acc) (base : Word) (n : Nat) (perform : State → List (Nat × Nat) → State)
    (finish : State → State) : Result :=
  if base.toNat % 64 ≠ 0 then .trap (.plain effMisaligned base (accessWord k.code true 0)) s
  else
    let us := s.unitSpots k base n
    let note (s : State) (p : Nat × Nat) : State := s.noteUse s.vectorView (base + BitVec.ofNat 64 (64 * p.1))
    match firstUnitFault us with
    | none =>
      let done := s.unitsDone us none
      .done ((finish (perform (done.foldl note s) done)).vstart0.retire 4)
    | some (u, t) =>
      let done := s.unitsDone us (some u)
      let s1 := perform (done.foldl note s) done
      .trap { t with pm := 2 ^ u } (s1.setVec { s1.hart.vec with vstart := u })

/-- Stores units of an image. -/
def storeUnits (img : Image) (s : State) (done : List (Nat × Nat)) : State :=
  done.foldl (fun s p => s.vectorWrite p.2 (Sparse.getList 0 img (64 * p.1) 64)) s

/-- A mask as an image (R325). -/
def maskImage (n : Nat) (m : Mask) : Image := Sparse.setList 0 [] 0 (maskBytes n m)

/-- The dirty bit of a vector register cleared, the register present where `filled`. -/
def State.cleanReg (s : State) (r : Reg) (filled : Bool) : State :=
  let v := s.hart.vec
  let bit := BitVec.ofNat 32 (2 ^ r.toNat)
  s.setVec { v with dirty := v.dirty &&& ~~~bit, present := if filled then v.present ||| bit else v.present }

/-- The dirty bit of a predicate cleared, the predicate present where `filled`; pf has neither. -/
def State.cleanPred (s : State) (p : Nat) (filled : Bool) : State :=
  let v := s.hart.vec
  let bit := if p = 48 then 0 else BitVec.ofNat 51 (2 ^ p)
  s.setVec { v with pdirty := v.pdirty &&& ~~~bit, ppresent := if filled then v.ppresent ||| bit else v.ppresent }

/-- `vspill vN, (rs1)` (R325). -/
def execVspill (reg : BitVec 6) (rs1 : Reg) (s : State) : Out :=
  let r : Reg := reg.setWidth 5
  (check (s.legalIf (s.bindingOf r).isNone) s
    (check (s.absent [r] [] []) s
      (s.byUnits .store (s.getX rs1) (64 * s.lanes) (storeUnits (s.image r)) (fun s => s.cleanReg r false)))).out

/-- The held vector loads that the units of a fill follow have read (R231). -/
def State.unitsRead (s : State) (done : List (Nat × Nat)) : State := s.finishLoads (fun l => done.any (fun p => l.meets true p.2 64))

/-- `vfill vN, (rs1)` (R325). -/
def execVfill (reg : BitVec 6) (rs1 : Reg) (s : State) : Out :=
  let r : Reg := reg.setWidth 5
  let fill (s : State) (done : List (Nat × Nat)) : State :=
    let s := s.unitsRead done
    (s.sawVector (done.map (fun p => (p.2, 64)))).setImage r (done.foldl (fun m p => Sparse.setList 0 m (64 * p.1) (s.vectorBytes p.2 64)) (s.image r))
  (check (s.legalIf (s.bindingOf r).isNone) s
    (s.byUnits .load (s.getX rs1) (64 * s.lanes) fill (fun s => s.cleanReg r true))).out

/-- `vspill` of a predicate, pf or XMASK; it waits for the transfers that report into the predicate (R245, R325). -/
def execVspillP (reg : BitVec 6) (rs1 : Reg) (s : State) : Out :=
  let p := reg.toNat
  (check (s.absent [] [p] []) s
    (if s.reportsInto (fun n => n == p) then .done (s.wait .engine)
     else
      s.byUnits .store (s.getX rs1) (8 * s.lanes) (storeUnits (maskImage (512 * s.lanes) (s.pred p))) (fun s => s.cleanPred p false))).out

/-- Bytes of a mask replaced at the units read. -/
def fillMask (s : State) (m : Mask) (done : List (Nat × Nat)) : Mask :=
  done.foldl (fun m p => m % 2 ^ (512 * p.1) + leNat (s.vectorBytes p.2 64) * 2 ^ (512 * p.1) +
    m / 2 ^ (512 * (p.1 + 1)) * 2 ^ (512 * (p.1 + 1))) m

/-- A predicate's bits alone. -/
def State.putPred (s : State) (p : Nat) (m : Mask) : State :=
  let v := s.hart.vec
  if p = 50 then s.setVec { v with xmask := m } else s.setVec { v with preds := v.preds.setIfInBounds p m }

/-- `vfill` of a predicate or XMASK (R325). -/
def execVfillP (reg : BitVec 6) (rs1 : Reg) (s : State) : Out :=
  let p := reg.toNat
  (s.byUnits .load (s.getX rs1) (8 * s.lanes) (fun s done =>
    let s := s.unitsRead done
    (s.sawVector (done.map (fun p => (p.2, 64)))).putPred p (fillMask s (s.pred p) done)) (fun s => s.cleanPred p true)).out

/-! ### pfset and evict (R326, R327) -/

/-- pf := ps (R327). VSTART stays as it was, here and in the three forms of `evict`: the spec does not say; DESIGN CHOICE, entry 41. -/
def execPfset (reg : BitVec 6) (s : State) : Out :=
  (check (s.absent [] [reg.toNat] []) s (.done ((s.setVec { s.hart.vec with pf := s.pred reg.toNat }).retire 4))).out

/-- `evict.v` skips bound registers (R326); VSTART stays (entry 41). -/
def execEvictV (rs1 : Reg) (s : State) : Out :=
  let v := s.hart.vec
  let named := (List.range 32).foldl (fun m n =>
    if (s.getX rs1).getLsbD n && (s.bindingOf (BitVec.ofNat 5 n)).isNone then m ||| 2 ^ n else m) 0
  let gone := ~~~(BitVec.ofNat 32 named)
  (check s.needSup s (.done ((s.setVec { v with present := v.present &&& gone, dirty := v.dirty &&& gone }).retire 4))).out

/-- `evict.p` waits for the transfers that report into a named predicate (R326); VSTART stays (entry 41). -/
def execEvictP (rs1 : Reg) (s : State) : Out :=
  let v := s.hart.vec
  let named : BitVec 51 := (s.getX rs1).setWidth 51 &&& 0x4FFFFFFFFFFFE
  (check s.needSup s
    (if s.reportsInto (fun n => named.getLsbD n) then .done (s.wait .engine)
     else .done ((s.setVec { v with ppresent := v.ppresent &&& ~~~named, pdirty := v.pdirty &&& ~~~named }).retire 4))).out

/-- `evict.a` (R326); VSTART stays (entry 41). -/
def execEvictA (rs1 : Reg) (s : State) : Out :=
  let m := s.hart.mat
  let gone : BitVec 2 := ~~~((s.getX rs1).setWidth 2)
  (check s.needSup s (.done ((s.setMat { m with present := m.present &&& gone, dirty := m.dirty &&& gone }).retire 4))).out

end Sys2Proof.Machine
end

