-- ==== Sys2Proof/WellFormed.lean ====
section
/-! DEFINITION. Which terms of the syntax an encoding admits: reserved values, unused fields and ranges (R1, R31).
Checks that depend on the state (tags, mode, lane count) belong to the meanings. -/

namespace Sys2Proof

/-- Assigned control-register numbers (R89). -/
def crnAssigned (crn : BitVec 12) : Bool :=
  let n := crn.toNat
  n ≤ 0x005 || (0x008 ≤ n && n ≤ 0x015) || (0x020 ≤ n && n ≤ 0x028) || (0x030 ≤ n && n ≤ 0x037) ||
  (0x040 ≤ n && n ≤ 0x042) || (0x050 ≤ n && n ≤ 0x05B) || (0x060 ≤ n && n ≤ 0x064)

/-- Scope codes hart to system (R191). -/
def scopeOk (scope : BitVec 3) : Bool := scope.toNat ≤ 5

/-- Completion predicates p1 to p47 (R246, R277). -/
def completionOk (pd : BitVec 6) : Bool := 1 ≤ pd.toNat && pd.toNat ≤ 47

/-- Predicates that `vfill` and `pfset` name: p1 to p47 and XMASK (R324). -/
def predTarget (reg : BitVec 6) : Bool := (1 ≤ reg.toNat && reg.toNat ≤ 47) || reg = 50#6

/-- The vs2 modifier and its size (R33). -/
def modOk (mod : BitVec 3) (sz : BitVec 2) : Bool := mod.toNat ≤ 4 && (sz = 0#2 || mod = 1#3)

/-- Rounding formats of scalar arithmetic (R105). -/
def fsArith (a : FArgs) : Bool := a.rm.toNat ≤ 4 && a.fmt ≠ 3#2

/-- Scalar operations with one source (R106, R107). -/
def fsUnary (a : FArgs) : Bool := fsArith a && a.rs2 = 0#5

/-- `fcvt` names its source format in rs2 (R107). -/
def fsConvert (a : FArgs) : Bool :=
  fsArith a && (a.rs2.toNat ≤ 2 || a.rs2 = 4#5 || a.rs2 = 5#5)

/-- Scalar operations that round nothing (R105). -/
def fsExact (a : FArgs) : Bool := a.fmt ≠ 3#2 && a.rm = 0#3

/-- Type and scope of an atomic (R191, R192). -/
def amoWf (types : List (BitVec 2)) (a : AmoArgs) : Bool := types.contains a.ty && scopeOk a.scope

/-- Tags that may name a sidecar: int8, e4m3, e5m2, e2m1 (R59). -/
def sidecarTag (tag : BitVec 5) : Bool := tag = 4#5 || tag = 11#5 || tag = 12#5 || tag = 13#5

/-- Entries `vcfg` and `vretag` may write, apart from the sidecar's own tag (R134). -/
def tagEntryWf (vd : Reg) (tag : BitVec 5) (s b : Bool) (vsc : Reg) : Bool :=
  tag.toNat ≤ 15 && (if s then sidecarTag tag && vsc ≠ vd else !b && vsc = 0#5)

/-- Operations of major 0x1E (R151). -/
def VOp.unary : VOp → Bool
  | .vneg | .vabs | .vsqrt | .vrcp | .vrsqrt | .vfloor | .vceil | .vtrunc | .vrint | .vnot | .vclz | .vctz | .vpopc | .vidx => true
  | _ => false

/-- Operations whose vs2 field takes a modifier (R33, R34). -/
def VOp.modified : VOp → Bool
  | .vneg | .vabs | .vsqrt | .vrcp | .vrsqrt | .vfloor | .vceil | .vtrunc | .vrint | .vnot | .vclz | .vctz | .vpopc
  | .vidx | .vcvt | .vcvtSat | .vcvtBlk | .vsplat | .vext | .vins | .vslup | .vsldn | .vcompress | .vscan | .vscanLin
  | .vrenorm | .vrng | .vrngF => false
  | _ => true

/-- Operations whose vs2 field must be zero once its sub-function is taken out (R151, R153, R155, R157, R161). -/
def VOp.noVs2 (op : VOp) : Bool :=
  op.unary || match op with
  | .vcvt | .vcvtSat | .vcvtBlk | .vsplat | .vcompress | .vrenorm => true
  | _ => false

/-- Comparisons of major 0x1F, whose destination is p0 to p15 (R152). -/
def VOp.compare : VOp → Bool
  | .vcmpEq | .vcmpNe | .vcmpLt | .vcmpLe | .vcmpGt | .vcmpGe | .vcmpUno | .vcmpOrd => true
  | _ => false

/-- Bodies with a rounding field in the wide form (R144). The immediate `vsplat` is an instruction of its own. -/
def VOp.rounds : VOp → Bool
  | .vand | .vor | .vxor | .vandn | .vsll | .vsrl | .vsra | .vrol | .vnot | .vcmpEq | .vcmpNe | .vcmpLt | .vcmpLe
  | .vcmpGt | .vcmpGe | .vcmpUno | .vcmpOrd | .vsplat | .vext | .vins | .vrng | .vrngF => false
  | _ => true

/-- The fields of a vector operation (R33, R34, R151 to R163). -/
def VOp.wf (op : VOp) (a : VArgs) : Bool :=
  modOk a.mod a.sz && (op.modified || (a.mod = 0#3 && a.sz = 0#2)) && (!op.noVs2 || a.vs2 = 0#5) &&
  (!op.compare || a.vd.toNat ≤ 15) && (op != .vidx || a.vs1 = 0#5) &&
  (!(op == .vext || op == .vins) || a.pg = 0#4)

/-- Indexed vector memory operations (R179). -/
def MOp.indexed : MOp → Bool
  | .vgather | .vgatherO | .vscatter | .vscatterO | .vscatterX | .vscatterOX => true
  | _ => false

/-- Strided vector memory operations (R179). -/
def MOp.strided : MOp → Bool
  | .vlds | .vldsO | .vldsTr | .vldsOTr | .vsts | .vstsO | .vstsX | .vstsOX => true
  | _ => false

/-- The fields of a vector memory operation (R179). -/
def MOp.wf (op : MOp) (a : VArgs) : Bool :=
  modOk a.mod a.sz && (op.indexed || (a.mod = 0#3 && a.sz = 0#2)) &&
  (op.indexed || op.strided || a.vs2 = 0#5) && (!(op.indexed || op.strided) || a.vs1.toNat ≤ 15)

/-- The fields of a predicate-logic operation (R166, R167): pf and pe are no destinations (R36). -/
def POp.wf (op : POp) (a : PArgs) : Bool :=
  (a.pd.toNat ≤ 47 || a.pd = 50#6) && a.ps1.toNat ≤ 50 && a.ps2.toNat ≤ 50 &&
  match op with
  | .pand | .por | .pxor | .pandn => true
  | .pmov | .pnot | .pbrk | .pbrkb => a.ps2 = 0#6
  | .pset | .pclr => a.ps1 = 0#6 && a.ps2 = 0#6

/-- Bodies of a wide-vector form (R36). -/
def VectorBody.wf : VectorBody → Bool
  | .vec op a => op.wf a && a.pg = 0#4
  | .mem op a => op.wf a && a.pg = 0#4
  | .pred op a => op.wf a && a.pg = 0#4
  | .count _ a => a.ps1.toNat ≤ 50 && a.pg = 0#4
  | .pair => true

/-- Whether a body rounds (R144). -/
def VectorBody.rounds : VectorBody → Bool
  | .vec op _ => op.rounds
  | _ => false

/-- Bodies whose governing predicate must be p0 (R156). -/
def VectorBody.ungoverned : VectorBody → Bool
  | .vec .vext _ | .vec .vins _ => true
  | _ => false

/-- The first word of a wide-vector form, against its body (R36). -/
def VectorPrefix.wfFor (pre : VectorPrefix) (body : VectorBody) : Bool :=
  pre.pg.toNat ≤ 49 && pre.rm.toNat ≤ 4 && (body.rounds || pre.rm = 0#3) && pre.immx = 0#17 &&
  (!body.ungoverned || pre.pg = 0#6)

/-- Bodies of a wide-system form (R37). -/
def SystemBody.wf : SystemBody → Bool
  | .lrewind pd _ | .lopen pd _ => completionOk pd
  | _ => true

/-- `opa` (R210, R211). -/
def OpaArgs.wf (a : OpaArgs) : Bool :=
  a.prow.toNat ≤ 49 && a.pcol.toNat ≤ 49 && modOk a.mod1 a.sz1 && modOk a.mod2 a.sz2

/-- `resolve` (R215). -/
def ResolveArgs.wf (a : ResolveArgs) : Bool :=
  a.pg.toNat ≤ 49 && a.rm.toNat ≤ 4 && (!a.fx || (a.rm = 0#3 && !a.sat)) &&
  (if a.isImm then a.rs1 = 0#5 else a.idx = 0#8)

/-- `acmp` (R218). -/
def AcmpArgs.wf (a : AcmpArgs) : Bool :=
  a.pg.toNat ≤ 49 && a.cc.toNat ≤ 5 && a.pd.toNat ≤ 47 && (!a.zero || a.vs1 = 0#5) &&
  (if a.isImm then a.rs1 = 0#5 else a.idx = 0#8)

/-- Every field of the instruction holds a value the spec does not reserve; for a step that is no instruction of a
hart there is nothing to check. -/
def Instr.wf : Instr → Bool
  | .cycles _ => true
  | .retired _ => true
  | .add _ _ _ => true
  | .sub _ _ _ => true
  | .and _ _ _ => true
  | .or _ _ _ => true
  | .xor _ _ _ => true
  | .andn _ _ _ => true
  | .sll _ _ _ => true
  | .srl _ _ _ => true
  | .sra _ _ _ => true
  | .slt _ _ _ => true
  | .sltu _ _ _ => true
  | .min _ _ _ => true
  | .max _ _ _ => true
  | .minu _ _ _ => true
  | .maxu _ _ _ => true
  | .mul _ _ _ => true
  | .mulhiSs _ _ _ => true
  | .mulhiUu _ _ _ => true
  | .mulhiSu _ _ _ => true
  | .div _ _ _ => true
  | .divu _ _ _ => true
  | .rem _ _ _ => true
  | .remu _ _ _ => true
  | .clz _ _ => true
  | .ctz _ _ => true
  | .popc _ _ => true
  | .addi _ _ _ => true
  | .andi _ _ _ => true
  | .ori _ _ _ => true
  | .xori _ _ _ => true
  | .slti _ _ _ => true
  | .sltiu _ _ _ => true
  | .slli _ _ _ => true
  | .srli _ _ _ => true
  | .srai _ _ _ => true
  | .lis _ _ _ => true
  | .lisK _ _ _ => true
  | .addpc _ _ => true
  | .jal _ _ => true
  | .jalr _ _ _ => true
  | .beq _ _ _ => true
  | .bne _ _ _ => true
  | .blt _ _ _ => true
  | .bge _ _ _ => true
  | .bltu _ _ _ => true
  | .bgeu _ _ _ => true
  | .lb _ _ _ => true
  | .lh _ _ _ => true
  | .lw _ _ _ => true
  | .ld _ _ _ => true
  | .lbu _ _ _ => true
  | .lhu _ _ _ => true
  | .lwu _ _ _ => true
  | .sb _ _ _ => true
  | .sh _ _ _ => true
  | .sw _ _ _ => true
  | .sd _ _ _ => true
  | .loop _ _ imm => decide (3 ≤ imm.toNat ∧ imm.toNat ≤ 32767)
  | .crr _ crn => crnAssigned crn
  | .crw _ crn _ => crnAssigned crn
  | .crs _ crn _ => crnAssigned crn
  | .crc _ crn _ => crnAssigned crn
  | .fadd a => fsArith a
  | .fsub a => fsArith a
  | .fmul a => fsArith a
  | .fdiv a => fsArith a
  | .fsqrt a => fsUnary a
  | .fmadd a => fsArith a
  | .fmin a => fsExact a
  | .fmax a => fsExact a
  | .fsignCp a => fsExact a
  | .fsignNg a => fsExact a
  | .fsignXr a => fsExact a
  | .feq a => fsExact a
  | .flt a => fsExact a
  | .fle a => fsExact a
  | .fcvt a => fsConvert a
  | .fcvtInt64 a => fsUnary a
  | .fcvtInt64Sat a => fsUnary a
  | .fcvtNat64 a => fsUnary a
  | .fcvtNat64Sat a => fsUnary a
  | .amoadd a => amoWf [0#2, 1#2] a && decide (a.rd = 0#5)
  | .amoand a => amoWf [0#2, 1#2] a && decide (a.rd = 0#5)
  | .amoor a => amoWf [0#2, 1#2] a && decide (a.rd = 0#5)
  | .amoxor a => amoWf [0#2, 1#2] a && decide (a.rd = 0#5)
  | .amomin a => amoWf [0#2, 1#2] a && decide (a.rd = 0#5)
  | .amomax a => amoWf [0#2, 1#2] a && decide (a.rd = 0#5)
  | .amominu a => amoWf [0#2, 1#2] a && decide (a.rd = 0#5)
  | .amomaxu a => amoWf [0#2, 1#2] a && decide (a.rd = 0#5)
  | .amofx a => amoWf [1#2] a && decide (a.rd = 0#5)
  | .amoswap a => amoWf [0#2, 1#2] a
  | .amocas a => amoWf [0#2, 1#2] a
  | .amofadd a => amoWf [0#2, 1#2, 2#2] a
  | .lda a => amoWf [0#2, 1#2] a && decide (a.ord = 1#2) && decide (a.rs2 = 0#5)
  | .str a => amoWf [0#2, 1#2] a && decide (a.ord = 2#2) && decide (a.rd = 0#5)
  | .fence set scope => decide (set ≠ 0#4) && scopeOk scope
  | .prefetch _ _ => true
  | .tlbinv _ => true
  | .setvl _ _ wc cap rs2 => decide (wc.toNat ≤ 4) && (cap || decide (rs2 = 0#5))
  | .setvlG _ _ wc cap rs2 => decide (wc.toNat ≤ 4) && (cap || decide (rs2 = 0#5))
  | .vcfg vd tag s b vsc => tagEntryWf vd tag s b vsc
  | .vretag vd tag s b vsc => tagEntryWf vd tag s b vsc
  | .hwpub _ => true
  | .lpartRcl _ _ _ => true
  | .lpartWt _ _ => true
  | .mstart rows _ rs1 => decide (rs1 = 0#5) || decide (rows = 0#8)
  | .mstartKeep rows _ rs1 => decide (rs1 = 0#5) || decide (rows = 0#8)
  | .vadd a => VOp.wf .vadd a
  | .vsub a => VOp.wf .vsub a
  | .vaddSat a => VOp.wf .vaddSat a
  | .vsubSat a => VOp.wf .vsubSat a
  | .vmul a => VOp.wf .vmul a
  | .vdiv a => VOp.wf .vdiv a
  | .vmin a => VOp.wf .vmin a
  | .vmax a => VOp.wf .vmax a
  | .vfma a => VOp.wf .vfma a
  | .vfms a => VOp.wf .vfms a
  | .vfnma a => VOp.wf .vfnma a
  | .vfnms a => VOp.wf .vfnms a
  | .vand a => VOp.wf .vand a
  | .vor a => VOp.wf .vor a
  | .vxor a => VOp.wf .vxor a
  | .vandn a => VOp.wf .vandn a
  | .vsll a => VOp.wf .vsll a
  | .vsrl a => VOp.wf .vsrl a
  | .vsra a => VOp.wf .vsra a
  | .vrol a => VOp.wf .vrol a
  | .vneg a => VOp.wf .vneg a
  | .vabs a => VOp.wf .vabs a
  | .vsqrt a => VOp.wf .vsqrt a
  | .vrcp a => VOp.wf .vrcp a
  | .vrsqrt a => VOp.wf .vrsqrt a
  | .vfloor a => VOp.wf .vfloor a
  | .vceil a => VOp.wf .vceil a
  | .vtrunc a => VOp.wf .vtrunc a
  | .vrint a => VOp.wf .vrint a
  | .vnot a => VOp.wf .vnot a
  | .vclz a => VOp.wf .vclz a
  | .vctz a => VOp.wf .vctz a
  | .vpopc a => VOp.wf .vpopc a
  | .vidx a => VOp.wf .vidx a
  | .vcmpEq a => VOp.wf .vcmpEq a
  | .vcmpNe a => VOp.wf .vcmpNe a
  | .vcmpLt a => VOp.wf .vcmpLt a
  | .vcmpLe a => VOp.wf .vcmpLe a
  | .vcmpGt a => VOp.wf .vcmpGt a
  | .vcmpGe a => VOp.wf .vcmpGe a
  | .vcmpUno a => VOp.wf .vcmpUno a
  | .vcmpOrd a => VOp.wf .vcmpOrd a
  | .vcvt a => VOp.wf .vcvt a
  | .vcvtSat a => VOp.wf .vcvtSat a
  | .vcvtBlk a => VOp.wf .vcvtBlk a
  | .vsel a => VOp.wf .vsel a
  | .vsplat a => VOp.wf .vsplat a
  | .vsplatImm pre _ _ => decide (pre.pg.toNat ≤ 49) && decide (pre.rm.toNat ≤ 4)
  | .vext a => VOp.wf .vext a
  | .vins a => VOp.wf .vins a
  | .vperm a => VOp.wf .vperm a
  | .vslup a => VOp.wf .vslup a
  | .vsldn a => VOp.wf .vsldn a
  | .vcompress a => VOp.wf .vcompress a
  | .vredsum a => VOp.wf .vredsum a
  | .vredsumO a => VOp.wf .vredsumO a
  | .vredmin a => VOp.wf .vredmin a
  | .vredmax a => VOp.wf .vredmax a
  | .vscan a => VOp.wf .vscan a
  | .vscanLin a => VOp.wf .vscanLin a
  | .vrenorm a => VOp.wf .vrenorm a
  | .vrng a => VOp.wf .vrng a
  | .vrngF a => VOp.wf .vrngF a
  | .pair _ => true
  | .pand a => POp.wf .pand a
  | .por a => POp.wf .por a
  | .pxor a => POp.wf .pxor a
  | .pandn a => POp.wf .pandn a
  | .pmov a => POp.wf .pmov a
  | .pnot a => POp.wf .pnot a
  | .pset a => POp.wf .pset a
  | .pclr a => POp.wf .pclr a
  | .pbrk a => POp.wf .pbrk a
  | .pbrkb a => POp.wf .pbrkb a
  | .pcnt a => decide (a.ps1.toNat ≤ 50)
  | .pfirst a => decide (a.ps1.toNat ≤ 50)
  | .plast a => decide (a.ps1.toNat ≤ 50)
  | .vld a => MOp.wf .vld a
  | .vldO a => MOp.wf .vldO a
  | .vldTr a => MOp.wf .vldTr a
  | .vldOTr a => MOp.wf .vldOTr a
  | .vst a => MOp.wf .vst a
  | .vstO a => MOp.wf .vstO a
  | .vstX a => MOp.wf .vstX a
  | .vstOX a => MOp.wf .vstOX a
  | .vlds a => MOp.wf .vlds a
  | .vldsO a => MOp.wf .vldsO a
  | .vldsTr a => MOp.wf .vldsTr a
  | .vldsOTr a => MOp.wf .vldsOTr a
  | .vsts a => MOp.wf .vsts a
  | .vstsO a => MOp.wf .vstsO a
  | .vstsX a => MOp.wf .vstsX a
  | .vstsOX a => MOp.wf .vstsOX a
  | .vgather a => MOp.wf .vgather a
  | .vgatherO a => MOp.wf .vgatherO a
  | .vscatter a => MOp.wf .vscatter a
  | .vscatterO a => MOp.wf .vscatterO a
  | .vscatterX a => MOp.wf .vscatterX a
  | .vscatterOX a => MOp.wf .vscatterOX a
  | .scopy pd _ _ _ => completionOk pd
  | .sbind _ _ => true
  | .sunbind _ => true
  | .srearm _ => true
  | .tkput q p => decide (q ≠ p)
  | .tkget q p => decide (q ≠ p)
  | .qsig _ _ => true
  | .qwait _ _ => true
  | .vspill reg _ => decide (reg.toNat ≤ 31)
  | .vfill reg _ => decide (reg.toNat ≤ 31)
  | .vspillP reg _ => (predTarget reg || decide (reg = 48#6))
  | .vfillP reg _ => predTarget reg
  | .pfset reg => predTarget reg
  | .evictV _ => true
  | .evictP _ => true
  | .evictA _ => true
  | .opa a => a.wf
  | .resolve a => a.wf
  | .acmp a => a.wf
  | .accstRaw _ _ => true
  | .accstFx _ _ => true
  | .accldRaw _ _ => true
  | .acczero tile both => !(tile && both)
  | .anchor _ isImm imm rs1 => if isImm then decide (rs1 = 0#5) && decide (imm ≠ 0x80#8) && decide (imm ≠ 0x81#8) else decide (imm = 0#8)
  | .wideVectorForm pre body => pre.wfFor body && body.wf
  | .wideSystemForm _ body => body.wf
  | .cAddi rd imm => decide (rd ≠ 0#5) || decide (imm = 0#5)
  | .cMv rd _ => decide (rd ≠ 0#5)
  | .cAdd rd _ => decide (rd ≠ 0#5)
  | .cLd _ _ _ => true
  | .cSd _ _ _ => true
  | .cBz _ _ => true
  | .cBnz _ _ => true
  | .cJ _ => true
  | .fenceSv => true
  | .fenceVs => true
  | .gangLengthGrant => true
  | .chainGrant => true
  | .bar => true
  | .barrierComplete => true
  | .jnext => true
  | .yield => true
  | .endHart => true
  | .lpartWtRelease => true
  | .mstop => true
  | .channelGrant => true
  | .scopyChunkComplete => true
  | .stripFetch => true
  | .tokenFifoRelease => true
  | .qwaitRelease => true
  | .cairnBlockCopy => true
  | .ladderRestoreChunk => true
  | .hpop => true
  | .preempt => true
  | .cRet => true
  | .cEnd => true
  | .cYield => true
  | .placeGang => true
  | .jobCompletion => true
  | .spreadSteal => true
  | .summitScan => true
  | .declineDelay => true
  | .nop => true
  | .job => true
  | .copy => true
  | .copyComplete => true
  | .signal => true
  | .wait => true
  | .fenceCommand => true
  | .indirect => true
  | .createStream => true
  | .destroyStream => true
  | .cairnStoreSize => true
  | .spillAreas => true
  | .invalidate => true
  | .allocateSignal => true
  | .freeSignal => true
  | .tailWrite => true
  | .controlRegionWrite => true
  | .rdmaWrite => true
  | .rdmaRead => true
  | .fabricAtomic => true
  | .connectionSetup => true
  | .transportGiveUp => true
  | .ident => true
  | .upload => true
  | .select => true
  | .reset => true
  | .status => true
  | .attest => true
  | .resumeRequest => true
  | .powerGood => true
  | .baseMode => true
  | .firmwareVerify => true
  | .memoryTraining => true
  | .thermalSample => true
  | .singleBitError => true
  | .uncorrectableRead => true
  | .linkFlitRetry => true
  | .illegalInstruction => true
  | .instructionFetchFault => true
  | .storeReachesHome => true
  | .mainInputOff => true
  | .hpre _ _ _ => true
  | .hpark _ => true
  | .hwake _ _ _ => true
  | .ladv _ _ => true
  | .lrewind pd _ _ => completionOk pd
  | .ltok _ _ => true
  | .lfork pd _ _ => completionOk pd
  | .lmatch _ _ _ => true
  | .lpin _ _ => true
  | .lunpin _ _ => true
  | .lopen pd _ _ => completionOk pd
  | .lclose _ => true
  | .lcloseS _ => true
  | .lset _ _ => true
  | .perform _ _ _ => true
  | .vperform _ _ _ _ => true
  | .hpush _ _ _ => true
  | .resume _ _ => true
  | .abort _ _ => true
  | .tkeep _ _ => true
  | .tdrop _ => true

/-- The same for a far instruction. -/
def FarInstr.wf : FarInstr → Bool
  | .hpre _ _ _ => true
  | .hpark _ => true
  | .hwake _ _ _ => true
  | .ladv _ _ => true
  | .lrewind pd _ _ => completionOk pd
  | .ltok _ _ => true
  | .lfork pd _ _ => completionOk pd
  | .lmatch _ _ _ => true
  | .lpin _ _ => true
  | .lunpin _ _ => true
  | .lopen pd _ _ => completionOk pd
  | .lclose _ => true
  | .lcloseS _ => true
  | .lset _ _ => true
  | .perform _ _ _ => true
  | .vperform _ _ _ _ => true
  | .hpush _ _ _ => true
  | .resume _ _ => true
  | .abort _ _ => true
  | .tkeep _ _ => true
  | .tdrop _ => true

/-- The same for what the decoder reads. -/
def Code.wf : Code → Bool
  | .near i => i.wf
  | .far i => i.wf

end Sys2Proof
end

