-- ==== Sys2Proof/Decode.lean ====
section
/-! DEFINITION. The decoder, total on any bytes, and after it the encoder, both from the encoding tables of the manual
(R25 to R44 and the tables of each chapter). -/

namespace Sys2Proof

/-- Why a word is no instruction. Every case raises IllegalInstruction at check 2 of R42. -/
inductive DecodeError where
  /-- A major the map marks reserved (R39). -/
  | reservedMajor
  /-- A function value no chapter assigns (R40). -/
  | unassignedFunction
  /-- A field the form does not use is not zero (R31). -/
  | unusedField
  /-- A field holds a value its description reserves (R1). -/
  | reservedValue
  /-- The second word is no body of the prefix (R36, R37). -/
  | badBody
  /-- The bytes end inside the instruction. -/
  | truncated
  deriving DecidableEq, Repr

abbrev Decoded := Except DecodeError Code

/-- A near instruction. -/
def near (i : Instr) : Decoded := .ok (.near i)

/-! ### Length and fields -/

/-- The length in bytes that the first parcel gives (R25). -/
def lengthOf (p0 : Parcel) : Nat :=
  if p0.extractLsb' 13 3 = 7#3 then 2
  else if p0.extractLsb' 12 4 = 0xD#4 then 8
  else 4

/-- W[15:10] (R30). -/
def fMajor (w : IWord) : BitVec 6 := w.extractLsb' 10 6
/-- W[4:0] (R30). -/
def fRs1 (w : IWord) : Reg := w.extractLsb' 0 5
/-- W[9:5] (R30). -/
def fRd (w : IWord) : Reg := w.extractLsb' 5 5
/-- W[31:27] (R30). -/
def fRs2 (w : IWord) : Reg := w.extractLsb' 27 5
/-- W[26:16], the function of format R (R30). -/
def fFn11 (w : IWord) : BitVec 11 := w.extractLsb' 16 11
/-- W[31:16], the immediate of format I (R30). -/
def fImm16 (w : IWord) : BitVec 16 := w.extractLsb' 16 16
/-- W[17:16], the function of format V (R30). -/
def fFn2 (w : IWord) : BitVec 2 := w.extractLsb' 16 2
/-- One bit of a word. -/
def fBit (w : IWord) (n : Nat) : Bool := w.getLsbD n

/-- The instruction, provided the fields its form does not use are zero (R31). -/
def unused (zero : Bool) (i : Instr) : Decoded := if zero then .ok (.near i) else .error .unusedField

/-- The same for a far instruction. -/
def unusedFar (zero : Bool) (i : FarInstr) : Decoded := if zero then .ok (.far i) else .error .unusedField

/-- The fields of format V (R30). -/
def fV (w : IWord) : VArgs :=
  { vs2 := fRs2 w, mod := w.extractLsb' 24 3, sz := w.extractLsb' 22 2, pg := w.extractLsb' 18 4, vd := fRd w, vs1 := fRs1 w }

/-- The fields of predicate logic (R166). -/
def fP (w : IWord) : PArgs :=
  { ps2 := w.extractLsb' 24 1 ++ w.extractLsb' 27 5, pg := w.extractLsb' 18 4,
    pd := w.extractLsb' 26 1 ++ w.extractLsb' 5 5, ps1 := w.extractLsb' 25 1 ++ w.extractLsb' 0 5 }

/-- The fields of predicate to scalar (R166, R168). -/
def fC (w : IWord) : CArgs :=
  { pg := w.extractLsb' 18 4, rd := fRd w, ps1 := w.extractLsb' 25 1 ++ w.extractLsb' 0 5 }

/-- The fields of scalar floating point (R105). -/
def fF (w : IWord) : FArgs :=
  { rs2 := fRs2 w, rm := w.extractLsb' 24 3, fmt := w.extractLsb' 22 2, rd := fRd w, rs1 := fRs1 w }

/-- The fields of atomics (R191). -/
def fA (w : IWord) : AmoArgs :=
  { rs2 := fRs2 w, ty := w.extractLsb' 21 2, ord := w.extractLsb' 19 2, scope := w.extractLsb' 16 3, rd := fRd w, rs1 := fRs1 w }

/-! ### The operations of format V as instructions -/

/-- The 32-bit instruction of a vector operation. -/
def VOp.instr (op : VOp) (a : VArgs) : Instr :=
  match op with
  | .vadd => .vadd a
  | .vsub => .vsub a
  | .vaddSat => .vaddSat a
  | .vsubSat => .vsubSat a
  | .vmul => .vmul a
  | .vdiv => .vdiv a
  | .vmin => .vmin a
  | .vmax => .vmax a
  | .vfma => .vfma a
  | .vfms => .vfms a
  | .vfnma => .vfnma a
  | .vfnms => .vfnms a
  | .vand => .vand a
  | .vor => .vor a
  | .vxor => .vxor a
  | .vandn => .vandn a
  | .vsll => .vsll a
  | .vsrl => .vsrl a
  | .vsra => .vsra a
  | .vrol => .vrol a
  | .vneg => .vneg a
  | .vabs => .vabs a
  | .vsqrt => .vsqrt a
  | .vrcp => .vrcp a
  | .vrsqrt => .vrsqrt a
  | .vfloor => .vfloor a
  | .vceil => .vceil a
  | .vtrunc => .vtrunc a
  | .vrint => .vrint a
  | .vnot => .vnot a
  | .vclz => .vclz a
  | .vctz => .vctz a
  | .vpopc => .vpopc a
  | .vidx => .vidx a
  | .vcmpEq => .vcmpEq a
  | .vcmpNe => .vcmpNe a
  | .vcmpLt => .vcmpLt a
  | .vcmpLe => .vcmpLe a
  | .vcmpGt => .vcmpGt a
  | .vcmpGe => .vcmpGe a
  | .vcmpUno => .vcmpUno a
  | .vcmpOrd => .vcmpOrd a
  | .vcvt => .vcvt a
  | .vcvtSat => .vcvtSat a
  | .vcvtBlk => .vcvtBlk a
  | .vsel => .vsel a
  | .vsplat => .vsplat a
  | .vext => .vext a
  | .vins => .vins a
  | .vperm => .vperm a
  | .vslup => .vslup a
  | .vsldn => .vsldn a
  | .vcompress => .vcompress a
  | .vredsum => .vredsum a
  | .vredsumO => .vredsumO a
  | .vredmin => .vredmin a
  | .vredmax => .vredmax a
  | .vscan => .vscan a
  | .vscanLin => .vscanLin a
  | .vrenorm => .vrenorm a
  | .vrng => .vrng a
  | .vrngF => .vrngF a

/-- The 32-bit instruction of a vector memory operation. -/
def MOp.instr (op : MOp) (a : VArgs) : Instr :=
  match op with
  | .vld => .vld a
  | .vldO => .vldO a
  | .vldTr => .vldTr a
  | .vldOTr => .vldOTr a
  | .vst => .vst a
  | .vstO => .vstO a
  | .vstX => .vstX a
  | .vstOX => .vstOX a
  | .vlds => .vlds a
  | .vldsO => .vldsO a
  | .vldsTr => .vldsTr a
  | .vldsOTr => .vldsOTr a
  | .vsts => .vsts a
  | .vstsO => .vstsO a
  | .vstsX => .vstsX a
  | .vstsOX => .vstsOX a
  | .vgather => .vgather a
  | .vgatherO => .vgatherO a
  | .vscatter => .vscatter a
  | .vscatterO => .vscatterO a
  | .vscatterX => .vscatterX a
  | .vscatterOX => .vscatterOX a

/-- The 32-bit instruction of a predicate-logic operation. -/
def POp.instr (op : POp) (a : PArgs) : Instr :=
  match op with
  | .pand => .pand a
  | .por => .por a
  | .pxor => .pxor a
  | .pandn => .pandn a
  | .pmov => .pmov a
  | .pnot => .pnot a
  | .pset => .pset a
  | .pclr => .pclr a
  | .pbrk => .pbrk a
  | .pbrkb => .pbrkb a

/-- The 32-bit instruction of a predicate-to-scalar operation. -/
def COp.instr (op : COp) (a : CArgs) : Instr :=
  match op with
  | .pcnt => .pcnt a
  | .pfirst => .pfirst a
  | .plast => .plast a

/-- The vector operation of a major, function, vs2 field and W[9] (R147 to R163). -/
def vopOf (major : BitVec 6) (fn : BitVec 2) (sub : Reg) (high : Bool) : Option VOp :=
  match major with
  | 0x19#6 =>
    match fn with
    | 0x0#2 => some .vadd
    | 0x1#2 => some .vsub
    | 0x2#2 => some .vaddSat
    | _ => some .vsubSat
  | 0x1A#6 =>
    match fn with
    | 0x0#2 => some .vmul
    | 0x1#2 => some .vdiv
    | 0x2#2 => some .vmin
    | _ => some .vmax
  | 0x1B#6 =>
    match fn with
    | 0x0#2 => some .vfma
    | 0x1#2 => some .vfms
    | 0x2#2 => some .vfnma
    | _ => some .vfnms
  | 0x1C#6 =>
    match fn with
    | 0x0#2 => some .vand
    | 0x1#2 => some .vor
    | 0x2#2 => some .vxor
    | _ => some .vandn
  | 0x1D#6 =>
    match fn with
    | 0x0#2 => some .vsll
    | 0x1#2 => some .vsrl
    | 0x2#2 => some .vsra
    | _ => some .vrol
  | 0x1E#6 =>
    match fn with
    | 0x0#2 =>
      match sub with
      | 0x0#5 => some .vneg
      | 0x1#5 => some .vabs
      | 0x2#5 => some .vsqrt
      | 0x3#5 => some .vrcp
      | 0x4#5 => some .vrsqrt
      | 0x5#5 => some .vfloor
      | 0x6#5 => some .vceil
      | 0x7#5 => some .vtrunc
      | 0x8#5 => some .vrint
      | _ => none
    | 0x1#2 =>
      match sub with
      | 0x0#5 => some .vnot
      | 0x1#5 => some .vclz
      | 0x2#5 => some .vctz
      | 0x3#5 => some .vpopc
      | _ => none
    | 0x2#2 => match sub with | 0x0#5 => some .vidx | _ => none
    | _ => none
  | 0x1F#6 =>
    match fn with
    | 0x0#2 => some (if high then .vcmpGt else .vcmpEq)
    | 0x1#2 => some (if high then .vcmpGe else .vcmpNe)
    | 0x2#2 => some (if high then .vcmpUno else .vcmpLt)
    | _ => some (if high then .vcmpOrd else .vcmpLe)
  | 0x20#6 =>
    match fn with
    | 0x0#2 => some .vcvt
    | 0x1#2 => some .vcvtSat
    | 0x2#2 => some .vcvtBlk
    | _ => none
  | 0x21#6 =>
    match fn with
    | 0x0#2 => some .vsel
    | 0x1#2 => some .vsplat
    | 0x2#2 => some .vext
    | _ => some .vins
  | 0x22#6 =>
    match fn with
    | 0x0#2 => some .vperm
    | 0x1#2 => some .vslup
    | 0x2#2 => some .vsldn
    | _ => some .vcompress
  | 0x23#6 =>
    match fn with
    | 0x0#2 => some .vredsum
    | 0x1#2 => some .vredsumO
    | 0x2#2 => some .vredmin
    | _ => some .vredmax
  | 0x24#6 =>
    match fn with
    | 0x0#2 => some .vscan
    | 0x1#2 => some .vscanLin
    | 0x2#2 => some .vrenorm
    | _ => none
  | 0x25#6 =>
    match fn with
    | 0x0#2 => some .vrng
    | 0x1#2 => some .vrngF
    | _ => none
  | _ => none

/-- The vector memory operation of a major, function and W[4] (R179). -/
def mopOf (major : BitVec 6) (fn : BitVec 2) (high : Bool) : Option MOp :=
  match major with
  | 0x29#6 =>
    match fn with
    | 0x0#2 => some .vld
    | 0x1#2 => some .vldO
    | 0x2#2 => some .vldTr
    | _ => some .vldOTr
  | 0x2A#6 =>
    match fn with
    | 0x0#2 => some .vst
    | 0x1#2 => some .vstO
    | 0x2#2 => some .vstX
    | _ => some .vstOX
  | 0x2B#6 =>
    match fn with
    | 0x0#2 => some (if high then .vldsTr else .vlds)
    | 0x1#2 => some (if high then .vldsOTr else .vldsO)
    | 0x2#2 => some (if high then .vstsX else .vsts)
    | _ => some (if high then .vstsOX else .vstsO)
  | 0x2C#6 =>
    match fn with
    | 0x0#2 => if high then none else some .vgather
    | 0x1#2 => if high then none else some .vgatherO
    | 0x2#2 => some (if high then .vscatterX else .vscatter)
    | _ => some (if high then .vscatterOX else .vscatterO)
  | _ => none

/-- The predicate-logic operation of {ophi, fn} (R167). -/
def popOf (ophi fn : BitVec 2) : Option POp :=
  match ophi with
  | 0x0#2 =>
    match fn with
    | 0x0#2 => some .pand
    | 0x1#2 => some .por
    | 0x2#2 => some .pxor
    | _ => some .pandn
  | 0x1#2 =>
    match fn with
    | 0x0#2 => some .pmov
    | 0x1#2 => some .pnot
    | 0x2#2 => some .pset
    | _ => some .pclr
  | 0x2#2 =>
    match fn with
    | 0x0#2 => some .pbrk
    | 0x1#2 => some .pbrkb
    | _ => none
  | _ => none

/-- The predicate-to-scalar operation of a function (R168). -/
def copOf (fn : BitVec 2) : Option COp :=
  match fn with
  | 0x0#2 => some .pcnt
  | 0x1#2 => some .pfirst
  | 0x2#2 => some .plast
  | _ => none

/-- The fields a vector operation keeps once its sub-function or the high bit of its condition is taken out. -/
def VOp.args (op : VOp) (a : VArgs) : VArgs :=
  if op.unary then { a with vs2 := 0 }
  else if op.compare then { a with vd := a.vd &&& 0xF#5 }
  else a

/-- The fields a vector memory operation keeps once W[4] is taken out of the indexed and strided forms. -/
def MOp.args (op : MOp) (a : VArgs) : VArgs :=
  if op.indexed || op.strided then { a with vs1 := a.vs1 &&& 0xF#5 } else a

/-- A word of majors 0x19 to 0x2C as a body (R36). -/
def decodeVectorBody (w : IWord) : Except DecodeError VectorBody :=
  let a := fV w
  match fMajor w with
  | 0x26#6 =>
    if w.extractLsb' 16 2 = 0#2 then
      if w.extractLsb' 22 10 = 0#10 && w.extractLsb' 0 10 = 0#10 then .ok .pair else .error .unusedField
    else .error .unassignedFunction
  | 0x27#6 =>
    match popOf (w.extractLsb' 22 2) (fFn2 w) with
    | some op => .ok (.pred op (fP w))
    | none => .error .unassignedFunction
  | 0x28#6 =>
    match copOf (fFn2 w) with
    | some op =>
      if w.extractLsb' 26 6 = 0#6 && w.extractLsb' 22 3 = 0#3 then .ok (.count op (fC w)) else .error .unusedField
    | none => .error .unassignedFunction
  | 0x29#6 | 0x2A#6 | 0x2B#6 | 0x2C#6 =>
    match mopOf (fMajor w) (fFn2 w) (fBit w 4) with
    | some op => .ok (.mem op (op.args a))
    | none => .error .unassignedFunction
  | m =>
    match vopOf m (fFn2 w) a.vs2 (fBit w 9) with
    | some op => .ok (.vec op (op.args a))
    | none => .error .unassignedFunction

/-- The governing predicate that the word's own pg field names. -/
def fPg (w : IWord) : BitVec 4 := w.extractLsb' 18 4

/-- A 32-bit word of majors 0x19 to 0x2C (R30, R147 to R182). -/
def decodeVector (w : IWord) : Decoded :=
  match decodeVectorBody w with
  | .ok (.vec op a) => near (op.instr a)
  | .ok (.mem op a) => near (op.instr a)
  | .ok (.pred op a) => near (op.instr a)
  | .ok (.count op a) => near (op.instr a)
  | .ok .pair => near (.pair (fPg w))
  | .error e => .error e

/-! ### The scalar majors -/

/-- Major 0x00 (R99, R315). -/
def decodeSystem (w : IWord) : Decoded :=
  match fFn11 w with
  | 0x1#11 => unused (fRs1 w = 0#5 && fRs2 w = 0#5) (.cycles (fRd w))
  | 0x2#11 => unused (fRs1 w = 0#5 && fRs2 w = 0#5) (.retired (fRd w))
  | 0x100#11 => .ok (.far (.hpre (fRd w) (fRs1 w) (fRs2 w)))
  | 0x101#11 => unusedFar (fRs1 w = 0#5 && fRs2 w = 0#5) (.hpark (fRd w))
  | 0x102#11 => .ok (.far (.hwake (fRd w) (fRs1 w) (fRs2 w)))
  | _ => .error .unassignedFunction

/-- Major 0x01 (R95). -/
def decodeInteger (w : IWord) : Decoded :=
  match fFn11 w with
  | 0x1#11 => near (.add (fRd w) (fRs1 w) (fRs2 w))
  | 0x2#11 => near (.sub (fRd w) (fRs1 w) (fRs2 w))
  | 0x3#11 => near (.and (fRd w) (fRs1 w) (fRs2 w))
  | 0x4#11 => near (.or (fRd w) (fRs1 w) (fRs2 w))
  | 0x5#11 => near (.xor (fRd w) (fRs1 w) (fRs2 w))
  | 0x6#11 => near (.andn (fRd w) (fRs1 w) (fRs2 w))
  | 0x8#11 => near (.sll (fRd w) (fRs1 w) (fRs2 w))
  | 0x9#11 => near (.srl (fRd w) (fRs1 w) (fRs2 w))
  | 0xA#11 => near (.sra (fRd w) (fRs1 w) (fRs2 w))
  | 0xC#11 => near (.slt (fRd w) (fRs1 w) (fRs2 w))
  | 0xD#11 => near (.sltu (fRd w) (fRs1 w) (fRs2 w))
  | 0xE#11 => near (.min (fRd w) (fRs1 w) (fRs2 w))
  | 0xF#11 => near (.max (fRd w) (fRs1 w) (fRs2 w))
  | 0x10#11 => near (.minu (fRd w) (fRs1 w) (fRs2 w))
  | 0x11#11 => near (.maxu (fRd w) (fRs1 w) (fRs2 w))
  | 0x18#11 => near (.mul (fRd w) (fRs1 w) (fRs2 w))
  | 0x19#11 => near (.mulhiSs (fRd w) (fRs1 w) (fRs2 w))
  | 0x1A#11 => near (.mulhiUu (fRd w) (fRs1 w) (fRs2 w))
  | 0x1B#11 => near (.mulhiSu (fRd w) (fRs1 w) (fRs2 w))
  | 0x1C#11 => near (.div (fRd w) (fRs1 w) (fRs2 w))
  | 0x1D#11 => near (.divu (fRd w) (fRs1 w) (fRs2 w))
  | 0x1E#11 => near (.rem (fRd w) (fRs1 w) (fRs2 w))
  | 0x1F#11 => near (.remu (fRd w) (fRs1 w) (fRs2 w))
  | 0x20#11 => unused (fRs2 w = 0#5) (.clz (fRd w) (fRs1 w))
  | 0x21#11 => unused (fRs2 w = 0#5) (.ctz (fRd w) (fRs1 w))
  | 0x22#11 => unused (fRs2 w = 0#5) (.popc (fRd w) (fRs1 w))
  | _ => .error .unassignedFunction

/-- Major 0x17 (R124). -/
def decodeHart (w : IWord) : Decoded :=
  match fFn11 w with
  | 0x1#11 => unused (fRd w = 0#5 && fRs1 w = 0#5 && fRs2 w = 0#5) .bar
  | 0x2#11 => unused (fRd w = 0#5 && fRs2 w = 0#5) (.hwpub (fRs1 w))
  | 0x3#11 => unused (fRd w = 0#5 && fRs1 w = 0#5 && fRs2 w = 0#5) .jnext
  | 0x4#11 => unused (fRd w = 0#5 && fRs1 w = 0#5 && fRs2 w = 0#5) .yield
  | 0x5#11 => unused (fRd w = 0#5 && fRs1 w = 0#5 && fRs2 w = 0#5) .endHart
  | 0x10#11 => near (.lpartRcl (fRd w) (fRs1 w) (fRs2 w))
  | 0x11#11 => unused (fRs2 w = 0#5) (.lpartWt (fRd w) (fRs1 w))
  | _ => .error .unassignedFunction

/-- Major 0x06 (R96). -/
def decodeShift (w : IWord) : Decoded :=
  match w.extractLsb' 30 2 with
  | 0x0#2 => unused (w.extractLsb' 22 8 = 0#8) (.slli (fRd w) (fRs1 w) (w.extractLsb' 16 6))
  | 0x1#2 => unused (w.extractLsb' 22 8 = 0#8) (.srli (fRd w) (fRs1 w) (w.extractLsb' 16 6))
  | 0x2#2 => unused (w.extractLsb' 22 8 = 0#8) (.srai (fRd w) (fRs1 w) (w.extractLsb' 16 6))
  | _ => .error .reservedValue

/-- Major 0x0D (R101). -/
def decodeBranch (w : IWord) : Decoded :=
  match w.extractLsb' 29 3 with
  | 0x0#3 => near (.beq (fRd w) (fRs1 w) (w.extractLsb' 16 13))
  | 0x1#3 => near (.bne (fRd w) (fRs1 w) (w.extractLsb' 16 13))
  | 0x2#3 => near (.blt (fRd w) (fRs1 w) (w.extractLsb' 16 13))
  | 0x3#3 => near (.bge (fRd w) (fRs1 w) (w.extractLsb' 16 13))
  | 0x4#3 => near (.bltu (fRd w) (fRs1 w) (w.extractLsb' 16 13))
  | 0x5#3 => near (.bgeu (fRd w) (fRs1 w) (w.extractLsb' 16 13))
  | _ => .error .reservedValue

/-- Major 0x0E (R102). -/
def decodeLoad (w : IWord) : Decoded :=
  match w.extractLsb' 16 3 with
  | 0x0#3 => near (.lb (fRd w) (fRs1 w) (w.extractLsb' 19 13))
  | 0x1#3 => near (.lh (fRd w) (fRs1 w) (w.extractLsb' 19 13))
  | 0x2#3 => near (.lw (fRd w) (fRs1 w) (w.extractLsb' 19 13))
  | 0x3#3 => near (.ld (fRd w) (fRs1 w) (w.extractLsb' 19 13))
  | 0x4#3 => near (.lbu (fRd w) (fRs1 w) (w.extractLsb' 19 13))
  | 0x5#3 => near (.lhu (fRd w) (fRs1 w) (w.extractLsb' 19 13))
  | 0x6#3 => near (.lwu (fRd w) (fRs1 w) (w.extractLsb' 19 13))
  | _ => .error .reservedValue

/-- Major 0x0F (R103). -/
def decodeStore (w : IWord) : Decoded :=
  match w.extractLsb' 16 3 with
  | 0x0#3 => near (.sb (fRd w) (fRs1 w) (w.extractLsb' 19 13))
  | 0x1#3 => near (.sh (fRd w) (fRs1 w) (w.extractLsb' 19 13))
  | 0x2#3 => near (.sw (fRd w) (fRs1 w) (w.extractLsb' 19 13))
  | 0x3#3 => near (.sd (fRd w) (fRs1 w) (w.extractLsb' 19 13))
  | _ => .error .reservedValue

/-- Major 0x11 (R90). -/
def decodeControl (w : IWord) : Decoded :=
  if w.extractLsb' 28 2 = 0#2 then
    match w.extractLsb' 30 2 with
    | 0x0#2 => unused (fRs1 w = 0#5) (.crr (fRd w) (w.extractLsb' 16 12))
    | 0x1#2 => near (.crw (fRd w) (w.extractLsb' 16 12) (fRs1 w))
    | 0x2#2 => near (.crs (fRd w) (w.extractLsb' 16 12) (fRs1 w))
    | _ => near (.crc (fRd w) (w.extractLsb' 16 12) (fRs1 w))
  else .error .unusedField

/-- Major 0x12 (R106, R107). -/
def decodeScalarFp (w : IWord) : Decoded :=
  match w.extractLsb' 16 6 with
  | 0x0#6 => near (.fadd (fF w))
  | 0x1#6 => near (.fsub (fF w))
  | 0x2#6 => near (.fmul (fF w))
  | 0x3#6 => near (.fdiv (fF w))
  | 0x4#6 => near (.fsqrt (fF w))
  | 0x5#6 => near (.fmadd (fF w))
  | 0x8#6 => near (.fmin (fF w))
  | 0x9#6 => near (.fmax (fF w))
  | 0xA#6 => near (.fsignCp (fF w))
  | 0xB#6 => near (.fsignNg (fF w))
  | 0xC#6 => near (.fsignXr (fF w))
  | 0x10#6 => near (.feq (fF w))
  | 0x11#6 => near (.flt (fF w))
  | 0x12#6 => near (.fle (fF w))
  | 0x18#6 => near (.fcvt (fF w))
  | 0x19#6 => near (.fcvtInt64 (fF w))
  | 0x1A#6 => near (.fcvtInt64Sat (fF w))
  | 0x1B#6 => near (.fcvtNat64 (fF w))
  | 0x1C#6 => near (.fcvtNat64Sat (fF w))
  | _ => .error .unassignedFunction

/-- Major 0x13 (R192). -/
def decodeAtomic (w : IWord) : Decoded :=
  match w.extractLsb' 23 4 with
  | 0x0#4 => near (.amoadd (fA w))
  | 0x1#4 => near (.amoand (fA w))
  | 0x2#4 => near (.amoor (fA w))
  | 0x3#4 => near (.amoxor (fA w))
  | 0x4#4 => near (.amomin (fA w))
  | 0x5#4 => near (.amomax (fA w))
  | 0x6#4 => near (.amominu (fA w))
  | 0x7#4 => near (.amomaxu (fA w))
  | 0x8#4 => near (.amofx (fA w))
  | 0x9#4 => near (.amoswap (fA w))
  | 0xA#4 => near (.amocas (fA w))
  | 0xB#4 => near (.amofadd (fA w))
  | 0xC#4 => near (.lda (fA w))
  | 0xD#4 => near (.str (fA w))
  | _ => .error .unassignedFunction

/-- Major 0x14 (R195). -/
def decodeFence (w : IWord) : Decoded :=
  match w.extractLsb' 24 3 with
  | 0x0#3 =>
    unused (fRs2 w = 0#5 && w.extractLsb' 19 1 = 0#1 && fRd w = 0#5 && fRs1 w = 0#5)
      (.fence (w.extractLsb' 20 4) (w.extractLsb' 16 3))
  | 0x1#3 => unused (fRs2 w = 0#5 && w.extractLsb' 16 8 = 0#8 && fRd w = 0#5 && fRs1 w = 0#5) .fenceSv
  | 0x2#3 => unused (fRs2 w = 0#5 && w.extractLsb' 16 8 = 0#8 && fRd w = 0#5 && fRs1 w = 0#5) .fenceVs
  | 0x3#3 => unused (w.extractLsb' 16 8 = 0#8 && fRd w = 0#5) (.prefetch (fRs1 w) (fRs2 w))
  | 0x4#3 => unused (fRs2 w = 0#5 && w.extractLsb' 16 8 = 0#8 && fRd w = 0#5) (.tlbinv (fRs1 w))
  | _ => .error .unassignedFunction

/-- Major 0x15 (R120). -/
def decodeSetvl (w : IWord) : Decoded :=
  unused (w.extractLsb' 16 6 = 0#6)
    (if fBit w 23 then .setvlG (fRd w) (fRs1 w) (w.extractLsb' 24 3) (fBit w 22) (fRs2 w)
     else .setvl (fRd w) (fRs1 w) (w.extractLsb' 24 3) (fBit w 22) (fRs2 w))

/-- Major 0x16 (R134). -/
def decodeTag (w : IWord) : Decoded :=
  let zero := fRs2 w = 0#5 && w.extractLsb' 16 2 = 0#2
  match w.extractLsb' 25 2 with
  | 0x0#2 => unused zero (.vcfg (fRd w) (w.extractLsb' 20 5) (fBit w 19) (fBit w 18) (fRs1 w))
  | 0x1#2 => unused zero (.vretag (fRd w) (w.extractLsb' 20 5) (fBit w 19) (fBit w 18) (fRs1 w))
  | _ => .error .unassignedFunction

/-- Major 0x18 (R207). -/
def decodeMatrixMode (w : IWord) : Decoded :=
  match fRd w with
  | 0x0#5 => near (.mstart (w.extractLsb' 24 8) (w.extractLsb' 16 8) (fRs1 w))
  | 0x1#5 => near (.mstartKeep (w.extractLsb' 24 8) (w.extractLsb' 16 8) (fRs1 w))
  | 0x2#5 => unused (fImm16 w = 0#16 && fRs1 w = 0#5) .mstop
  | _ => .error .unassignedFunction

/-- Major 0x2D (R246). -/
def decodeScopy (w : IWord) : Decoded :=
  unused (w.extractLsb' 22 5 = 0#5) (.scopy (w.extractLsb' 16 6) (fRd w) (fRs1 w) (fRs2 w))

/-- Major 0x2E (R259). -/
def decodeBinding (w : IWord) : Decoded :=
  let zero := fRs2 w = 0#5 && w.extractLsb' 16 8 = 0#8
  match w.extractLsb' 24 3 with
  | 0x0#3 => unused zero (.sbind (fRd w) (fRs1 w))
  | 0x1#3 => unused (zero && fRs1 w = 0#5) (.sunbind (fRd w))
  | 0x2#3 => unused (zero && fRs1 w = 0#5) (.srearm (fRd w))
  | _ => .error .unassignedFunction

/-- Major 0x2F (R266, R346). -/
def decodeToken (w : IWord) : Decoded :=
  let zero := fRs2 w = 0#5 && w.extractLsb' 16 4 = 0#4 && fRd w = 0#5 && fRs1 w = 0#5
  match w.extractLsb' 24 3 with
  | 0x0#3 => unused zero (.tkput (w.extractLsb' 22 2) (w.extractLsb' 20 2))
  | 0x1#3 => unused zero (.tkget (w.extractLsb' 22 2) (w.extractLsb' 20 2))
  | 0x4#3 => unused (w.extractLsb' 16 8 = 0#8 && fRd w = 0#5) (.qsig (fRs1 w) (fRs2 w))
  | 0x5#3 => unused (w.extractLsb' 16 8 = 0#8 && fRd w = 0#5) (.qwait (fRs1 w) (fRs2 w))
  | _ => .error .unassignedFunction

/-- Major 0x30 (R277). -/
def decodeLadder (w : IWord) : Decoded :=
  let pd := w.extractLsb' 21 6
  let plain := pd = 0#6 && fRs2 w = 0#5
  match w.extractLsb' 16 5 with
  | 0x1#5 => unusedFar plain (.ladv (fRd w) (fRs1 w))
  | 0x2#5 => unusedFar (fRs2 w = 0#5) (.lrewind pd (fRd w) (fRs1 w))
  | 0x3#5 => unusedFar plain (.ltok (fRd w) (fRs1 w))
  | 0x4#5 => unusedFar (fRs2 w = 0#5) (.lfork pd (fRd w) (fRs1 w))
  | 0x5#5 => unusedFar (pd = 0#6) (.lmatch (fRd w) (fRs1 w) (fRs2 w))
  | 0x6#5 => unusedFar plain (.lpin (fRd w) (fRs1 w))
  | 0x7#5 => unusedFar plain (.lunpin (fRd w) (fRs1 w))
  | 0x8#5 => unusedFar (fRs2 w = 0#5) (.lopen pd (fRd w) (fRs1 w))
  | 0x9#5 => unusedFar (plain && fRs1 w = 0#5) (.lclose (fRd w))
  | 0xA#5 => unusedFar (plain && fRs1 w = 0#5) (.lcloseS (fRd w))
  | 0xB#5 => unusedFar plain (.lset (fRd w) (fRs1 w))
  | _ => .error .unassignedFunction

/-- Major 0x31 (R298). -/
def decodeEffect (w : IWord) : Decoded :=
  let zero := w.extractLsb' 24 3 = 0#3
  let plain := zero && w.extractLsb' 20 4 = 0#4
  match w.extractLsb' 16 4 with
  | 0x1#4 => unusedFar plain (.perform (fRd w) (fRs1 w) (fRs2 w))
  | 0x2#4 => unusedFar zero (.vperform (w.extractLsb' 20 4) (fRd w) (fRs1 w) (fRs2 w))
  | 0x3#4 => unusedFar plain (.hpush (fRd w) (fRs1 w) (fRs2 w))
  | 0x4#4 => unused (plain && fRd w = 0#5 && fRs1 w = 0#5 && fRs2 w = 0#5) .hpop
  | 0x5#4 => unusedFar (plain && fRd w = 0#5) (.resume (fRs1 w) (fRs2 w))
  | 0x6#4 => unusedFar (plain && fRd w = 0#5) (.abort (fRs1 w) (fRs2 w))
  | 0x7#4 => unusedFar (plain && fRd w = 0#5) (.tkeep (fRs1 w) (fRs2 w))
  | 0x8#4 => unusedFar (plain && fRd w = 0#5 && fRs2 w = 0#5) (.tdrop (fRs1 w))
  | _ => .error .unassignedFunction

/-- Major 0x32 (R324). -/
def decodeContext (w : IWord) : Decoded :=
  let reg := w.extractLsb' 16 6
  let zero := fRs2 w = 0#5 && w.extractLsb' 22 2 = 0#2 && fRd w = 0#5
  match w.extractLsb' 24 3 with
  | 0x0#3 => unused zero (.vspill reg (fRs1 w))
  | 0x1#3 => unused zero (.vfill reg (fRs1 w))
  | 0x2#3 => unused zero (.vspillP reg (fRs1 w))
  | 0x3#3 => unused zero (.vfillP reg (fRs1 w))
  | 0x4#3 => unused (zero && fRs1 w = 0#5) (.pfset reg)
  | 0x5#3 =>
    match reg with
    | 0x0#6 => unused zero (.evictV (fRs1 w))
    | 0x1#6 => unused zero (.evictP (fRs1 w))
    | 0x2#6 => unused zero (.evictA (fRs1 w))
    | _ => .error .reservedValue
  | _ => .error .unassignedFunction

/-! ### The 64-bit forms -/

/-- Major 0x34, a matrix function (R38, R209 to R221). -/
def decodeMatrix (w u : IWord) : Decoded :=
  let tile := fBit w 17
  match fRd w with
  | 0x0#5 =>
    unused (w.extractLsb' 16 1 = 0#1 && fRs1 w = 0#5 && u.extractLsb' 5 12 = 0#12)
      (.opa { prow := w.extractLsb' 26 6, pcol := w.extractLsb' 20 6, neg := fBit w 19, dis := fBit w 18, tile := tile,
              vs2 := fRs2 u, mod2 := u.extractLsb' 24 3, sz2 := u.extractLsb' 22 2, mod1 := u.extractLsb' 19 3,
              sz1 := u.extractLsb' 17 2, vs1 := fRs1 u })
  | 0x1#5 =>
    unused (w.extractLsb' 18 2 = 0#2 && fRs1 w = 0#5 && u.extractLsb' 24 8 = 0#8 && u.extractLsb' 10 6 = 0#6)
      (.resolve { pg := w.extractLsb' 26 6, rm := w.extractLsb' 23 3, col := fBit w 22, fx := fBit w 21, sat := fBit w 20,
                  tile := tile, isImm := fBit w 16, idx := u.extractLsb' 16 8, vd := fRd u, rs1 := fRs1 u })
  | 0x2#5 =>
    unused (w.extractLsb' 18 3 = 0#3 && fRs1 w = 0#5 && u.extractLsb' 24 2 = 0#2 && u.extractLsb' 10 6 = 0#6)
      (.acmp { pg := w.extractLsb' 26 6, cc := w.extractLsb' 23 3, col := fBit w 22, zero := fBit w 21, tile := tile,
               isImm := fBit w 16, pd := u.extractLsb' 26 6, idx := u.extractLsb' 16 8, vs1 := fRd u, rs1 := fRs1 u })
  | 0x3#5 =>
    unused (w.extractLsb' 18 14 = 0#14 && fRs1 w = 0#5 && u.extractLsb' 5 27 = 0#27)
      (if fBit w 16 then .accstFx tile (fRs1 u) else .accstRaw tile (fRs1 u))
  | 0x4#5 =>
    if fBit w 16 then .error .reservedValue
    else unused (w.extractLsb' 18 14 = 0#14 && fRs1 w = 0#5 && u.extractLsb' 5 27 = 0#27) (.accldRaw tile (fRs1 u))
  | 0x5#5 => unused (w.extractLsb' 18 14 = 0#14 && fRs1 w = 0#5 && u = 0#32) (.acczero tile (fBit w 16))
  | 0x6#5 =>
    unused (w.extractLsb' 18 14 = 0#14 && fRs1 w = 0#5 && u.extractLsb' 24 8 = 0#8 && u.extractLsb' 5 11 = 0#11)
      (.anchor tile (fBit w 16) (u.extractLsb' 16 8) (fRs1 u))
  | _ => .error .unassignedFunction

/-- The first word of a wide-vector form (R36). -/
def fPrefix (w : IWord) : VectorPrefix :=
  { pg := w.extractLsb' 26 6, rm := w.extractLsb' 23 3, immx := w.extractLsb' 16 7 ++ w.extractLsb' 0 10 }

/-- Major 0x35, a wide-vector form (R36, R155). -/
def decodeWideVector (w u : IWord) : Decoded :=
  match decodeVectorBody u with
  | .ok (.vec .vsplat a) =>
    if a.pg = 0#4 then
      match a.vs2 with
      | 0x0#5 => unused (a.mod = 0#3 && a.sz = 0#2) (.vsplatImm (fPrefix w) a.vs1 a.vd)
      | 0x1#5 => near (.wideVectorForm (fPrefix w) (.vec .vsplat { a with vs2 := 0 }))
      | _ => .error .badBody
    else .error .badBody
  | .ok b => if fPg u = 0#4 then near (.wideVectorForm (fPrefix w) b) else .error .badBody
  | .error _ => .error .badBody

/-- A word of majors 0x2D to 0x32 as the body of a wide-system form: the field that takes the immediate is zero (R37). -/
def decodeSystemBody (u : IWord) : Except DecodeError SystemBody :=
  match fMajor u with
  | 0x2F#6 =>
    match decodeToken u with
    | .ok (.near (.qsig rs1 rs2)) => if rs1 = 0#5 then .ok (.qsig rs2) else .error .badBody
    | .ok (.near (.qwait rs1 rs2)) => if rs1 = 0#5 then .ok (.qwait rs2) else .error .badBody
    | _ => .error .badBody
  | 0x30#6 =>
    match decodeLadder u with
    | .ok (.far (.ladv rd rs1)) => if rs1 = 0#5 then .ok (.ladv rd) else .error .badBody
    | .ok (.far (.lrewind pd rd rs1)) => if rs1 = 0#5 then .ok (.lrewind pd rd) else .error .badBody
    | .ok (.far (.ltok rd rs1)) => if rs1 = 0#5 then .ok (.ltok rd) else .error .badBody
    | .ok (.far (.lpin rd rs1)) => if rs1 = 0#5 then .ok (.lpin rd) else .error .badBody
    | .ok (.far (.lunpin rd rs1)) => if rs1 = 0#5 then .ok (.lunpin rd) else .error .badBody
    | .ok (.far (.lopen pd rd rs1)) => if rs1 = 0#5 then .ok (.lopen pd rd) else .error .badBody
    | .ok (.far (.lset rd rs1)) => if rs1 = 0#5 then .ok (.lset rd) else .error .badBody
    | _ => .error .badBody
  | 0x31#6 =>
    match decodeEffect u with
    | .ok (.far (.perform rd rs1 rs2)) => if rs1 = 0#5 then .ok (.perform rd rs2) else .error .badBody
    | .ok (.far (.vperform pg rd rs1 rs2)) => if rs1 = 0#5 then .ok (.vperform pg rd rs2) else .error .badBody
    | .ok (.far (.resume rs1 rs2)) => if rs2 = 0#5 then .ok (.resume rs1) else .error .badBody
    | .ok (.far (.abort rs1 rs2)) => if rs2 = 0#5 then .ok (.abort rs1) else .error .badBody
    | _ => .error .badBody
  | _ => .error .badBody

/-- Major 0x36, a wide-system form (R37). -/
def decodeWideSystem (w u : IWord) : Decoded :=
  match decodeSystemBody u with
  | .ok b => near (.wideSystemForm (w.extractLsb' 16 16 ++ w.extractLsb' 0 10) b)
  | .error e => .error e

/-! ### The compressed forms -/

/-- A parcel of majors 0x38 to 0x3F (R44). -/
def decodeCompressed (w : IWord) : Decoded :=
  match fMajor w with
  | 0x38#6 => near (.cAddi (fRd w) (fRs1 w))
  | 0x39#6 => near (.cMv (fRd w) (fRs1 w))
  | 0x3A#6 => near (.cAdd (fRd w) (fRs1 w))
  | 0x3B#6 => near (.cLd (w.extractLsb' 7 3) (w.extractLsb' 4 3) (w.extractLsb' 0 4))
  | 0x3C#6 => near (.cSd (w.extractLsb' 7 3) (w.extractLsb' 4 3) (w.extractLsb' 0 4))
  | 0x3D#6 =>
    near (if fBit w 9 then .cBnz (w.extractLsb' 6 3) (w.extractLsb' 0 6) else .cBz (w.extractLsb' 6 3) (w.extractLsb' 0 6))
  | 0x3E#6 => near (.cJ (w.extractLsb' 0 10))
  | _ =>
    match fRd w with
    | 0x0#5 => unused (fRs1 w = 0#5) .cRet
    | 0x1#5 => unused (fRs1 w = 0#5) .cEnd
    | 0x2#5 => unused (fRs1 w = 0#5) .cYield
    | _ => .error .reservedValue

/-! ### The decoder -/

/-- Fields and functions, by major (R39). -/
def decodeFields (w u : IWord) : Decoded :=
  match fMajor w with
  | 0x00#6 => decodeSystem w
  | 0x01#6 => decodeInteger w
  | 0x02#6 => near (.addi (fRd w) (fRs1 w) (fImm16 w))
  | 0x03#6 => near (.andi (fRd w) (fRs1 w) (fImm16 w))
  | 0x04#6 => near (.ori (fRd w) (fRs1 w) (fImm16 w))
  | 0x05#6 => near (.xori (fRd w) (fRs1 w) (fImm16 w))
  | 0x06#6 => decodeShift w
  | 0x07#6 => near (.slti (fRd w) (fRs1 w) (fImm16 w))
  | 0x08#6 => near (.sltiu (fRd w) (fRs1 w) (fImm16 w))
  | 0x09#6 =>
    unused (w.extractLsb' 3 2 = 0#2)
      (if fBit w 2 then .lisK (fRd w) (fImm16 w) (w.extractLsb' 0 2) else .lis (fRd w) (fImm16 w) (w.extractLsb' 0 2))
  | 0x0A#6 => unused (fRs1 w = 0#5) (.addpc (fRd w) (fImm16 w))
  | 0x0B#6 => near (.jal (fRd w) (fImm16 w ++ fRs1 w))
  | 0x0C#6 => near (.jalr (fRd w) (fRs1 w) (fImm16 w))
  | 0x0D#6 => decodeBranch w
  | 0x0E#6 => decodeLoad w
  | 0x0F#6 => decodeStore w
  | 0x10#6 => unused (w.extractLsb' 6 4 = 0#4) (.loop (fBit w 5) (fRs1 w) (fImm16 w))
  | 0x11#6 => decodeControl w
  | 0x12#6 => decodeScalarFp w
  | 0x13#6 => decodeAtomic w
  | 0x14#6 => decodeFence w
  | 0x15#6 => decodeSetvl w
  | 0x16#6 => decodeTag w
  | 0x17#6 => decodeHart w
  | 0x18#6 => decodeMatrixMode w
  | 0x19#6 | 0x1A#6 | 0x1B#6 | 0x1C#6 | 0x1D#6 | 0x1E#6 | 0x1F#6 | 0x20#6 | 0x21#6 | 0x22#6 | 0x23#6 | 0x24#6 | 0x25#6
  | 0x26#6 | 0x27#6 | 0x28#6 | 0x29#6 | 0x2A#6 | 0x2B#6 | 0x2C#6 => decodeVector w
  | 0x2D#6 => decodeScopy w
  | 0x2E#6 => decodeBinding w
  | 0x2F#6 => decodeToken w
  | 0x30#6 => decodeLadder w
  | 0x31#6 => decodeEffect w
  | 0x32#6 => decodeContext w
  | 0x34#6 => decodeMatrix w u
  | 0x35#6 => decodeWideVector w u
  | 0x36#6 => decodeWideSystem w u
  | 0x38#6 | 0x39#6 | 0x3A#6 | 0x3B#6 | 0x3C#6 | 0x3D#6 | 0x3E#6 | 0x3F#6 => decodeCompressed w
  | _ => .error .reservedMajor

/-- What a first and second word hold; the second is zero for the shorter forms, and so is the upper half of the first for a
compressed form. -/
def decodeCode (w u : IWord) : Decoded :=
  match decodeFields w u with
  | .ok i => if i.wf then .ok i else .error .reservedValue
  | .error e => .error e

/-- The instruction of a first and second word. -/
noncomputable def decode (w u : IWord) : Except DecodeError Instr :=
  match decodeCode w u with
  | .ok i => .ok i.instr
  | .error e => .error e

/-- A little-endian parcel (R25). -/
def parcelOf (b0 b1 : Byte) : Parcel := b1 ++ b0

/-- A word of two parcels, the first in its low half (R25). -/
def wordOf (p0 p1 : Parcel) : IWord := p1 ++ p0

/-- The instruction at the head of the bytes, and how many bytes it takes (R25). -/
noncomputable def decodeBytes (bytes : List Byte) : Except DecodeError (Instr × Nat) :=
  match bytes with
  | b0 :: b1 :: rest =>
    let p0 := parcelOf b0 b1
    let n := lengthOf p0
    let words : Option (IWord × IWord) :=
      if n = 2 then some (wordOf p0 0, 0)
      else
        match rest with
        | b2 :: b3 :: rest' =>
          let w := wordOf p0 (parcelOf b2 b3)
          if n = 4 then some (w, 0)
          else
            match rest' with
            | b4 :: b5 :: b6 :: b7 :: _ => some (w, wordOf (parcelOf b4 b5) (parcelOf b6 b7))
            | _ => none
        | _ => none
    match words with
    | none => .error .truncated
    | some (w, u) =>
      match decode w u with
      | .ok i => .ok (i, n)
      | .error e => .error e
  | _ => .error .truncated

/-- The `n` low bytes of a number, least significant first. -/
def leBytes : Nat → Nat → List Byte
  | 0, _ => []
  | n + 1, v => BitVec.ofNat 8 v :: leBytes n (v / 256)

/-- The bytes of an instruction whose bits, numbered as the opcode table numbers them, are `w`: parcels and words are
little-endian, so they are the low bytes of the number; the bits above `nbits` are zero. -/
def tableBytes (nbits w : Nat) : List Byte := leBytes 8 (w % 2 ^ nbits)

/-- The instruction the decoder reads from a word of the opcode table. -/
noncomputable def decodeTableWord (nbits w : Nat) : Option Instr :=
  match decodeBytes (tableBytes nbits w) with
  | .ok (i, _) => some i
  | .error _ => none

/-! ### The encoder -/

/-- Format R (R30). -/
def packR (rs2 : Reg) (fn : BitVec 11) (major : BitVec 6) (rd rs1 : Reg) : IWord := rs2 ++ fn ++ major ++ rd ++ rs1

/-- Format I (R30). -/
def packI (imm : BitVec 16) (major : BitVec 6) (rd rs1 : Reg) : IWord := imm ++ major ++ rd ++ rs1

/-- Format B (R30). -/
def packB (cond : BitVec 3) (imm : BitVec 13) (major : BitVec 6) (ra rb : Reg) : IWord := cond ++ imm ++ major ++ ra ++ rb

/-- Format V (R30). -/
def packV (vs2 : Reg) (mod : BitVec 3) (sz : BitVec 2) (pg : BitVec 4) (fn : BitVec 2) (major : BitVec 6) (vd vs1 : Reg) :
    IWord :=
  vs2 ++ mod ++ sz ++ pg ++ fn ++ major ++ vd ++ vs1

/-- Where an operation of format V stands: major, function, sub-function of vs2, and the bit W[9] or W[4]. -/
structure VCode where
  major : BitVec 6
  fn : BitVec 2
  sub : Reg
  high : Bool
  deriving DecidableEq, Repr

/-- The place of each vector operation (R147 to R163). -/
def VOp.code : VOp → VCode
  | .vadd => ⟨0x19#6, 0x0#2, 0x0#5, false⟩
  | .vsub => ⟨0x19#6, 0x1#2, 0x0#5, false⟩
  | .vaddSat => ⟨0x19#6, 0x2#2, 0x0#5, false⟩
  | .vsubSat => ⟨0x19#6, 0x3#2, 0x0#5, false⟩
  | .vmul => ⟨0x1A#6, 0x0#2, 0x0#5, false⟩
  | .vdiv => ⟨0x1A#6, 0x1#2, 0x0#5, false⟩
  | .vmin => ⟨0x1A#6, 0x2#2, 0x0#5, false⟩
  | .vmax => ⟨0x1A#6, 0x3#2, 0x0#5, false⟩
  | .vfma => ⟨0x1B#6, 0x0#2, 0x0#5, false⟩
  | .vfms => ⟨0x1B#6, 0x1#2, 0x0#5, false⟩
  | .vfnma => ⟨0x1B#6, 0x2#2, 0x0#5, false⟩
  | .vfnms => ⟨0x1B#6, 0x3#2, 0x0#5, false⟩
  | .vand => ⟨0x1C#6, 0x0#2, 0x0#5, false⟩
  | .vor => ⟨0x1C#6, 0x1#2, 0x0#5, false⟩
  | .vxor => ⟨0x1C#6, 0x2#2, 0x0#5, false⟩
  | .vandn => ⟨0x1C#6, 0x3#2, 0x0#5, false⟩
  | .vsll => ⟨0x1D#6, 0x0#2, 0x0#5, false⟩
  | .vsrl => ⟨0x1D#6, 0x1#2, 0x0#5, false⟩
  | .vsra => ⟨0x1D#6, 0x2#2, 0x0#5, false⟩
  | .vrol => ⟨0x1D#6, 0x3#2, 0x0#5, false⟩
  | .vneg => ⟨0x1E#6, 0x0#2, 0x0#5, false⟩
  | .vabs => ⟨0x1E#6, 0x0#2, 0x1#5, false⟩
  | .vsqrt => ⟨0x1E#6, 0x0#2, 0x2#5, false⟩
  | .vrcp => ⟨0x1E#6, 0x0#2, 0x3#5, false⟩
  | .vrsqrt => ⟨0x1E#6, 0x0#2, 0x4#5, false⟩
  | .vfloor => ⟨0x1E#6, 0x0#2, 0x5#5, false⟩
  | .vceil => ⟨0x1E#6, 0x0#2, 0x6#5, false⟩
  | .vtrunc => ⟨0x1E#6, 0x0#2, 0x7#5, false⟩
  | .vrint => ⟨0x1E#6, 0x0#2, 0x8#5, false⟩
  | .vnot => ⟨0x1E#6, 0x1#2, 0x0#5, false⟩
  | .vclz => ⟨0x1E#6, 0x1#2, 0x1#5, false⟩
  | .vctz => ⟨0x1E#6, 0x1#2, 0x2#5, false⟩
  | .vpopc => ⟨0x1E#6, 0x1#2, 0x3#5, false⟩
  | .vidx => ⟨0x1E#6, 0x2#2, 0x0#5, false⟩
  | .vcmpEq => ⟨0x1F#6, 0x0#2, 0x0#5, false⟩
  | .vcmpNe => ⟨0x1F#6, 0x1#2, 0x0#5, false⟩
  | .vcmpLt => ⟨0x1F#6, 0x2#2, 0x0#5, false⟩
  | .vcmpLe => ⟨0x1F#6, 0x3#2, 0x0#5, false⟩
  | .vcmpGt => ⟨0x1F#6, 0x0#2, 0x0#5, true⟩
  | .vcmpGe => ⟨0x1F#6, 0x1#2, 0x0#5, true⟩
  | .vcmpUno => ⟨0x1F#6, 0x2#2, 0x0#5, true⟩
  | .vcmpOrd => ⟨0x1F#6, 0x3#2, 0x0#5, true⟩
  | .vcvt => ⟨0x20#6, 0x0#2, 0x0#5, false⟩
  | .vcvtSat => ⟨0x20#6, 0x1#2, 0x0#5, false⟩
  | .vcvtBlk => ⟨0x20#6, 0x2#2, 0x0#5, false⟩
  | .vsel => ⟨0x21#6, 0x0#2, 0x0#5, false⟩
  | .vsplat => ⟨0x21#6, 0x1#2, 0x0#5, false⟩
  | .vext => ⟨0x21#6, 0x2#2, 0x0#5, false⟩
  | .vins => ⟨0x21#6, 0x3#2, 0x0#5, false⟩
  | .vperm => ⟨0x22#6, 0x0#2, 0x0#5, false⟩
  | .vslup => ⟨0x22#6, 0x1#2, 0x0#5, false⟩
  | .vsldn => ⟨0x22#6, 0x2#2, 0x0#5, false⟩
  | .vcompress => ⟨0x22#6, 0x3#2, 0x0#5, false⟩
  | .vredsum => ⟨0x23#6, 0x0#2, 0x0#5, false⟩
  | .vredsumO => ⟨0x23#6, 0x1#2, 0x0#5, false⟩
  | .vredmin => ⟨0x23#6, 0x2#2, 0x0#5, false⟩
  | .vredmax => ⟨0x23#6, 0x3#2, 0x0#5, false⟩
  | .vscan => ⟨0x24#6, 0x0#2, 0x0#5, false⟩
  | .vscanLin => ⟨0x24#6, 0x1#2, 0x0#5, false⟩
  | .vrenorm => ⟨0x24#6, 0x2#2, 0x0#5, false⟩
  | .vrng => ⟨0x25#6, 0x0#2, 0x0#5, false⟩
  | .vrngF => ⟨0x25#6, 0x1#2, 0x0#5, false⟩

/-- The place of each vector memory operation (R179). -/
def MOp.code : MOp → VCode
  | .vld => ⟨0x29#6, 0x0#2, 0x0#5, false⟩
  | .vldO => ⟨0x29#6, 0x1#2, 0x0#5, false⟩
  | .vldTr => ⟨0x29#6, 0x2#2, 0x0#5, false⟩
  | .vldOTr => ⟨0x29#6, 0x3#2, 0x0#5, false⟩
  | .vst => ⟨0x2A#6, 0x0#2, 0x0#5, false⟩
  | .vstO => ⟨0x2A#6, 0x1#2, 0x0#5, false⟩
  | .vstX => ⟨0x2A#6, 0x2#2, 0x0#5, false⟩
  | .vstOX => ⟨0x2A#6, 0x3#2, 0x0#5, false⟩
  | .vlds => ⟨0x2B#6, 0x0#2, 0x0#5, false⟩
  | .vldsO => ⟨0x2B#6, 0x1#2, 0x0#5, false⟩
  | .vldsTr => ⟨0x2B#6, 0x0#2, 0x0#5, true⟩
  | .vldsOTr => ⟨0x2B#6, 0x1#2, 0x0#5, true⟩
  | .vsts => ⟨0x2B#6, 0x2#2, 0x0#5, false⟩
  | .vstsO => ⟨0x2B#6, 0x3#2, 0x0#5, false⟩
  | .vstsX => ⟨0x2B#6, 0x2#2, 0x0#5, true⟩
  | .vstsOX => ⟨0x2B#6, 0x3#2, 0x0#5, true⟩
  | .vgather => ⟨0x2C#6, 0x0#2, 0x0#5, false⟩
  | .vgatherO => ⟨0x2C#6, 0x1#2, 0x0#5, false⟩
  | .vscatter => ⟨0x2C#6, 0x2#2, 0x0#5, false⟩
  | .vscatterO => ⟨0x2C#6, 0x3#2, 0x0#5, false⟩
  | .vscatterX => ⟨0x2C#6, 0x2#2, 0x0#5, true⟩
  | .vscatterOX => ⟨0x2C#6, 0x3#2, 0x0#5, true⟩

/-- {ophi, fn} of each predicate-logic operation (R167). -/
def POp.code : POp → BitVec 2 × BitVec 2
  | .pand => (0x0#2, 0x0#2)
  | .por => (0x0#2, 0x1#2)
  | .pxor => (0x0#2, 0x2#2)
  | .pandn => (0x0#2, 0x3#2)
  | .pmov => (0x1#2, 0x0#2)
  | .pnot => (0x1#2, 0x1#2)
  | .pset => (0x1#2, 0x2#2)
  | .pclr => (0x1#2, 0x3#2)
  | .pbrk => (0x2#2, 0x0#2)
  | .pbrkb => (0x2#2, 0x1#2)

/-- The function of each predicate-to-scalar operation (R168). -/
def COp.code : COp → BitVec 2
  | .pcnt => 0x0#2
  | .pfirst => 0x1#2
  | .plast => 0x2#2

/-- The word of a vector operation: the sub-function in vs2, or the high bit of the condition in W[9]. -/
def VOp.word (op : VOp) (a : VArgs) : IWord :=
  packV (if op.unary then op.code.sub else a.vs2) a.mod a.sz a.pg op.code.fn op.code.major
    (if op.code.high then a.vd ||| 0x10#5 else a.vd) a.vs1

/-- The word of a vector memory operation: W[4] set in the forms that need it. -/
def MOp.word (op : MOp) (a : VArgs) : IWord :=
  packV a.vs2 a.mod a.sz a.pg op.code.fn op.code.major a.vd (if op.code.high then a.vs1 ||| 0x10#5 else a.vs1)

/-- The word of a predicate-logic operation (R166). -/
def POp.word (op : POp) (a : PArgs) : IWord :=
  a.ps2.extractLsb' 0 5 ++ a.pd.extractLsb' 5 1 ++ a.ps1.extractLsb' 5 1 ++ a.ps2.extractLsb' 5 1 ++ op.code.1 ++ a.pg ++
    op.code.2 ++ 0x27#6 ++ a.pd.extractLsb' 0 5 ++ a.ps1.extractLsb' 0 5

/-- The word of a predicate-to-scalar operation (R166, R168). -/
def COp.word (op : COp) (a : CArgs) : IWord :=
  0#5 ++ 0#1 ++ a.ps1.extractLsb' 5 1 ++ 0#1 ++ 0#2 ++ a.pg ++ op.code ++ 0x28#6 ++ a.rd ++ a.ps1.extractLsb' 0 5

/-- The word of `pair` (R164). -/
def pairWord (pg : BitVec 4) : IWord := packV 0 0 0 pg 0x0#2 0x26#6 0 0

/-- The second word of a wide-vector form (R36). -/
def VectorBody.word : VectorBody → IWord
  | .vec .vsplat a => packV 0x1#5 a.mod a.sz a.pg 0x1#2 0x21#6 a.vd a.vs1
  | .vec op a => op.word a
  | .mem op a => op.word a
  | .pred op a => op.word a
  | .count op a => op.word a
  | .pair => pairWord 0

/-- Format R of scalar floating point (R105). -/
def fpWord (op : BitVec 6) (a : FArgs) : IWord := packR a.rs2 (a.rm ++ a.fmt ++ op) 0x12#6 a.rd a.rs1

/-- Format R of atomics (R191). -/
def amoWord (op : BitVec 4) (a : AmoArgs) : IWord := packR a.rs2 (op ++ a.ty ++ a.ord ++ a.scope) 0x13#6 a.rd a.rs1

/-- Format R of the ladder (R277). -/
def ladderWord (rs2 : Reg) (pd : BitVec 6) (fn : BitVec 5) (rd rs1 : Reg) : IWord := packR rs2 (pd ++ fn) 0x30#6 rd rs1

/-- Format R of effects (R298). -/
def effectWord (rs2 : Reg) (pg fn : BitVec 4) (rd rs1 : Reg) : IWord := packR rs2 (0#3 ++ pg ++ fn) 0x31#6 rd rs1

/-- Format R of context (R324). -/
def contextWord (fn : BitVec 3) (reg : BitVec 6) (rs1 : Reg) : IWord := packR 0 (fn ++ 0#2 ++ reg) 0x32#6 0 rs1

/-- Format R of token FIFOs and signals (R266, R346). -/
def tokenWord (rs2 : Reg) (fn : BitVec 3) (q p : BitVec 2) (rs1 : Reg) : IWord := packR rs2 (fn ++ q ++ p ++ 0#4) 0x2F#6 0 rs1

/-- Format I of loads and stores (R102, R103). -/
def memWord (major : BitVec 6) (size : BitVec 3) (off : BitVec 13) (rd rs1 : Reg) : IWord := packI (off ++ size) major rd rs1

/-- The second word of a wide-system form, the operand that takes the immediate zero (R37). -/
def SystemBody.word : SystemBody → IWord
  | .ladv rd => ladderWord 0 0 0x1#5 rd 0
  | .lrewind pd rd => ladderWord 0 pd 0x2#5 rd 0
  | .ltok rd => ladderWord 0 0 0x3#5 rd 0
  | .lpin rd => ladderWord 0 0 0x6#5 rd 0
  | .lunpin rd => ladderWord 0 0 0x7#5 rd 0
  | .lopen pd rd => ladderWord 0 pd 0x8#5 rd 0
  | .lset rd => ladderWord 0 0 0xB#5 rd 0
  | .perform rd rs2 => effectWord rs2 0 0x1#4 rd 0
  | .vperform pg rd rs2 => effectWord rs2 pg 0x2#4 rd 0
  | .resume rs1 => effectWord 0 0 0x5#4 0 rs1
  | .abort rs1 => effectWord 0 0 0x6#4 0 rs1
  | .qsig rs2 => tokenWord rs2 0x4#3 0 0 0
  | .qwait rs2 => tokenWord rs2 0x5#3 0 0 0

/-- The first word of a wide-vector form (R36). -/
def VectorPrefix.word (pre : VectorPrefix) : IWord :=
  pre.pg ++ pre.rm ++ pre.immx.extractLsb' 10 7 ++ 0x35#6 ++ pre.immx.extractLsb' 0 10

/-- The first word of a wide-system form (R37). -/
def wideSystemWord (imm : BitVec 26) : IWord := imm.extractLsb' 10 16 ++ 0x36#6 ++ imm.extractLsb' 0 10

/-- One flag as a bit. -/
def bit1 (b : Bool) : BitVec 1 := BitVec.ofBool b

/-- The first word of a matrix function (R209). -/
def matrixWord (high : BitVec 16) (fn : Reg) : IWord := high ++ 0x34#6 ++ fn ++ 0#5

/-- The words of a matrix function (R210, R215, R218). -/
def OpaArgs.words (a : OpaArgs) : IWord × IWord :=
  (matrixWord (a.prow ++ a.pcol ++ bit1 a.neg ++ bit1 a.dis ++ bit1 a.tile ++ 0#1) 0x0#5,
   a.vs2 ++ a.mod2 ++ a.sz2 ++ a.mod1 ++ a.sz1 ++ 0#12 ++ a.vs1)

/-- The words of `resolve` (R215). -/
def ResolveArgs.words (a : ResolveArgs) : IWord × IWord :=
  (matrixWord (a.pg ++ a.rm ++ bit1 a.col ++ bit1 a.fx ++ bit1 a.sat ++ 0#2 ++ bit1 a.tile ++ bit1 a.isImm) 0x1#5,
   0#8 ++ a.idx ++ 0#6 ++ a.vd ++ a.rs1)

/-- The words of `acmp` (R218). -/
def AcmpArgs.words (a : AcmpArgs) : IWord × IWord :=
  (matrixWord (a.pg ++ a.cc ++ bit1 a.col ++ bit1 a.zero ++ 0#3 ++ bit1 a.tile ++ bit1 a.isImm) 0x2#5,
   a.pd ++ 0#2 ++ a.idx ++ 0#6 ++ a.vs1 ++ a.rs1)

/-- A compressed parcel, zero above (R43, R44). -/
def packC (major : BitVec 6) (low : BitVec 10) : IWord := 0#16 ++ major ++ low

/-- The words of a well-formed instruction, from the same tables: the second is zero for the shorter forms, and so is the
upper half of the first for a compressed form. The steps that are no instruction of a hart have none. -/
def encode : Instr → Option (IWord × IWord)
  | .cycles rd => some (packR 0 0x1#11 0x0#6 rd 0, 0)
  | .retired rd => some (packR 0 0x2#11 0x0#6 rd 0, 0)
  | .hpre rd rs1 rs2 => some (packR rs2 0x100#11 0x0#6 rd rs1, 0)
  | .hpark rd => some (packR 0 0x101#11 0x0#6 rd 0, 0)
  | .hwake rd rs1 rs2 => some (packR rs2 0x102#11 0x0#6 rd rs1, 0)
  | .add rd rs1 rs2 => some (packR rs2 0x1#11 0x1#6 rd rs1, 0)
  | .sub rd rs1 rs2 => some (packR rs2 0x2#11 0x1#6 rd rs1, 0)
  | .and rd rs1 rs2 => some (packR rs2 0x3#11 0x1#6 rd rs1, 0)
  | .or rd rs1 rs2 => some (packR rs2 0x4#11 0x1#6 rd rs1, 0)
  | .xor rd rs1 rs2 => some (packR rs2 0x5#11 0x1#6 rd rs1, 0)
  | .andn rd rs1 rs2 => some (packR rs2 0x6#11 0x1#6 rd rs1, 0)
  | .sll rd rs1 rs2 => some (packR rs2 0x8#11 0x1#6 rd rs1, 0)
  | .srl rd rs1 rs2 => some (packR rs2 0x9#11 0x1#6 rd rs1, 0)
  | .sra rd rs1 rs2 => some (packR rs2 0xA#11 0x1#6 rd rs1, 0)
  | .slt rd rs1 rs2 => some (packR rs2 0xC#11 0x1#6 rd rs1, 0)
  | .sltu rd rs1 rs2 => some (packR rs2 0xD#11 0x1#6 rd rs1, 0)
  | .min rd rs1 rs2 => some (packR rs2 0xE#11 0x1#6 rd rs1, 0)
  | .max rd rs1 rs2 => some (packR rs2 0xF#11 0x1#6 rd rs1, 0)
  | .minu rd rs1 rs2 => some (packR rs2 0x10#11 0x1#6 rd rs1, 0)
  | .maxu rd rs1 rs2 => some (packR rs2 0x11#11 0x1#6 rd rs1, 0)
  | .mul rd rs1 rs2 => some (packR rs2 0x18#11 0x1#6 rd rs1, 0)
  | .mulhiSs rd rs1 rs2 => some (packR rs2 0x19#11 0x1#6 rd rs1, 0)
  | .mulhiUu rd rs1 rs2 => some (packR rs2 0x1A#11 0x1#6 rd rs1, 0)
  | .mulhiSu rd rs1 rs2 => some (packR rs2 0x1B#11 0x1#6 rd rs1, 0)
  | .div rd rs1 rs2 => some (packR rs2 0x1C#11 0x1#6 rd rs1, 0)
  | .divu rd rs1 rs2 => some (packR rs2 0x1D#11 0x1#6 rd rs1, 0)
  | .rem rd rs1 rs2 => some (packR rs2 0x1E#11 0x1#6 rd rs1, 0)
  | .remu rd rs1 rs2 => some (packR rs2 0x1F#11 0x1#6 rd rs1, 0)
  | .clz rd rs1 => some (packR 0 0x20#11 0x1#6 rd rs1, 0)
  | .ctz rd rs1 => some (packR 0 0x21#11 0x1#6 rd rs1, 0)
  | .popc rd rs1 => some (packR 0 0x22#11 0x1#6 rd rs1, 0)
  | .addi rd rs1 imm => some (packI imm 0x2#6 rd rs1, 0)
  | .andi rd rs1 imm => some (packI imm 0x3#6 rd rs1, 0)
  | .ori rd rs1 imm => some (packI imm 0x4#6 rd rs1, 0)
  | .xori rd rs1 imm => some (packI imm 0x5#6 rd rs1, 0)
  | .slti rd rs1 imm => some (packI imm 0x7#6 rd rs1, 0)
  | .sltiu rd rs1 imm => some (packI imm 0x8#6 rd rs1, 0)
  | .slli rd rs1 shamt => some (packI (0x0#2 ++ 0#8 ++ shamt) 0x06#6 rd rs1, 0)
  | .srli rd rs1 shamt => some (packI (0x1#2 ++ 0#8 ++ shamt) 0x06#6 rd rs1, 0)
  | .srai rd rs1 shamt => some (packI (0x2#2 ++ 0#8 ++ shamt) 0x06#6 rd rs1, 0)
  | .lis rd imm sh => some (packI imm 0x09#6 rd (0#2 ++ 0x0#1 ++ sh), 0)
  | .lisK rd imm sh => some (packI imm 0x09#6 rd (0#2 ++ 0x1#1 ++ sh), 0)
  | .addpc rd imm => some (packI imm 0x0A#6 rd 0, 0)
  | .jal rd imm => some (packI (imm.extractLsb' 5 16) 0x0B#6 rd (imm.extractLsb' 0 5), 0)
  | .jalr rd rs1 imm => some (packI imm 0xC#6 rd rs1, 0)
  | .beq ra rb imm => some (packB 0x0#3 imm 0x0D#6 ra rb, 0)
  | .bne ra rb imm => some (packB 0x1#3 imm 0x0D#6 ra rb, 0)
  | .blt ra rb imm => some (packB 0x2#3 imm 0x0D#6 ra rb, 0)
  | .bge ra rb imm => some (packB 0x3#3 imm 0x0D#6 ra rb, 0)
  | .bltu ra rb imm => some (packB 0x4#3 imm 0x0D#6 ra rb, 0)
  | .bgeu ra rb imm => some (packB 0x5#3 imm 0x0D#6 ra rb, 0)
  | .lb rd rs1 off => some (memWord 0x0E#6 0x0#3 off rd rs1, 0)
  | .lh rd rs1 off => some (memWord 0x0E#6 0x1#3 off rd rs1, 0)
  | .lw rd rs1 off => some (memWord 0x0E#6 0x2#3 off rd rs1, 0)
  | .ld rd rs1 off => some (memWord 0x0E#6 0x3#3 off rd rs1, 0)
  | .lbu rd rs1 off => some (memWord 0x0E#6 0x4#3 off rd rs1, 0)
  | .lhu rd rs1 off => some (memWord 0x0E#6 0x5#3 off rd rs1, 0)
  | .lwu rd rs1 off => some (memWord 0x0E#6 0x6#3 off rd rs1, 0)
  | .sb rs rs1 off => some (memWord 0x0F#6 0x0#3 off rs rs1, 0)
  | .sh rs rs1 off => some (memWord 0x0F#6 0x1#3 off rs rs1, 0)
  | .sw rs rs1 off => some (memWord 0x0F#6 0x2#3 off rs rs1, 0)
  | .sd rs rs1 off => some (memWord 0x0F#6 0x3#3 off rs rs1, 0)
  | .loop k rs1 imm => some (packI imm 0x10#6 (0#4 ++ bit1 k) rs1, 0)
  | .crr rd crn => some (packI (0x0#2 ++ 0#2 ++ crn) 0x11#6 rd 0, 0)
  | .crw rd crn rs1 => some (packI (0x1#2 ++ 0#2 ++ crn) 0x11#6 rd rs1, 0)
  | .crs rd crn rs1 => some (packI (0x2#2 ++ 0#2 ++ crn) 0x11#6 rd rs1, 0)
  | .crc rd crn rs1 => some (packI (0x3#2 ++ 0#2 ++ crn) 0x11#6 rd rs1, 0)
  | .fadd a => some (fpWord 0x0#6 a, 0)
  | .fsub a => some (fpWord 0x1#6 a, 0)
  | .fmul a => some (fpWord 0x2#6 a, 0)
  | .fdiv a => some (fpWord 0x3#6 a, 0)
  | .fsqrt a => some (fpWord 0x4#6 a, 0)
  | .fmadd a => some (fpWord 0x5#6 a, 0)
  | .fmin a => some (fpWord 0x8#6 a, 0)
  | .fmax a => some (fpWord 0x9#6 a, 0)
  | .fsignCp a => some (fpWord 0xA#6 a, 0)
  | .fsignNg a => some (fpWord 0xB#6 a, 0)
  | .fsignXr a => some (fpWord 0xC#6 a, 0)
  | .feq a => some (fpWord 0x10#6 a, 0)
  | .flt a => some (fpWord 0x11#6 a, 0)
  | .fle a => some (fpWord 0x12#6 a, 0)
  | .fcvt a => some (fpWord 0x18#6 a, 0)
  | .fcvtInt64 a => some (fpWord 0x19#6 a, 0)
  | .fcvtInt64Sat a => some (fpWord 0x1A#6 a, 0)
  | .fcvtNat64 a => some (fpWord 0x1B#6 a, 0)
  | .fcvtNat64Sat a => some (fpWord 0x1C#6 a, 0)
  | .amoadd a => some (amoWord 0x0#4 a, 0)
  | .amoand a => some (amoWord 0x1#4 a, 0)
  | .amoor a => some (amoWord 0x2#4 a, 0)
  | .amoxor a => some (amoWord 0x3#4 a, 0)
  | .amomin a => some (amoWord 0x4#4 a, 0)
  | .amomax a => some (amoWord 0x5#4 a, 0)
  | .amominu a => some (amoWord 0x6#4 a, 0)
  | .amomaxu a => some (amoWord 0x7#4 a, 0)
  | .amofx a => some (amoWord 0x8#4 a, 0)
  | .amoswap a => some (amoWord 0x9#4 a, 0)
  | .amocas a => some (amoWord 0xA#4 a, 0)
  | .amofadd a => some (amoWord 0xB#4 a, 0)
  | .lda a => some (amoWord 0xC#4 a, 0)
  | .str a => some (amoWord 0xD#4 a, 0)
  | .fence set scope => some (packR 0 (0x0#3 ++ set ++ 0#1 ++ scope) 0x14#6 0 0, 0)
  | .fenceSv => some (packR 0 0x100#11 0x14#6 0 0, 0)
  | .fenceVs => some (packR 0 0x200#11 0x14#6 0 0, 0)
  | .prefetch rs1 rs2 => some (packR rs2 0x300#11 0x14#6 0 rs1, 0)
  | .tlbinv rs1 => some (packR 0 0x400#11 0x14#6 0 rs1, 0)
  | .setvl rd rs1 wc cap rs2 => some (packR rs2 (wc ++ 0x0#1 ++ bit1 cap ++ 0#6) 0x15#6 rd rs1, 0)
  | .setvlG rd rs1 wc cap rs2 => some (packR rs2 (wc ++ 0x1#1 ++ bit1 cap ++ 0#6) 0x15#6 rd rs1, 0)
  | .gangLengthGrant => none
  | .chainGrant => none
  | .vcfg vd tag s b vsc => some (packR 0 (0x0#2 ++ tag ++ bit1 s ++ bit1 b ++ 0#2) 0x16#6 vd vsc, 0)
  | .vretag vd tag s b vsc => some (packR 0 (0x1#2 ++ tag ++ bit1 s ++ bit1 b ++ 0#2) 0x16#6 vd vsc, 0)
  | .bar => some (packR 0 0x1#11 0x17#6 0 0, 0)
  | .barrierComplete => none
  | .hwpub rs1 => some (packR 0 0x2#11 0x17#6 0 rs1, 0)
  | .jnext => some (packR 0 0x3#11 0x17#6 0 0, 0)
  | .yield => some (packR 0 0x4#11 0x17#6 0 0, 0)
  | .endHart => some (packR 0 0x5#11 0x17#6 0 0, 0)
  | .lpartRcl rd rs1 rs2 => some (packR rs2 0x10#11 0x17#6 rd rs1, 0)
  | .lpartWt rd rs1 => some (packR 0 0x11#11 0x17#6 rd rs1, 0)
  | .lpartWtRelease => none
  | .mstart rows cols rs1 => some (packI (rows ++ cols) 0x18#6 0x0#5 rs1, 0)
  | .mstartKeep rows cols rs1 => some (packI (rows ++ cols) 0x18#6 0x1#5 rs1, 0)
  | .mstop => some (packI 0 0x18#6 0x2#5 0, 0)
  | .vadd a => some (VOp.word .vadd a, 0)
  | .vsub a => some (VOp.word .vsub a, 0)
  | .vaddSat a => some (VOp.word .vaddSat a, 0)
  | .vsubSat a => some (VOp.word .vsubSat a, 0)
  | .vmul a => some (VOp.word .vmul a, 0)
  | .vdiv a => some (VOp.word .vdiv a, 0)
  | .vmin a => some (VOp.word .vmin a, 0)
  | .vmax a => some (VOp.word .vmax a, 0)
  | .vfma a => some (VOp.word .vfma a, 0)
  | .vfms a => some (VOp.word .vfms a, 0)
  | .vfnma a => some (VOp.word .vfnma a, 0)
  | .vfnms a => some (VOp.word .vfnms a, 0)
  | .vand a => some (VOp.word .vand a, 0)
  | .vor a => some (VOp.word .vor a, 0)
  | .vxor a => some (VOp.word .vxor a, 0)
  | .vandn a => some (VOp.word .vandn a, 0)
  | .vsll a => some (VOp.word .vsll a, 0)
  | .vsrl a => some (VOp.word .vsrl a, 0)
  | .vsra a => some (VOp.word .vsra a, 0)
  | .vrol a => some (VOp.word .vrol a, 0)
  | .vneg a => some (VOp.word .vneg a, 0)
  | .vabs a => some (VOp.word .vabs a, 0)
  | .vsqrt a => some (VOp.word .vsqrt a, 0)
  | .vrcp a => some (VOp.word .vrcp a, 0)
  | .vrsqrt a => some (VOp.word .vrsqrt a, 0)
  | .vfloor a => some (VOp.word .vfloor a, 0)
  | .vceil a => some (VOp.word .vceil a, 0)
  | .vtrunc a => some (VOp.word .vtrunc a, 0)
  | .vrint a => some (VOp.word .vrint a, 0)
  | .vnot a => some (VOp.word .vnot a, 0)
  | .vclz a => some (VOp.word .vclz a, 0)
  | .vctz a => some (VOp.word .vctz a, 0)
  | .vpopc a => some (VOp.word .vpopc a, 0)
  | .vidx a => some (VOp.word .vidx a, 0)
  | .vcmpEq a => some (VOp.word .vcmpEq a, 0)
  | .vcmpNe a => some (VOp.word .vcmpNe a, 0)
  | .vcmpLt a => some (VOp.word .vcmpLt a, 0)
  | .vcmpLe a => some (VOp.word .vcmpLe a, 0)
  | .vcmpGt a => some (VOp.word .vcmpGt a, 0)
  | .vcmpGe a => some (VOp.word .vcmpGe a, 0)
  | .vcmpUno a => some (VOp.word .vcmpUno a, 0)
  | .vcmpOrd a => some (VOp.word .vcmpOrd a, 0)
  | .vcvt a => some (VOp.word .vcvt a, 0)
  | .vcvtSat a => some (VOp.word .vcvtSat a, 0)
  | .vcvtBlk a => some (VOp.word .vcvtBlk a, 0)
  | .vsel a => some (VOp.word .vsel a, 0)
  | .vsplat a => some (VOp.word .vsplat a, 0)
  | .vsplatImm pre vs1 vd => some (pre.word, packV 0x0#5 0 0 0 0x1#2 0x21#6 vd vs1)
  | .vext a => some (VOp.word .vext a, 0)
  | .vins a => some (VOp.word .vins a, 0)
  | .vperm a => some (VOp.word .vperm a, 0)
  | .vslup a => some (VOp.word .vslup a, 0)
  | .vsldn a => some (VOp.word .vsldn a, 0)
  | .vcompress a => some (VOp.word .vcompress a, 0)
  | .vredsum a => some (VOp.word .vredsum a, 0)
  | .vredsumO a => some (VOp.word .vredsumO a, 0)
  | .vredmin a => some (VOp.word .vredmin a, 0)
  | .vredmax a => some (VOp.word .vredmax a, 0)
  | .vscan a => some (VOp.word .vscan a, 0)
  | .vscanLin a => some (VOp.word .vscanLin a, 0)
  | .vrenorm a => some (VOp.word .vrenorm a, 0)
  | .vrng a => some (VOp.word .vrng a, 0)
  | .vrngF a => some (VOp.word .vrngF a, 0)
  | .pair pg => some (pairWord pg, 0)
  | .pand a => some (POp.word .pand a, 0)
  | .por a => some (POp.word .por a, 0)
  | .pxor a => some (POp.word .pxor a, 0)
  | .pandn a => some (POp.word .pandn a, 0)
  | .pmov a => some (POp.word .pmov a, 0)
  | .pnot a => some (POp.word .pnot a, 0)
  | .pset a => some (POp.word .pset a, 0)
  | .pclr a => some (POp.word .pclr a, 0)
  | .pbrk a => some (POp.word .pbrk a, 0)
  | .pbrkb a => some (POp.word .pbrkb a, 0)
  | .pcnt a => some (COp.word .pcnt a, 0)
  | .pfirst a => some (COp.word .pfirst a, 0)
  | .plast a => some (COp.word .plast a, 0)
  | .vld a => some (MOp.word .vld a, 0)
  | .vldO a => some (MOp.word .vldO a, 0)
  | .vldTr a => some (MOp.word .vldTr a, 0)
  | .vldOTr a => some (MOp.word .vldOTr a, 0)
  | .vst a => some (MOp.word .vst a, 0)
  | .vstO a => some (MOp.word .vstO a, 0)
  | .vstX a => some (MOp.word .vstX a, 0)
  | .vstOX a => some (MOp.word .vstOX a, 0)
  | .vlds a => some (MOp.word .vlds a, 0)
  | .vldsO a => some (MOp.word .vldsO a, 0)
  | .vldsTr a => some (MOp.word .vldsTr a, 0)
  | .vldsOTr a => some (MOp.word .vldsOTr a, 0)
  | .vsts a => some (MOp.word .vsts a, 0)
  | .vstsO a => some (MOp.word .vstsO a, 0)
  | .vstsX a => some (MOp.word .vstsX a, 0)
  | .vstsOX a => some (MOp.word .vstsOX a, 0)
  | .vgather a => some (MOp.word .vgather a, 0)
  | .vgatherO a => some (MOp.word .vgatherO a, 0)
  | .vscatter a => some (MOp.word .vscatter a, 0)
  | .vscatterO a => some (MOp.word .vscatterO a, 0)
  | .vscatterX a => some (MOp.word .vscatterX a, 0)
  | .vscatterOX a => some (MOp.word .vscatterOX a, 0)
  | .scopy pd rd rs1 rs2 => some (packR rs2 (0#5 ++ pd) 0x2D#6 rd rs1, 0)
  | .channelGrant => none
  | .scopyChunkComplete => none
  | .sbind vd rs1 => some (packR 0 0x000#11 0x2E#6 vd rs1, 0)
  | .sunbind vd => some (packR 0 0x100#11 0x2E#6 vd 0, 0)
  | .srearm vd => some (packR 0 0x200#11 0x2E#6 vd 0, 0)
  | .stripFetch => none
  | .tkput q p => some (tokenWord 0 0x0#3 q p 0, 0)
  | .tkget q p => some (tokenWord 0 0x1#3 q p 0, 0)
  | .tokenFifoRelease => none
  | .qsig rs1 rs2 => some (tokenWord rs2 0x4#3 0 0 rs1, 0)
  | .qwait rs1 rs2 => some (tokenWord rs2 0x5#3 0 0 rs1, 0)
  | .qwaitRelease => none
  | .ladv rd rs1 => some (ladderWord 0 0 0x1#5 rd rs1, 0)
  | .cairnBlockCopy => none
  | .lrewind pd rd rs1 => some (ladderWord 0 pd 0x2#5 rd rs1, 0)
  | .ladderRestoreChunk => none
  | .ltok rd rs1 => some (ladderWord 0 0 0x3#5 rd rs1, 0)
  | .lfork pd rd rs1 => some (ladderWord 0 pd 0x4#5 rd rs1, 0)
  | .lmatch rd rs1 rs2 => some (ladderWord rs2 0 0x5#5 rd rs1, 0)
  | .lpin rd rs1 => some (ladderWord 0 0 0x6#5 rd rs1, 0)
  | .lunpin rd rs1 => some (ladderWord 0 0 0x7#5 rd rs1, 0)
  | .lopen pd rd rs1 => some (ladderWord 0 pd 0x8#5 rd rs1, 0)
  | .lclose rd => some (ladderWord 0 0 0x9#5 rd 0, 0)
  | .lcloseS rd => some (ladderWord 0 0 0xA#5 rd 0, 0)
  | .lset rd rs1 => some (ladderWord 0 0 0xB#5 rd rs1, 0)
  | .perform rd rs1 rs2 => some (effectWord rs2 0 0x1#4 rd rs1, 0)
  | .vperform pg rd rs1 rs2 => some (effectWord rs2 pg 0x2#4 rd rs1, 0)
  | .hpush rd rs1 rs2 => some (effectWord rs2 0 0x3#4 rd rs1, 0)
  | .hpop => some (effectWord 0 0 0x4#4 0 0, 0)
  | .resume rs1 rs2 => some (effectWord rs2 0 0x5#4 0 rs1, 0)
  | .abort rs1 rs2 => some (effectWord rs2 0 0x6#4 0 rs1, 0)
  | .tkeep rs1 rs2 => some (effectWord rs2 0 0x7#4 0 rs1, 0)
  | .tdrop rs1 => some (effectWord 0 0 0x8#4 0 rs1, 0)
  | .preempt => none
  | .vspill reg rs1 => some (contextWord 0x0#3 reg rs1, 0)
  | .vfill reg rs1 => some (contextWord 0x1#3 reg rs1, 0)
  | .vspillP reg rs1 => some (contextWord 0x2#3 reg rs1, 0)
  | .vfillP reg rs1 => some (contextWord 0x3#3 reg rs1, 0)
  | .pfset reg => some (contextWord 0x4#3 reg 0, 0)
  | .evictV rs1 => some (contextWord 0x5#3 0x0#6 rs1, 0)
  | .evictP rs1 => some (contextWord 0x5#3 0x1#6 rs1, 0)
  | .evictA rs1 => some (contextWord 0x5#3 0x2#6 rs1, 0)
  | .opa a => some (a.words)
  | .resolve a => some (a.words)
  | .acmp a => some (a.words)
  | .accstRaw tile rs1 => some (matrixWord (0#14 ++ bit1 tile ++ 0#1) 0x3#5, 0#27 ++ rs1)
  | .accstFx tile rs1 => some (matrixWord (0#14 ++ bit1 tile ++ 1#1) 0x3#5, 0#27 ++ rs1)
  | .accldRaw tile rs1 => some (matrixWord (0#14 ++ bit1 tile ++ 0#1) 0x4#5, 0#27 ++ rs1)
  | .acczero tile both => some (matrixWord (0#14 ++ bit1 tile ++ bit1 both) 0x5#5, 0)
  | .anchor tile isImm imm rs1 => some (matrixWord (0#14 ++ bit1 tile ++ bit1 isImm) 0x6#5, 0#8 ++ imm ++ 0#11 ++ rs1)
  | .wideVectorForm pre body => some (pre.word, body.word)
  | .wideSystemForm imm body => some (wideSystemWord imm, body.word)
  | .cAddi rd imm => some (packC 0x38#6 (rd ++ imm), 0)
  | .cMv rd rs => some (packC 0x39#6 (rd ++ rs), 0)
  | .cAdd rd rs => some (packC 0x3A#6 (rd ++ rs), 0)
  | .cLd r rs1 off => some (packC 0x3B#6 (r ++ rs1 ++ off), 0)
  | .cSd r rs1 off => some (packC 0x3C#6 (r ++ rs1 ++ off), 0)
  | .cBz rs imm => some (packC 0x3D#6 (0#1 ++ rs ++ imm), 0)
  | .cBnz rs imm => some (packC 0x3D#6 (1#1 ++ rs ++ imm), 0)
  | .cJ imm => some (packC 0x3E#6 imm, 0)
  | .cRet => some (packC 0x3F#6 (0x0#5 ++ 0#5), 0)
  | .cEnd => some (packC 0x3F#6 (0x1#5 ++ 0#5), 0)
  | .cYield => some (packC 0x3F#6 (0x2#5 ++ 0#5), 0)
  | .placeGang => none
  | .jobCompletion => none
  | .spreadSteal => none
  | .summitScan => none
  | .declineDelay => none
  | .nop => none
  | .job => none
  | .copy => none
  | .copyComplete => none
  | .signal => none
  | .wait => none
  | .fenceCommand => none
  | .indirect => none
  | .createStream => none
  | .destroyStream => none
  | .cairnStoreSize => none
  | .spillAreas => none
  | .invalidate => none
  | .allocateSignal => none
  | .freeSignal => none
  | .tailWrite => none
  | .controlRegionWrite => none
  | .rdmaWrite => none
  | .rdmaRead => none
  | .fabricAtomic => none
  | .connectionSetup => none
  | .transportGiveUp => none
  | .ident => none
  | .upload => none
  | .select => none
  | .reset => none
  | .status => none
  | .attest => none
  | .resumeRequest => none
  | .powerGood => none
  | .baseMode => none
  | .firmwareVerify => none
  | .memoryTraining => none
  | .thermalSample => none
  | .singleBitError => none
  | .uncorrectableRead => none
  | .linkFlitRetry => none
  | .illegalInstruction => none
  | .instructionFetchFault => none
  | .storeReachesHome => none
  | .mainInputOff => none

/-- Whether the table gives the row an encoding, so that a hart can hold it as an instruction. -/
def Instr.encoded (i : Instr) : Bool := (encode i).isSome

/-- The length in bytes of an encoded instruction (R25). -/
def Instr.length (i : Instr) : Nat :=
  match encode i with
  | some (w, _) => lengthOf (w.extractLsb' 0 16)
  | none => 0

end Sys2Proof
end

