-- ==== Sys2Proof/Machine/Scalar.lean ====
section
/-! DEFINITION. Integer, immediate, counter and control-transfer instructions and hardware loops (R95 to R101, R109), with
the compressed forms that expand to them (R44). -/

namespace Sys2Proof.Machine

/-- A register result and retirement. -/
def State.give (s : State) (rd : Reg) (v : Word) (len : Nat) : State := (s.setX rd v).retire len

/-- x(rd) := f x(rs1) x(rs2) (R95). -/
def binary (f : Word → Word → Word) (rd rs1 rs2 : Reg) (s : State) : Out :=
  .next (s.give rd (f (s.getX rs1) (s.getX rs2)) 4)

/-- Signed quotient: −1 for a zero divisor, wrapping at the overflow corner (R95). -/
def divSigned (a b : Word) : Word := if b = 0 then BitVec.allOnes 64 else intWord (Int.tdiv a.toInt b.toInt)

/-- Unsigned quotient: all ones for a zero divisor (R95). -/
def divUnsigned (a b : Word) : Word := if b = 0 then BitVec.allOnes 64 else BitVec.ofNat 64 (a.toNat / b.toNat)

/-- The high word of a product of two integers (R95). -/
def mulHigh (a b : Int) : Word := intWord ((a * b) / 2 ^ 64)

def execAdd (rd rs1 rs2 : Reg) (s : State) : Out := binary (· + ·) rd rs1 rs2 s
def execSub (rd rs1 rs2 : Reg) (s : State) : Out := binary (· - ·) rd rs1 rs2 s
def execAnd (rd rs1 rs2 : Reg) (s : State) : Out := binary (· &&& ·) rd rs1 rs2 s
def execOr (rd rs1 rs2 : Reg) (s : State) : Out := binary (· ||| ·) rd rs1 rs2 s
def execXor (rd rs1 rs2 : Reg) (s : State) : Out := binary (· ^^^ ·) rd rs1 rs2 s
def execAndn (rd rs1 rs2 : Reg) (s : State) : Out := binary (fun a b => a &&& ~~~b) rd rs1 rs2 s
/-- Shifts use the low six bits of the second operand (R95). -/
def execSll (rd rs1 rs2 : Reg) (s : State) : Out := binary (fun a b => a <<< (b.toNat % 64)) rd rs1 rs2 s
def execSrl (rd rs1 rs2 : Reg) (s : State) : Out := binary (fun a b => a >>> (b.toNat % 64)) rd rs1 rs2 s
def execSra (rd rs1 rs2 : Reg) (s : State) : Out := binary (fun a b => a.sshiftRight (b.toNat % 64)) rd rs1 rs2 s
def execSlt (rd rs1 rs2 : Reg) (s : State) : Out := binary (fun a b => boolWord (a.slt b)) rd rs1 rs2 s
def execSltu (rd rs1 rs2 : Reg) (s : State) : Out := binary (fun a b => boolWord (a.ult b)) rd rs1 rs2 s
def execMin (rd rs1 rs2 : Reg) (s : State) : Out := binary (fun a b => if b.slt a then b else a) rd rs1 rs2 s
def execMax (rd rs1 rs2 : Reg) (s : State) : Out := binary (fun a b => if a.slt b then b else a) rd rs1 rs2 s
def execMinu (rd rs1 rs2 : Reg) (s : State) : Out := binary (fun a b => if b.ult a then b else a) rd rs1 rs2 s
def execMaxu (rd rs1 rs2 : Reg) (s : State) : Out := binary (fun a b => if a.ult b then b else a) rd rs1 rs2 s
def execMul (rd rs1 rs2 : Reg) (s : State) : Out := binary (· * ·) rd rs1 rs2 s
def execMulhiSs (rd rs1 rs2 : Reg) (s : State) : Out := binary (fun a b => mulHigh a.toInt b.toInt) rd rs1 rs2 s
def execMulhiUu (rd rs1 rs2 : Reg) (s : State) : Out := binary (fun a b => mulHigh a.toNat b.toNat) rd rs1 rs2 s
def execMulhiSu (rd rs1 rs2 : Reg) (s : State) : Out := binary (fun a b => mulHigh a.toInt b.toNat) rd rs1 rs2 s
def execDiv (rd rs1 rs2 : Reg) (s : State) : Out := binary divSigned rd rs1 rs2 s
def execDivu (rd rs1 rs2 : Reg) (s : State) : Out := binary divUnsigned rd rs1 rs2 s
def execRem (rd rs1 rs2 : Reg) (s : State) : Out := binary (fun a b => a - b * divSigned a b) rd rs1 rs2 s
def execRemu (rd rs1 rs2 : Reg) (s : State) : Out := binary (fun a b => a - b * divUnsigned a b) rd rs1 rs2 s

/-- x(rd) := f x(rs1) (R95). -/
def unary (f : Word → Word) (rd rs1 : Reg) (s : State) : Out := .next (s.give rd (f (s.getX rs1)) 4)

def execClz (rd rs1 : Reg) (s : State) : Out := unary (fun a => BitVec.ofNat 64 (clzNat 64 a.toNat)) rd rs1 s
def execCtz (rd rs1 : Reg) (s : State) : Out := unary (fun a => BitVec.ofNat 64 (ctzNat 64 a.toNat)) rd rs1 s
def execPopc (rd rs1 : Reg) (s : State) : Out := unary (fun a => BitVec.ofNat 64 (popcNat 64 a.toNat)) rd rs1 s

/-- x(rd) := f x(rs1) sext(imm16) (R96). -/
def immediate (f : Word → Word → Word) (rd rs1 : Reg) (imm : BitVec 16) (s : State) : Out :=
  .next (s.give rd (f (s.getX rs1) (sext imm)) 4)

def execAddi (rd rs1 : Reg) (imm : BitVec 16) (s : State) : Out := immediate (· + ·) rd rs1 imm s
def execAndi (rd rs1 : Reg) (imm : BitVec 16) (s : State) : Out := immediate (· &&& ·) rd rs1 imm s
def execOri (rd rs1 : Reg) (imm : BitVec 16) (s : State) : Out := immediate (· ||| ·) rd rs1 imm s
def execXori (rd rs1 : Reg) (imm : BitVec 16) (s : State) : Out := immediate (· ^^^ ·) rd rs1 imm s
def execSlti (rd rs1 : Reg) (imm : BitVec 16) (s : State) : Out := immediate (fun a c => boolWord (a.slt c)) rd rs1 imm s
def execSltiu (rd rs1 : Reg) (imm : BitVec 16) (s : State) : Out := immediate (fun a c => boolWord (a.ult c)) rd rs1 imm s
def execSlli (rd rs1 : Reg) (sh : BitVec 6) (s : State) : Out := .next (s.give rd (s.getX rs1 <<< sh.toNat) 4)
def execSrli (rd rs1 : Reg) (sh : BitVec 6) (s : State) : Out := .next (s.give rd (s.getX rs1 >>> sh.toNat) 4)
def execSrai (rd rs1 : Reg) (sh : BitVec 6) (s : State) : Out := .next (s.give rd ((s.getX rs1).sshiftRight sh.toNat) 4)

/-- The shifted immediate alone (R97). -/
def execLis (rd : Reg) (imm : BitVec 16) (sh : BitVec 2) (s : State) : Out :=
  .next (s.give rd (sext imm <<< (16 * sh.toNat)) 4)

/-- The pattern put into its place of x(rd) (R97). -/
def execLisK (rd : Reg) (imm : BitVec 16) (sh : BitVec 2) (s : State) : Out :=
  let n := 16 * sh.toNat
  .next (s.give rd ((s.getX rd &&& ~~~((0xFFFF : Word) <<< n)) ||| (imm.setWidth 64 <<< n)) 4)

/-- A + sext(imm16) × 2^16 (R98). -/
def execAddpc (rd : Reg) (imm : BitVec 16) (s : State) : Out := .next (s.give rd (s.hart.pc + sext imm <<< 16) 4)

/-- The core's count of clocks, which every hart of the core reads and which never falls; how far it has come is a free value (R99,
entry 6). -/
def execCycles (rd : Reg) (s : State) : Out :=
  let core := s.hart.id.core
  let v := (s.die s.dieOf).cycles[core % 8]'(Nat.mod_lt core (by decide)) + Config.coreClocks s.ticks
  let s1 := s.onDie s.dieOf (fun d => { d with cycles := d.cycles.set (core % 8) v (Nat.mod_lt core (by decide)) })
  .next (s1.give rd (BitVec.ofNat 64 v) 4)

/-- Instructions retired before this one (R99). -/
def execRetired (rd : Reg) (s : State) : Out := .next (s.give rd s.hart.retired 4)

/-- The target of a pc-relative offset in halfwords (R27). -/
def State.target {w : Nat} (s : State) (imm : BitVec w) : Word := s.hart.pc + sext imm <<< 1

/-- `jal` (R100). -/
def execJal (rd : Reg) (imm : BitVec 21) (s : State) : Out := .next ((s.setX rd (s.hart.pc + 4)).jump (s.target imm))

/-- A computed target, refused when odd (R26, R100): the access word is that of a fetch (entry 21). -/
def State.jumpTo (s : State) (rd : Reg) (t link : Word) : Result :=
  if t.getLsbD 0 then .trap (.plain effMisaligned t (accessWord 0 false 0)) s else .done ((s.setX rd link).jump t)

/-- `jalr` reads x(rs1) before it writes rd (R100). -/
def execJalr (rd rs1 : Reg) (imm : BitVec 16) (s : State) : Out :=
  (s.jumpTo rd (s.getX rs1 + sext imm) (s.hart.pc + 4)).out

/-- A branch of `len` bytes (R101). -/
def State.branch (s : State) (taken : Bool) (target : Word) (len : Nat) : State :=
  if taken then s.jump target else s.retire len

def execBeq (ra rb : Reg) (imm : BitVec 13) (s : State) : Out := .next (s.branch (s.getX ra == s.getX rb) (s.target imm) 4)
def execBne (ra rb : Reg) (imm : BitVec 13) (s : State) : Out := .next (s.branch (s.getX ra != s.getX rb) (s.target imm) 4)
def execBlt (ra rb : Reg) (imm : BitVec 13) (s : State) : Out := .next (s.branch ((s.getX ra).slt (s.getX rb)) (s.target imm) 4)
def execBge (ra rb : Reg) (imm : BitVec 13) (s : State) : Out := .next (s.branch (!(s.getX ra).slt (s.getX rb)) (s.target imm) 4)
def execBltu (ra rb : Reg) (imm : BitVec 13) (s : State) : Out := .next (s.branch ((s.getX ra).ult (s.getX rb)) (s.target imm) 4)
def execBgeu (ra rb : Reg) (imm : BitVec 13) (s : State) : Out := .next (s.branch (!(s.getX ra).ult (s.getX rb)) (s.target imm) 4)

/-- `loop` replaces the level's loop; with a count of zero it skips the body. It takes no part in the other level's loop test,
and its own level's test could not act, so it retires without one (R109; entry 22). -/
def execLoop (k : Bool) (rs1 : Reg) (imm : BitVec 16) (s : State) : Out :=
  let a := s.hart.pc
  let e := a + imm.setWidth 64 <<< 1
  let n := s.getX rs1
  let stop := e &&& 0x00FFFFFFFFFFFFFE
  let s := s.setLoop k ⟨n, (a + 4) &&& 0x00FFFFFFFFFFFFFE, stop, stop, false⟩
  .next ((s.count 1).setPc (if n = 0 then e else a + 4))

/-! ### Compressed forms: their expansions, two bytes long (R44) -/

/-- x(8 + c). -/
def creg (c : BitVec 3) : Reg := 8 + c.setWidth 5

def execCAddi (rd : Reg) (imm : BitVec 5) (s : State) : Out := .next (s.give rd (s.getX rd + sext imm) 2)
def execCMv (rd rs : Reg) (s : State) : Out := .next (s.give rd (s.getX rs) 2)
def execCAdd (rd rs : Reg) (s : State) : Out := .next (s.give rd (s.getX rd + s.getX rs) 2)
def execCBz (rs : BitVec 3) (imm : BitVec 6) (s : State) : Out := .next (s.branch (s.getX (creg rs) == 0) (s.target imm) 2)
def execCBnz (rs : BitVec 3) (imm : BitVec 6) (s : State) : Out := .next (s.branch (s.getX (creg rs) != 0) (s.target imm) 2)
def execCJ (imm : BitVec 10) (s : State) : Out := .next (s.jump (s.target imm))
def execCRet (s : State) : Out := (s.jumpTo 0 (s.getX 1) 0).out

end Sys2Proof.Machine
end

