-- ==== Sys2Proof/Machine/Control.lean ====
section
/-! DEFINITION. Control registers: what each reads as, which writes are legal, and what a write does (R89 to R91, R72, R73,
R93, R108, R111, R113 to R118, R127, R130, R140, R143, R203 to R205, R264, R276, R295, R303, R307, R321, R323). -/

namespace Sys2Proof.Machine

/-! ### Reading -/

/-- A VTAGS entry as 16 bits (R140). -/
def TagEntry.bits (t : TagEntry) : Nat :=
  t.tag.code.toNat * 2 ^ 8 + (if t.s then 2 ^ 7 else 0) + (if t.b then 2 ^ 6 else 0) + t.vsc.toNat

/-- The entry that 16 bits write; none for a reserved or bit-plane tag code or a reserved bit (R140). -/
def TagEntry.ofBits (v : Nat) : Option TagEntry :=
  if v / 2 ^ 13 % 8 ≠ 0 ∨ v.testBit 5 then none
  else (Tag.ofCode (BitVec.ofNat 5 (v / 2 ^ 8))).map (fun t => ⟨t, v.testBit 7, v.testBit 6, BitVec.ofNat 5 v⟩)

/-- The entries of registers 4k to 4k + 3 (R140). -/
def VecState.tagWord (v : VecState) (k : Nat) : Nat :=
  (List.range 4).foldr (fun i acc => ((v.tags[4 * k + i]?).getD .start).bits + 2 ^ 16 * acc) 0

/-- Harts of the executing hart's core. -/
def State.coreHarts (s : State) : List Hart := s.harts.filter (fun h => h.id.core == s.hart.id.core)

/-- A hart that holds its lane block: every hart but a parked one (R319). -/
def Hart.holdsLanes (h : Hart) : Bool :=
  match h.cond with
  | .vacant | .parked _ => false
  | _ => true

/-- The code of a reclaim request (R114). -/
def reclaimCode : Option Nat → Nat
  | none => 0
  | some n => if n = 4 then 1 else if n = 8 then 2 else 3

/-- LPART (R114). -/
def State.lpart (s : State) : Nat :=
  let hs := s.coreHarts
  let quarter (i : Nat) : Nat := match hs.find? (fun h => h.holdsLanes && decide (h.id.first ≤ 4 * i) &&
      decide (4 * i < h.id.first + h.id.lanes)) with
    | some h => 8 + h.id.slot
    | none => 0
  let request (t : Nat) : Nat := match hs.find? (fun h => h.id.slot == t) with
    | some h => reclaimCode h.priv.reclaim
    | none => 0
  (List.range 8).foldl (fun acc i => acc + quarter i * 2 ^ (4 * i) + request i * 2 ^ (32 + 4 * i)) 0

/-- The stream the hart is bound to (R276). -/
def State.boundStream (s : State) : Option Stream :=
  match s.hart.eng.stream with
  | none => none
  | some id => s.streams.find? (fun t => t.id == id)

/-- GBAR (R130). -/
def State.gbar (s : State) : Nat :=
  match s.gang with
  | some g => g.gen.toNat * 2 ^ 16 + g.arrived.toNat
  | none => 0

/-- A boolean at a bit. -/
def bitAt (b : Bool) (k : Nat) : Nat := if b then 2 ^ k else 0

/-- HTOP (R295). -/
def EffState.htop (e : EffState) : Nat := bitAt e.ppend 33 + bitAt e.pmask 32 + e.srch * 2 ^ 16 + e.depth

/-- One of LCk, LSk, LEk, LEAk (R108). -/
def Loop.word (l : Loop) (j : Nat) : Word :=
  match j with
  | 0 => l.count
  | 1 => l.start
  | 2 => l.stop
  | _ => l.armed

/-- CR(crn) (R89, R90). -/
def State.crRead (s : State) (n : Nat) : Word :=
  let h := s.hart
  let num (v : Nat) : Word := BitVec.ofNat 64 v
  if 0x008 ≤ n ∧ n ≤ 0x00F then num (h.vec.tagWord (n - 8))
  else if 0x020 ≤ n ∧ n ≤ 0x023 then h.loop0.word (n - 0x020)
  else if 0x024 ≤ n ∧ n ≤ 0x027 then h.loop1.word (n - 0x024)
  else match n with
    | 0x000 => h.fp.fflags.setWidth 64
    | 0x001 => h.fp.frm.setWidth 64
    | 0x002 => num h.vec.vl
    | 0x003 => num h.vec.vstart
    | 0x004 => num (bitAt h.vec.mz 1 + bitAt h.vec.ta 0)
    | 0x005 => h.fp.xcls.setWidth 64
    | 0x010 => num (bitAt h.mat.nz1 2 + bitAt h.mat.nz0 1 + bitAt h.mat.m 0)
    | 0x011 => num h.mat.rows
    | 0x012 => num h.mat.cols
    | 0x013 => h.mat.anchor0.setWidth 64
    | 0x014 => h.mat.anchor1.setWidth 64
    | 0x015 => h.mat.aovf.setWidth 64
    | 0x028 => num (bitAt h.loop1.close 1 + bitAt h.loop0.close 0)
    | 0x030 => num (h.id.core * 2 ^ 16 + h.id.slot * 2 ^ 8 + h.id.rank)
    | 0x031 => num ((h.id.nh - 1) * 2 ^ 16 + h.id.gang)
    | 0x032 => num s.gbar
    | 0x033 => num (h.id.first * 2 ^ 8 + h.id.lanes)
    | 0x034 => num (bitAt h.chain.en 8 + h.chain.src.toNat)
    | 0x035 => num (bitAt h.chain.final 63 + h.chain.index.toNat)
    | 0x036 => h.chain.pos.setWidth 64
    | 0x037 => num s.lpart
    | 0x040 => num (bitAt h.priv.reclaim.isSome 2 + bitAt h.priv.sup 1 + bitAt h.priv.det 0)
    | 0x041 => num (h.priv.sdbase.toNat * 2 ^ 12)
    | 0x042 => num (h.priv.sdlim.toNat * 2 ^ 12)
    | 0x050 => h.eff.hsp
    | 0x051 => num h.eff.htop
    | 0x052 => h.eff.tokbase
    | 0x053 => h.eff.vcap.setWidth 64
    | 0x054 => h.eff.pcap.setWidth 64
    | 0x055 => h.vec.dirty.setWidth 64
    | 0x056 => h.vec.pdirty.setWidth 64
    | 0x057 => h.mat.dirty.setWidth 64
    | 0x058 => h.eff.epc
    | 0x059 => h.eff.ecause.setWidth 64
    | 0x05A => h.eff.eval
    | 0x05B => num (h.eng.sfKind.toNat * 2 ^ 61 + h.eng.sfReg.toNat * 2 ^ 56 + h.eng.sfStrip.toNat)
    | 0x060 => (match h.eng.stream with
      | some id => num (2 ^ 63 + id)
      | none => 0)
    | 0x061 => (match s.boundStream with
      | some t => num t.lpos
      | none => 0)
    | 0x062 => (match s.boundStream with
      | some t => num t.ltarget
      | none => 0)
    | 0x063 => (match s.boundStream with
      | some t => num t.lcost
      | none => 0)
    | 0x064 => (match s.boundStream with
      | some t => num (bitAt t.bad 33 + bitAt (decide (t.lpos < t.ltarget)) 32 + t.cmps)
      | none => 0)
    | _ => 0

/-! ### Who may access -/

/-- Registers that are read and written at supervisor privilege alone: RWP, LPART and HSTATUS (R5, R114, R115). -/
def crSupervisor (n : Nat) : Bool :=
  (0x008 ≤ n && n ≤ 0x00F) || n == 0x037 || (0x040 ≤ n && n ≤ 0x042) || n == 0x052 || (0x055 ≤ n && n ≤ 0x057)

/-- Registers written at supervisor privilege alone: those, VL, HSP and HTOP (R116, R295). -/
def crSupervisorWrite (n : Nat) : Bool := crSupervisor n || n == 0x002 || n == 0x050 || n == 0x051

/-- Registers that are read-only whole. -/
def crReadOnly (n : Nat) : Bool :=
  (0x010 ≤ n && n ≤ 0x012) || (0x030 ≤ n && n ≤ 0x033) || n == 0x037 || (0x058 ≤ n && n ≤ 0x05A) || (0x060 ≤ n && n ≤ 0x064)

/-- The bits a write may set (R1). -/
def crBits (n : Nat) : Word :=
  if 0x008 ≤ n ∧ n ≤ 0x00F then 0x1FDF1FDF1FDF1FDF
  else match n with
    | 0x000 | 0x005 => 0x3F
    | 0x001 => 0x7
    | 0x002 | 0x003 => 0x3FFFF
    | 0x004 | 0x015 | 0x028 | 0x057 => 0x3
    | 0x013 | 0x014 => 0xFF
    | 0x020 | 0x024 | 0x035 => BitVec.allOnes 64
    | 0x021 | 0x022 | 0x023 | 0x025 | 0x026 | 0x027 => 0x00FFFFFFFFFFFFFE
    | 0x034 => 0x107
    | 0x036 => 0x7FFFFFFFFFFFFFFF
    | 0x040 => 0x7
    | 0x041 => 0x3F000
    | 0x042 => 0x7F000
    | 0x050 => 0x00FFFFFFFFFFFFE0
    | 0x051 => 0x300FF00FF
    | 0x052 => 0x00FFFFFFFFFFE000
    | 0x053 | 0x055 => 0xFFFFFFFF
    | 0x054 | 0x056 => 0x4FFFFFFFFFFFE
    | 0x05B => 0xFF00FFFFFFFFFFFF
    | _ => 0

/-! ### Which values a write may hold -/

/-- Two half-open ranges share a granule. -/
def rangesMeet (a b c d : Nat) : Bool := decide (a < b) && decide (c < d) && decide (a < d) && decide (c < b)

/-- The harts of a core that hold a partition; a hart that may still go back to an instruction that waits in its queue holds the partition
that it had there too (R94, R136). -/
def State.partitionHolders (s : State) (core : Nat) : List Hart :=
  (s.harts ++ (s.waits.filter (fun p => !p.acted)).map (fun p => p.before)).filter (fun h => h.id.core == core)

/-- Whether a partition of the hart would overlap another's on its core (R94). -/
def State.partitionFree (s : State) (lo hi : Nat) : Bool :=
  (s.partitionHolders s.hart.id.core).all (fun h => h.id.slot == s.hart.id.slot || !rangesMeet lo hi h.priv.sdbase.toNat h.priv.sdlim.toNat)

/-- Whether an entry of VTAGS may be written over the register's (R140). -/
def State.tagWritable (s : State) (r : Reg) (v : Nat) : Bool :=
  match TagEntry.ofBits v with
  | none => false
  | some t => tagEntryWf r t.tag.code t.s t.b t.vsc && (!s.hart.vec.present.getLsbD r.toNat || t == s.tagOf r)

/-- NZ of a tile. -/
def MatState.nz (m : MatState) (tile : Bool) : Bool := if tile then m.nz1 else m.nz0

/-- The anchor of a tile. -/
def MatState.anchor (m : MatState) (tile : Bool) : BitVec 8 := if tile then m.anchor1 else m.anchor0

/-- Whether a tile's anchor may become a value (R204). -/
def State.anchorOk (s : State) (tile : Bool) (v : BitVec 8) : Bool :=
  v != 0x80 && v != 0x81 && (v == s.hart.mat.anchor tile || !s.hart.mat.nz tile)

/-- Whether a value is legal for the register, beyond its reserved bits. -/
def State.crLegal (s : State) (n : Nat) (v : Word) : Bool :=
  let h := s.hart
  if 0x008 ≤ n ∧ n ≤ 0x00F then
    (List.range 4).all (fun i => s.tagWritable (BitVec.ofNat 5 (4 * (n - 8) + i)) (v.toNat / 2 ^ (16 * i) % 2 ^ 16))
  else match n with
    | 0x001 => decide (1 ≤ v.toNat) && decide (v.toNat ≤ 4)
    | 0x002 => !h.mat.m && decide (v.toNat ≤ 4096 * h.id.lanes)
    | 0x013 => s.anchorOk false (v.setWidth 8)
    | 0x014 => s.anchorOk true (v.setWidth 8)
    | 0x034 => !v.getLsbD 8 || (decide (v.toNat % 8 ≠ h.id.rank) && decide (v.toNat % 8 < h.id.nh))
    | 0x040 => v.getLsbD 2 == h.priv.reclaim.isSome && v.getLsbD 1 == h.priv.sup
    | 0x041 => s.partitionFree (v.toNat / 2 ^ 12) h.priv.sdlim.toNat
    | 0x042 => decide (v.toNat / 2 ^ 12 ≤ 0x40) && s.partitionFree h.priv.sdbase.toNat (v.toNat / 2 ^ 12)
    | 0x050 => decide (h.eff.depth ≤ 8)
    | 0x05B => decide (v.toNat / 2 ^ 61 ≤ 3)
    | 0x051 => decide ((v &&& ~~~(0x100000000 : Word)).toNat = ({ h.eff with pmask := false } : EffState).htop)
    | 0x052 => decide (0x7F0000000000 ≤ v.toNat) && decide (v.toNat + 0x2000 ≤ 0x7F0000F00000) &&
        h.eff.tokens.toList.all (fun t => t.kind == .free)
    | _ => true

/-! ### Writing -/

/-- A loop register written (R111): LEk at or below the writing instruction closes an active level. -/
def Loop.write (l : Loop) (j : Nat) (v pc : Word) : Loop :=
  match j with
  | 0 => { l with count := v }
  | 1 => { l with start := v }
  | 2 => { l with stop := v, close := l.close || (l.count != 0 && decide (v.toNat ≤ pc.toNat)) }
  | _ => { l with armed := v }

/-- Four entries of VTAGS written (R140). -/
def State.setTagWord (s : State) (k : Nat) (v : Word) : State :=
  (List.range 4).foldl (fun s i =>
    match TagEntry.ofBits (v.toNat / 2 ^ (16 * i) % 2 ^ 16) with
    | some t => s.setTag (BitVec.ofNat 5 (4 * k + i)) t
    | none => s) s

/-- CR(crn) := v, for a legal value. -/
def State.crSet (s : State) (n : Nat) (v : Word) : State :=
  let h := s.hart
  if 0x008 ≤ n ∧ n ≤ 0x00F then s.setTagWord (n - 8) v
  else if 0x020 ≤ n ∧ n ≤ 0x023 then s.setLoop false (h.loop0.write (n - 0x020) v h.pc)
  else if 0x024 ≤ n ∧ n ≤ 0x027 then s.setLoop true (h.loop1.write (n - 0x024) v h.pc)
  else match n with
    | 0x000 => s.setFp { h.fp with fflags := v.setWidth 6 }
    | 0x001 => s.setFp { h.fp with frm := v.setWidth 3 }
    | 0x002 => s.setVec { h.vec with vl := v.toNat }
    | 0x003 => s.setVec { h.vec with vstart := v.toNat }
    | 0x004 => s.setVec { h.vec with mz := v.getLsbD 1, ta := v.getLsbD 0 }
    | 0x005 => s.setFp { h.fp with xcls := v.setWidth 6 }
    | 0x013 => s.setMat { h.mat with anchor0 := v.setWidth 8 }
    | 0x014 => s.setMat { h.mat with anchor1 := v.setWidth 8 }
    | 0x015 => s.setMat { h.mat with aovf := v.setWidth 2 }
    | 0x028 => (s.setLoop true { h.loop1 with close := v.getLsbD 1 }).setLoop false { h.loop0 with close := v.getLsbD 0 }
    | 0x034 => s.setChain { h.chain with en := v.getLsbD 8, src := v.setWidth 3 }
    | 0x035 => s.setChain { h.chain with final := v.getLsbD 63, index := v.setWidth 63 }
    | 0x036 => s.setChain { h.chain with pos := v.setWidth 63 }
    | 0x040 => s.setPriv { h.priv with det := v.getLsbD 0 }
    | 0x041 => s.setPriv { h.priv with sdbase := BitVec.ofNat 6 (v.toNat / 2 ^ 12) }
    | 0x042 => s.setPriv { h.priv with sdlim := BitVec.ofNat 7 (v.toNat / 2 ^ 12) }
    | 0x050 => s.setEff { h.eff with hsp := v }
    | 0x051 => s.setEff { h.eff with pmask := v.getLsbD 32 }
    | 0x052 => s.setEff { h.eff with tokbase := v }
    | 0x053 => s.setEff { h.eff with vcap := v.setWidth 32 }
    | 0x054 => s.setEff { h.eff with pcap := v.setWidth 51 }
    | 0x055 => s.setVec { h.vec with dirty := v.setWidth 32 }
    | 0x056 => s.setVec { h.vec with pdirty := v.setWidth 51 }
    | 0x057 => s.setMat { h.mat with dirty := v.setWidth 2 }
    | 0x05B => s.setEng { h.eng with sfKind := BitVec.ofNat 3 (v.toNat / 2 ^ 61), sfReg := BitVec.ofNat 5 (v.toNat / 2 ^ 56),
                                     sfStrip := v.setWidth 48 }
    | _ => s

/-- One access: the old value to x(rd), and the new value, if any, written when every check passes (R90). -/
def State.crAccess (s : State) (rd : Reg) (n : Nat) (new : Option Word) : Result :=
  match new with
  | none => check (if crSupervisor n then s.needSup else none) s (.done (s.give rd (s.crRead n) 4))
  | some v =>
    check (if crSupervisorWrite n then s.needSup else none) s
      (check (s.legalIf (!crReadOnly n && v &&& ~~~(crBits n) == 0 && s.crLegal n v)) s
        (.done ((s.crSet n v).give rd (s.crRead n) 4)))

def execCrr (rd : Reg) (crn : BitVec 12) (s : State) : Out := (s.crAccess rd crn.toNat none).out
def execCrw (rd : Reg) (crn : BitVec 12) (rs1 : Reg) (s : State) : Out := (s.crAccess rd crn.toNat (some (s.getX rs1))).out

/-- Sets bits; with rs1 = x0 nothing is written (R90). -/
def execCrs (rd : Reg) (crn : BitVec 12) (rs1 : Reg) (s : State) : Out :=
  (s.crAccess rd crn.toNat (if rs1 = 0 then none else some (s.crRead crn.toNat ||| s.getX rs1))).out

/-- Clears bits; with rs1 = x0 nothing is written (R90). -/
def execCrc (rd : Reg) (crn : BitVec 12) (rs1 : Reg) (s : State) : Out :=
  (s.crAccess rd crn.toNat (if rs1 = 0 then none else some (s.crRead crn.toNat &&& ~~~(s.getX rs1)))).out

end Sys2Proof.Machine
end

