-- ==== Sys2Proof/Machine/Sha256.lean ====
section
/-! DEFINITION. SHA-256, which the journal's HASH and the firmware trust use (R347, R355), and CRC-32C (R253). -/

namespace Sys2Proof.Machine

abbrev W32 := BitVec 32

/-- Word `i` of sixteen words written as one number, the first on top. -/
def wordAt (row i : Nat) : W32 := BitVec.ofNat 32 (row >>> (32 * (15 - i)))

/-- The round constants, sixteen to a row: the first 32 fraction bits of the cube roots of the first 64 primes. -/
def shaRows : List Nat :=
  [0x428a2f9871374491b5c0fbcfe9b5dba53956c25b59f111f1923f82a4ab1c5ed5d807aa9812835b01243185be550c7dc372be5d7480deb1fe9bdc06a7c19bf174,
   0xe49b69c1efbe47860fc19dc6240ca1cc2de92c6f4a7484aa5cb0a9dc76f988da983e5152a831c66db00327c8bf597fc7c6e00bf3d5a7914706ca635114292967,
   0x27b70a852e1b21384d2c6dfc53380d13650a7354766a0abb81c2c92e92722c85a2bfe8a1a81a664bc24b8b70c76c51a3d192e819d6990624f40e3585106aa070,
   0x19a4c1161e376c082748774c34b0bcb5391c0cb34ed8aa4a5b9cca4f682e6ff3748f82ee78a5636f84c878148cc7020890befffaa4506cebbef9a3f7c67178f2]

/-- The constant of each round. -/
def shaK : List W32 := shaRows.flatMap (fun row => (List.range 16).map (wordAt row))

/-- The eight words of a digest or of the state between blocks. -/
structure Sha where
  a : W32
  b : W32
  c : W32
  d : W32
  e : W32
  f : W32
  g : W32
  h : W32
  deriving DecidableEq, Repr

/-- The initial state: fraction bits of the square roots of the first eight primes. -/
def Sha.start : Sha :=
  ⟨0x6a09e667, 0xbb67ae85, 0x3c6ef372, 0xa54ff53a, 0x510e527f, 0x9b05688c, 0x1f83d9ab, 0x5be0cd19⟩

/-- One round. -/
def Sha.round (s : Sha) (k w : W32) : Sha :=
  let s1 := s.e.rotateRight 6 ^^^ s.e.rotateRight 11 ^^^ s.e.rotateRight 25
  let ch := (s.e &&& s.f) ^^^ (~~~s.e &&& s.g)
  let t1 := s.h + s1 + ch + k + w
  let s0 := s.a.rotateRight 2 ^^^ s.a.rotateRight 13 ^^^ s.a.rotateRight 22
  let maj := (s.a &&& s.b) ^^^ (s.a &&& s.c) ^^^ (s.b &&& s.c)
  ⟨t1 + (s0 + maj), s.a, s.b, s.c, s.d + t1, s.e, s.f, s.g⟩

/-- The rest of the message schedule from its latest sixteen words. -/
def shaSchedule : Nat → List W32 → List W32
  | 0, _ => []
  | n + 1, w =>
    let x := w.getD 1 0
    let y := w.getD 14 0
    let s0 := x.rotateRight 7 ^^^ x.rotateRight 18 ^^^ x >>> 3
    let s1 := y.rotateRight 17 ^^^ y.rotateRight 19 ^^^ y >>> 10
    let v := w.getD 0 0 + s0 + w.getD 9 0 + s1
    v :: shaSchedule n (w.tail ++ [v])

/-- The rounds over the schedule. -/
def Sha.rounds (s : Sha) : List W32 → List W32 → Sha
  | k :: ks, w :: ws => (s.round k w).rounds ks ws
  | _, _ => s

/-- One block of sixteen words. -/
def Sha.block (s : Sha) (w : List W32) : Sha :=
  let t := s.rounds shaK (w ++ shaSchedule 48 w)
  ⟨s.a + t.a, s.b + t.b, s.c + t.c, s.d + t.d, s.e + t.e, s.f + t.f, s.g + t.g, s.h + t.h⟩

/-- A big-endian word. -/
def beWord (b0 b1 b2 b3 : Byte) : W32 := b0 ++ b1 ++ b2 ++ b3

/-- Whole words of a byte list. -/
def beWords : List Byte → List W32
  | b0 :: b1 :: b2 :: b3 :: rest => beWord b0 b1 b2 b3 :: beWords rest
  | _ => []

/-- The big-endian bytes of a number. -/
def natBe (n v : Nat) : List Byte := (natLe n v).reverse

/-- A message with its padding. -/
def shaPad (m : List Byte) : List Byte :=
  m ++ [0x80] ++ List.replicate ((55 + 64 - m.length % 64) % 64) 0 ++ natBe 8 (8 * m.length)

/-- The blocks of a padded message. -/
def Sha.blocks (s : Sha) : Nat → List W32 → Sha
  | 0, _ => s
  | n + 1, ws => (s.block (ws.take 16)).blocks n (ws.drop 16)

/-- The 32 bytes of a digest. -/
def Sha.bytes (s : Sha) : List Byte :=
  [s.a, s.b, s.c, s.d, s.e, s.f, s.g, s.h].flatMap (fun w => natBe 4 w.toNat)

/-- SHA-256. -/
def sha256 (m : List Byte) : List Byte :=
  let p := shaPad m
  (Sha.start.blocks (p.length / 64) (beWords p)).bytes

/-- The eight steps of one byte. -/
def crcSteps : Nat → W32 → W32
  | 0, c => c
  | n + 1, c => crcSteps n (if c.getLsbD 0 then (c >>> 1) ^^^ 0x82F63B78 else c >>> 1)

/-- CRC-32C of bytes (R253): the Castagnoli polynomial in reflected form. -/
def crc32c (m : List Byte) : W32 :=
  m.foldl (fun c b => crcSteps 8 (c ^^^ b.setWidth 32)) 0xFFFFFFFF ^^^ 0xFFFFFFFF

end Sys2Proof.Machine
end

