-- ==== Sys2Proof/Machine/Journal.lean ====
section
/-! DEFINITION. The command journal of a die (R347, R348), and the signals of a die (R346, R367). -/

namespace Sys2Proof.Machine

/-! ### Words at their home -/

/-- A little-endian dword at a key of `mem`. -/
def State.getDword (s : State) (key : Nat) : Nat := leNat (Sparse.getList 0 s.mem key 8)

def State.setDword (s : State) (key v : Nat) : State := s.setMem (Sparse.setList 0 s.mem key (natLe 8 v))

/-! ### Entries -/

/-- First byte of the entry that command `seq` of a die owns. -/
def journalKey (d seq : Nat) : Nat := journalBase (d % 4) + 64 * (seq % 262144)

/-- FAIL codes (R347). -/
def failReserved : Nat := 0x02
def failAccess : Nat := 0x03
def failShape : Nat := 0x04
def failHalted : Nat := 0x05
def failChunks : Nat := 0x06
def failNoTarget : Nat := 0x07
def failOverrun : Nat := 0x08
def failShutdown : Nat := 0x09
def failSignal : Nat := 0x0A

/-- STATE codes (R347). -/
def Phase.code : Phase → Nat
  | .accepted => 0
  | .started => 1
  | .completed => 2
  | .failed => 3

/-- The module's time goes on; it never goes back (R347, entry 6). -/
def State.passTime (s : State) : State :=
  { s with module := { s.module with nanos := s.module.nanos + Config.nanoseconds s.ticks } }

/-- Nanoseconds since module reset. -/
def State.now (s : State) : Nat := s.module.nanos

/-- The SEQ of an entry while it changes (R347). -/
def seqChanging : Nat := 2 ^ 64 - 1

/-- SEQ is written last, and JSEQ is the highest SEQ written; a loose step leaves SEQ at all ones, and so JSEQ as it was, until the entry is
sealed (R347, R348, entry 40). -/
def State.writeSeq (s : State) (d seq : Nat) : State :=
  let rest := (s.die d).unsealed.filter (fun q => q % 262144 != seq % 262144)
  if s.loose then (s.setDword (journalKey d seq) seqChanging).onDie d (fun x => { x with unsealed := seq :: rest })
  else (s.setDword (journalKey d seq) seq).onDie d (fun x => { x with unsealed := rest, jseq := max x.jseq seq })

/-- The entries of a die that are changing hold their SEQ again (R347). -/
def State.seal (s : State) (d : Nat) : State :=
  (s.die d).unsealed.foldl (fun s seq => s.setDword (journalKey d seq) seq)
    (s.onDie d (fun x => { x with unsealed := [], jseq := x.unsealed.foldl max x.jseq }))

/-- Whether a command still owns its entry, be it changing (R347). -/
def State.ownsEntry (s : State) (d seq : Nat) : Bool :=
  let v := s.getDword (journalKey d seq)
  v == seq || (v == seqChanging && (s.die d).unsealed.contains seq)

/-- A new entry, with its sequence number (R347). -/
def State.journalNew (s : State) (d queue op hash parent : Nat) (phase : Phase) (fail : Nat) : State × Nat :=
  let seq := (s.die d).seq + 1
  let key := journalKey d seq
  let s := s.passTime.onDie d (fun x => { x with seq := seq })
  let done := phase = .completed ∨ phase = .failed
  let s := s.setDword (key + 8)
    (phase.code * 2 ^ 62 + op * 2 ^ 40 + fail * 2 ^ 32 + parent % 2 ^ 16 * 2 ^ 12 + queue % 2 ^ 12)
  let s := s.setDword (key + 16) hash
  let s := s.setDword (key + 24) s.now
  let s := s.setDword (key + 32) 0
  let s := s.setDword (key + 40) (if done then s.now else 0)
  let s := s.setDword (key + 48) 0
  ((s.setDword (key + 56) 0).writeSeq d seq, seq)

/-- A change of state of a command, while it still owns its entry (R347). -/
def State.journalPhase (s : State) (d seq : Nat) (phase : Phase) (fail : Nat) : State :=
  let key := journalKey d seq
  if !s.ownsEntry d seq then s
  else
    let s := s.passTime
    let old := s.getDword (key + 8)
    let kept := if fail = 0 then old / 2 ^ 32 % 2 ^ 8 else fail
    let word := phase.code * 2 ^ 62 + old % 2 ^ 62 / 2 ^ 40 * 2 ^ 40 + kept * 2 ^ 32 + old % 2 ^ 32
    let s := s.setDword (key + 8) word
    (match phase with
      | .accepted => s
      | .started => s.setDword (key + 32) s.now
      | .completed | .failed => s.setDword (key + 40) s.now).writeSeq d seq

/-- The halted hart's EPC and effect id (R347). -/
def State.journalHalt (s : State) (d seq : Nat) (id : BitVec 16) (epc : Word) : State :=
  let key := journalKey d seq
  if !s.ownsEntry d seq then s
  else
    ((s.setDword (key + 48) (epc.toNat % 2 ^ 56)).setDword (key + 56) (s.getDword (key + 56) / 2 ^ 16 * 2 ^ 16 + id.toNat)).writeSeq d seq

/-- The count of granted steals (R345, R347). -/
def State.journalSteals (s : State) (d seq n : Nat) : State :=
  let key := journalKey d seq
  if !s.ownsEntry d seq then s
  else (s.setDword (key + 56) (n % 2 ^ 16 * 2 ^ 48 + s.getDword (key + 56) % 2 ^ 48)).writeSeq d seq

/-- The first eight bytes of a unit's digest (R347). -/
def unitHash (unit : List Byte) : Nat := leNat ((sha256 unit).take 8)

/-! ### Signals -/

/-- Home die of a signal id (R367). -/
def signalDie (id : Nat) : Nat := id / 2 ^ 12 % 4

/-- Where the value of a signal id stands (R350). -/
def signalKey (id : Nat) : Nat := Space.control (id / 2 ^ 12 % 4) (0x41000 + 8 * (id % 2 ^ 12))

/-- The context a signal id is allocated to, if any (R367). -/
def State.signalContext (s : State) (id : Nat) : Option (BitVec 16) :=
  ((s.die (id / 2 ^ 12)).signals.find? (fun p => p.1 == id % 2 ^ 12)).map (fun p => p.2)

/-- Whether an id names a signal of a context (R367). -/
def State.ownsSignal (s : State) (id : Nat) (ctx : BitVec 16) : Bool := decide (id < 2 ^ 14) && s.signalContext id == some ctx

/-- Adds to a signal modulo 2^64 at its home (R340, R346). -/
def State.addSignal (s : State) (id v : Nat) : State := s.setDword (signalKey id) ((s.getDword (signalKey id) + v) % 2 ^ 64)

end Sys2Proof.Machine
end

