-- ==== Sys2Proof/Machine/Lanes.lean ====
section
/-! DEFINITION. Lanes, harts and gangs: granting a length, taking lanes back, chaining, barriers, chunks, ending, tags (R113
to R137), with the releases of what waits. -/

namespace Sys2Proof.Machine

/-! ### Granting a length -/

/-- x(rd) := v on a hart (R87). -/
def Hart.setX (h : Hart) (rd : Reg) (v : Word) : Hart := if rd = 0#5 then h else { h with x := h.x.set rd.toNat v rd.isLt }

/-- The victim shrinks to the lanes requested and keeps the elements that still fit; the rest are lost (R126, R320). -/
def Hart.reclaim (h : Hart) : Hart :=
  match h.priv.reclaim with
  | none => h
  | some n =>
    let v := h.vec
    let keep (m : Mask) : Mask := m % 2 ^ (4096 * n)
    { h with id := { h.id with lanes := n }, priv := { h.priv with reclaim := none },
             vec := { v with regs := Vector.ofFn (fun i => Sparse.below (4096 * n) v.regs[i]), preds := Vector.ofFn (fun i => keep v.preds[i]),
                             pf := keep v.pf, pe := keep v.pe, xmask := keep v.xmask } }

/-- INDEX and FINAL of a rank of a gang; a hart that ended left them behind (R127, R129). -/
def State.published (s : State) (gang rank : Nat) : Nat × Bool :=
  match (s.members gang).find? (fun h => h.id.rank == rank) with
  | some h => (h.chain.index.toNat, h.chain.final)
  | none =>
    match (s.gangs.find? (fun g => g.key == gang)).bind (fun g => g.ended.find? (fun p => p.1 == rank)) with
    | some p => (p.2.toNat, true)
    | none => (0, true)

/-- The length a hart is granted, or none while it must wait for its chain source (R121). -/
def State.lengthFor (s : State) (h : Hart) (r : LengthRequest) : Option Nat :=
  let lim := 4096 * h.priv.reclaim.getD h.id.lanes / r.width
  let own := min r.avl (min lim r.cap)
  if h.chain.en then
    let src := s.published h.id.gangKey h.chain.src.toNat
    let ch := src.1 - h.chain.pos.toNat
    if ch = 0 ∧ !src.2 ∧ 0 < r.avl ∧ 0 < r.cap then none else some (min own ch)
  else some own

/-- A hart takes its grant and retires (R121). -/
def Hart.grant (h : Hart) (rd : Reg) (vl : Nat) : Hart :=
  let h := h.reclaim
  let h := if h.chain.en then { h with chain := { h.chain with pos := h.chain.pos + BitVec.ofNat 63 vl } } else h
  ({ h with vec := { h.vec with vl := vl, vstart := 0 } }.setX rd (BitVec.ofNat 64 vl)).retire 4

/-- The operands of `setvl` (R120, R121). -/
def State.lengthRequest (s : State) (rd rs1 : Reg) (wc : BitVec 3) (cap : Bool) (rs2 : Reg) : LengthRequest :=
  { rank := s.hart.id.rank, rd := rd, width := 2 ^ wc.toNat, avl := (s.getX rs1).toNat,
    cap := if cap then (s.getX rs2).toNat else 2 ^ 64 - 1 }

/-- What a grant acquires: with a chain source, every store that its `hwpub` released (R121). -/
def Hart.chainAcquire (h : Hart) : Hart := if h.chain.en then { h with order := h.order.acquire } else h

/-- A `setvl` that has issued: granted, or waiting on its chain source. -/
def State.tryGrant (s : State) (r : LengthRequest) : State :=
  match s.lengthFor s.hart r with
  | some vl => s.onHart (fun h => h.chainAcquire.grant r.rd vl)
  | none => s.wait (.setvl r)

def execSetvl (rd rs1 : Reg) (wc : BitVec 3) (cap : Bool) (rs2 : Reg) (s : State) : Out :=
  (check (s.legalIf (!s.hart.mat.m)) s (.done (s.tryGrant (s.lengthRequest rd rs1 wc cap rs2)))).out

/-- Whether a hart may take Preempt where it stands: between instructions, at a wait that is withdrawn, between the element accesses
of an indexed instruction or between the rows of `accst` or `accld` (R317, R318). -/
def Hart.preemptible (h : Hart) : Bool :=
  h.eff.ppend && !h.eff.pmask && !h.eff.hold &&
  (match h.cond with
    | .running => true
    | .waiting w =>
      (match w with
        | .setvl _ | .setvlG | .bar | .lpartWt _ _ | .fifo _ _ _ | .qwait _ _ _ | .elements _ _ | .rows | .queue => true
        | _ => false)
    | _ => false)

/-- The least of the lengths of the members, when each has issued, none waits on a chain and none is about to withdraw (R122, R317). -/
def State.gangLength (s : State) (g : Gang) : List Hart → Option Nat
  | [] => some (2 ^ 64 - 1)
  | h :: hs =>
    match (if h.preemptible then none else g.issued.find? (fun r => r.rank == h.id.rank)) with
    | none => none
    | some r =>
      match s.lengthFor h r, s.gangLength g hs with
      | some a, some b => some (min a b)
      | _, _ => none

/-- Every member of a gang whose `setvl.g` has issued receives the common length (R122). -/
def State.completeGrant (s : State) (key : Nat) : State :=
  match s.gangs.find? (fun g => g.key == key) with
  | none => s
  | some g =>
    if g.issued.isEmpty then s
    else
      match s.gangLength g (s.members key) with
      | none => s
      | some vl =>
        let take (h : Hart) : Hart :=
          if h.cond != .vacant && h.id.gangKey == key then
            match g.issued.find? (fun r => r.rank == h.id.rank) with
            | some r => h.grant r.rd vl
            | none => h
          else h
        ({ s with hart := take s.hart, others := s.others.map take }).updateGang key (fun g => { g with issued := [] })

def execSetvlG (rd rs1 : Reg) (wc : BitVec 3) (cap : Bool) (rs2 : Reg) (s : State) : Out :=
  let r := s.lengthRequest rd rs1 wc cap rs2
  let key := s.hart.id.gangKey
  (check (s.legalIf (!s.hart.mat.m)) s
    (.done (((s.wait .setvlG).updateGang key (fun g =>
      { g with issued := r :: g.issued.filter (fun q => q.rank != r.rank) })).completeGrant key))).out

/-- A gang whose members have all issued `setvl.g` receives its length; `hart` names a member (R122). -/
def execGangLengthGrant (s : State) : Out :=
  match s.findHart s.args.hart with
  | some h => .next (s.completeGrant h.id.gangKey)
  | none => .next s

/-- The hart of an event at a wait: the state with its turn, and what it waits at; none when it takes Preempt first (R317), or has an older
instruction in its queues that can still fault, after which it is released in a turn of its own (R136). -/
def State.waiter (s : State) : Option (State × Wait) :=
  match s.focus s.args.hart with
  | none => none
  | some s =>
    match s.hart.cond with
    | .waiting w => if s.hart.preemptible || s.exposed then none else some (s, w)
    | _ => none

/-- A `setvl` that waits on its chain source is granted once the producer has published or ended (R129). -/
def execChainGrant (s : State) : Out :=
  match s.waiter with
  | some (s, .setvl r) => .next (s.noting (s.tryGrant r))
  | _ => .next s

/-! ### Lane partition -/

/-- The hart in a slot of the executing hart's core. -/
def State.hartInSlot (s : State) (slot : Word) : Option Hart :=
  if slot.toNat < 8 then s.findHart (8 * s.hart.id.core + slot.toNat) else none

/-- `lpart.rcl` (R125): the lowest code that applies. -/
def execLpartRcl (rd rs1 rs2 : Reg) (s : State) : Out :=
  let n := (s.getX rs2).toNat
  (check s.needSup s
    (.done (match s.hartInSlot (s.getX rs1) with
      | none => s.give rd 1 4
      | some v =>
        if !(n = 4 ∨ n = 8 ∨ n = 16) ∨ v.id.lanes ≤ n then s.give rd 2 4
        else if v.priv.reclaim.isSome then s.give rd 3 4
        else (s.updateHart v.key (fun h => { h with priv := { h.priv with reclaim := some n } })).give rd 0 4))).out

/-- `lpart.wt` that has issued: it returns once no request for the slot is pending (R125). -/
def State.tryLpartWt (s : State) (rd : Reg) (slot : Word) : State :=
  match s.hartInSlot slot with
  | none => s.give rd 0 4
  | some v => if v.priv.reclaim.isSome then s.wait (.lpartWt rd slot) else s.give rd (BitVec.ofNat 64 v.id.lanes) 4

def execLpartWt (rd rs1 : Reg) (s : State) : Out :=
  (check s.needSup s (.done (s.tryLpartWt rd (s.getX rs1)))).out

/-- A waiting `lpart.wt` returns once the request has completed (R125). -/
def execLpartWtRelease (s : State) : Out :=
  match s.waiter with
  | some (s, .lpartWt rd slot) => .next (s.tryLpartWt rd slot)
  | _ => .next s

/-! ### Chaining, barriers -/

/-- `hwpub`: every earlier store is performed at gang scope, then INDEX rises (R128). -/
def execHwpub (rs1 : Reg) (s : State) : Out :=
  let v := (s.getX rs1).toNat % 2 ^ 63
  .next (((s.landWhere (fun _ => true)).setChain { s.hart.chain with index := BitVec.ofNat 63 (max s.hart.chain.index.toNat v) }).retire 4)

/-- When every live hart of a gang has arrived and none is about to withdraw, GEN increments, ARRIVED clears and every waiting `bar`
retires (R130, R317). -/
def State.completeBarrier (s : State) (key : Nat) : State :=
  match s.gangs.find? (fun g => g.key == key) with
  | none => s
  | some g =>
    let ms := s.members key
    if ms.isEmpty || g.arrived = 0 || !ms.all (fun h => g.arrived.getLsbD h.id.rank && !h.preemptible) then s
    else
      let pass (h : Hart) : Hart :=
        if h.cond == .waiting .bar && h.id.gangKey == key then ({ h with order := h.order.acquire } : Hart).retire 4 else h
      ({ s with hart := pass s.hart, others := s.others.map pass }).updateGang key
        (fun g => { g with gen := g.gen + 1, arrived := 0 })

/-- `bar` (R130): its earlier accesses are performed, it arrives, and passes at once when it is the last. -/
def execBar (s : State) : Out :=
  let key := s.hart.id.gangKey
  .next (((s.settle.wait .bar).updateGang key (fun g => { g with arrived := g.arrived ||| BitVec.ofNat 8 (2 ^ s.hart.id.rank) })).completeBarrier
    key)

/-- The barrier of the gang of `hart` completes when it can (R130). -/
def execBarrierComplete (s : State) : Out :=
  match s.findHart s.args.hart with
  | some h => .next (s.completeBarrier h.id.gangKey)
  | none => .next s

/-! ### Chunks -/

/-- The size of the next chunk (R22). -/
def Card.chunkSize (c : Card) (left : Nat) : Nat :=
  let n := max c.minchunk ((left + 2 * c.gangs - 1) / (2 * c.gangs))
  let n := if c.det then (n + c.grain - 1) / c.grain * c.grain else n
  min n left

/-- Deals from the undealt range of a share, which then reports what is left (R22, R345). -/
def Share.deal (c : Card) (h : Share) : Share × (Nat × Nat) :=
  let n := c.chunkSize (h.hi - h.lo)
  ({ h with lo := h.lo + n, reported := h.hi - h.lo - n }, (h.lo, h.lo + n))

/-- What a holder of a range gives up: the split point, when it does not refuse (R345). -/
def Card.stealPoint (c : Card) (lo hi : Nat) : Option Nat :=
  let m := lo + (hi - lo + 1) / 2
  let m := if c.det then (m + c.grain - 1) / c.grain * c.grain else m
  if hi ≤ m ∨ hi - lo ≤ max c.minchunk 1 then none else some m

/-- The die whose last report is largest among those not yet asked, the lowest on ties (R345). -/
def largestReport (hs : List Share) : Option Share :=
  hs.foldl (fun best h => match best with
    | none => some h
    | some b => if b.reported < h.reported then some h else best) none

/-- A share with an empty range asks the others in order of their last reports; when every die refuses it deals no more (R345). -/
def Job.steal (j : Job) (die : Nat) : Nat → List Share → Job
  | 0, _ => { j with shares := j.shares.map (fun h => if h.die == die then { h with stopped := true } else h) }
  | n + 1, ask =>
    match largestReport ask with
    | none => { j with shares := j.shares.map (fun h => if h.die == die then { h with stopped := true } else h) }
    | some v =>
      match j.card.stealPoint v.lo v.hi with
      | some m =>
        { j with steals := j.steals + 1,
                 shares := j.shares.map (fun h =>
                   if h.die == v.die then { h with hi := m } else if h.die == die then { h with lo := m, hi := v.hi } else h) }
      | none => j.steal die n (ask.filter (fun h => h.die != v.die))

/-- The share of a job on a die takes a range when its own is empty (R24, R345), from the dies that it reaches (R360). -/
def Job.refill (j : Job) (die : Nat) (up : Nat → Bool) : Job :=
  match j.shares.find? (fun h => h.die == die) with
  | none => j
  | some h =>
    if h.lo < h.hi || h.stopped || !j.card.spread then j else j.steal die 4 (j.shares.filter (fun o => o.die != die && up o.die))

/-- The next chunk of a job on a die; the empty range at T once all is dealt (R22, R131). -/
def Job.deal (j : Job) (die : Nat) (up : Nat → Bool) : Job × (Nat × Nat) :=
  let j := j.refill die up
  match j.shares.find? (fun h => h.die == die) with
  | none => (j, (j.card.trips, j.card.trips))
  | some h =>
    if h.lo < h.hi then
      let r := h.deal j.card
      ({ j with shares := j.shares.map (fun o => if o.die == die then r.1 else o) }, r.2)
    else (j, (j.card.trips, j.card.trips))

/-- Deals for a job of the state; steals are counted in the journal (R345). -/
def State.dealChunk (s : State) (job die : Nat) : State × (Nat × Nat) :=
  match s.findJob job with
  | none => (s, (0, 0))
  | some j =>
    let r := j.deal die (s.linkUp die)
    let s := s.updateJob job (fun _ => r.1)
    (if r.1.steals = j.steals then s else s.journalSteals j.die j.seq r.1.steals, r.2)

/-- The k-th chunk of the hart's gang after its first, dealt when the first hart asks for it (R131). -/
def State.nextChunk (s : State) : State × (Nat × Nat) :=
  let k := s.hart.eng.jnexts
  match s.gang with
  | none => (s, (0, 0))
  | some g =>
    match g.chunks[k]? with
    | some c => (s, c)
    | none =>
      let r := s.dealChunk g.job s.dieOf
      (r.1.updateGang g.key (fun g => { g with chunks := g.chunks ++ [r.2] }), r.2)

def execJnext (s : State) : Out :=
  let r := s.nextChunk
  let s := r.1.setEng { r.1.hart.eng with jnexts := r.1.hart.eng.jnexts + 1 }
  .next (((s.setX 4 (BitVec.ofNat 64 r.2.1)).setX 5 (BitVec.ofNat 64 r.2.2)).retire 4)

/-- No architectural effect (R132). -/
def execYield (s : State) : Out := .next (s.retire 4)
def execCYield (s : State) : Out := .next (s.retire 2)

/-! ### Ending -/

/-- Whether a transfer or restore that a hart started is unfinished (R133). -/
def State.hasTransfers (s : State) (key : Nat) : Bool :=
  s.transfers.any (fun t => match t.owner with
    | .hart k _ => k == key
    | .copy _ _ => false) ||
  s.streams.any (fun t => match t.restore with
    | some r => r.hart == key && !r.chunks.isEmpty
    | none => false)

/-- A token record is freed: bits 2:1 of its STATE become zero (R308), but in a retired block, where a write is lost (entry 27); what its
token withdrew from the hart's queues goes. -/
def State.freeRecord (s : State) (i : Nat) : State :=
  let key := s.recordKey i 88
  let s := s.clearWay key 1
  let s := if s.retiredAt key then s else s.setMem (Sparse.set 0 s.mem key (Sparse.get 0 s.mem key &&& 0xF9))
  let s := { s with waits := s.waits.filter (fun p => !(p.hart == s.hart.key && p.token == some i)) }
  s.setEff { s.hart.eff with tokens := s.hart.eff.tokens.setIfInBounds i { s.hart.eff.tokens[i]?.getD .unused with kind := .free } }

/-- Frees the live records that satisfy a condition. -/
def State.freeRecords (s : State) (p : Token → Bool) : State :=
  (List.range 64).foldl (fun s i =>
    match s.hart.eff.tokens[i]? with
    | some t => if t.kind != .free && p t then s.freeRecord i else s
    | none => s) s

/-- One binding of a stream ends (R290). -/
def State.unbindStream (s : State) (id : Nat) : State :=
  { s with streams := s.streams.map (fun t => if t.id == id then { t with bound := t.bound - 1 } else t) }

/-- The front end's request found no target (R318, R338, R347); the entry's HASH is not stated and is a free value. It takes the next SEQ, with STATE
failed, of which the rule says neither: DESIGN CHOICE, entry 28. The front end of a die whose link to that of the job is down writes none (R11,
entry 34). -/
def State.noTarget (s : State) (job : Nat) : State :=
  match s.findJob job with
  | none => s
  | some j =>
    if s.linkUp s.dieOf j.die then (s.journalNew j.die j.queue 0x01 (Config.freeWord s.ticks 0).toNat 0 .failed failNoTarget).1 else s

/-- A die's outstanding request is over when its hart has parked, ended or declined (R337). -/
def State.requestOver (s : State) (key : Nat) : State :=
  s.onDie (key / 64) (fun d => match d.request with
    | some (h, _) => if h == key then { d with request := none } else d
    | none => d)

/-- No restore reports into a hart's predicates any more. -/
def State.unreport (s : State) (key : Nat) : State :=
  { s with streams := s.streams.map (fun t =>
      { t with restore := t.restore.map (fun r => { r with reports := r.reports.filter (fun p => p.1 != key) }) }) }

/-- The hart ends (R133): its stores are performed, its records, frames, bindings and stream go, its lanes and slot are free, and its gang
goes on without it. -/
def State.finish (s : State) : State :=
  let s := s.settle
  let key := s.hart.key
  let id := s.hart.id
  let index := s.hart.chain.index
  let s := if s.hart.eff.ppend && s.hart.eff.requester == 0xFF#8 then s.noTarget id.job else s
  let s := s.requestOver key
  let s := s.freeRecords (fun _ => true)
  let s := match s.hart.eng.stream with
    | some t => s.unbindStream t
    | none => s
  let s := { (s.unreport key).dropPends key with hart := .vacant }
  let s := s.updateGang id.gangKey (fun g =>
    { g with ended := (id.rank, index) :: g.ended, issued := g.issued.filter (fun r => r.rank != id.rank),
             arrived := g.arrived &&& ~~~(BitVec.ofNat 8 (2 ^ id.rank)) })
  if (s.members id.gangKey).isEmpty then { s with gangs := s.gangs.filter (fun g => g.key != id.gangKey) }
  else (s.completeBarrier id.gangKey).completeGrant id.gangKey

/-- `end`: it waits for the instructions that wait in their queues and the transfers the hart started (R133). -/
def State.endOrWait (s : State) : State :=
  if !s.pends.isEmpty || s.hasTransfers s.hart.key then s.wait .finish else s.finish

def execEndHart (s : State) : Out := .next s.endOrWait
def execCEnd (s : State) : Out := .next s.endOrWait

/-! ### Tags -/

/-- Checks of `vcfg` and `vretag` (R134): the register is not bound, its sidecar is e8m0, both are present. R117's check of VL against MVL is
not made: these two do not read VL (R135), and the spec does not say; DESIGN CHOICE, entry 16. -/
def State.tagChecks (s : State) (vd : Reg) (side : Bool) (vsc : Reg) : Option Trap :=
  if s.writable [vd] && (!side || (s.tagOf vsc).tag == .e8m0) then s.absent (if side then [vd, vsc] else [vd]) [] []
  else some s.illegal

/-- The entry named by the fields; the tag code is a register tag (R134). -/
def entryOf (tag : BitVec 5) (side b : Bool) (vsc : Reg) : TagEntry := ⟨(Tag.ofCode tag).getD .nat8, side, b, vsc⟩

/-- Sets the tag and zeroes the register, which is then present and dirty (R135). VSTART stays as it was, and no check of R117
is made, since it does not read VL (R135): DESIGN CHOICE, entries 41 and 16. -/
def execVcfg (vd : Reg) (tag : BitVec 5) (side b : Bool) (vsc : Reg) (s : State) : Out :=
  (check (s.tagChecks vd side vsc) s
    (.done ((((s.setTag vd (entryOf tag side b vsc)).setImage vd []).markDirty vd).retire 4))).out

/-- Sets the tag and keeps the bytes and the dirty bit (R135); VSTART stays as it was (entry 41). -/
def execVretag (vd : Reg) (tag : BitVec 5) (side b : Bool) (vsc : Reg) (s : State) : Out :=
  (check (s.tagChecks vd side vsc) s (.done ((s.setTag vd (entryOf tag side b vsc)).retire 4))).out

end Sys2Proof.Machine
end

