-- ==== Sys2Proof/Machine/Engine.lean ====
section
/-! DEFINITION. The stream engine: channels, copies, compressed blocks, bindings and token FIFOs (R244 to R267). -/

namespace Sys2Proof.Machine

/-! ### Channels (R244) -/

/-- Channels of a core in use: unfinished transfers and bindings. -/
def State.channelsUsed (s : State) (core : Nat) : Nat :=
  (s.transfers.filter (fun t => t.core == core && !t.pending.isEmpty)).length +
    ((s.harts.filter (fun h => h.id.core == core)).map (fun h => h.eng.bindings.length)).foldl (· + ·) 0

/-- OP of a command's unit (R339). -/
def Command.op (c : Command) : Nat := (c.unit.head?.getD 0).toNat

/-- Whether a COPY of a die waits for a channel (R340). -/
def State.copyWaits (s : State) (die : Nat) : Bool :=
  let d := s.die die
  d.commands.any (fun c => c.phase == .accepted && c.op == 2 && d.blocked.contains c.queue)

/-! ### Words of the vector and the ladder queue -/

/-- Whether a word is an instruction of the vector queue that an earlier one can hold: tags, matrix and vector forms, `sunbind` and `srearm`,
spills and fills. `sbind` is dispatched first, and waits by itself (R261). -/
def inVectorQueue (w : IWord) : Bool :=
  let m := (fMajor w).toNat
  m == 0x16 || (decide (0x18 ≤ m) && decide (m ≤ 0x2C)) || (m == 0x2E && w.extractLsb' 24 3 != 0#3) || m == 0x32 || m == 0x34 || m == 0x35

/-- The ladder word of an instruction (R37, R277). -/
def ladderWordOf (w u : IWord) : Option IWord :=
  if fMajor w = 0x30#6 then some w else if fMajor w = 0x36#6 ∧ fMajor u = 0x30#6 then some u else none

/-- Whether a ladder word clears a predicate in the vector queue: `lrewind`, `lfork` and `lopen` (R283). -/
def clearsMask (w : IWord) : Bool := w.extractLsb' 16 5 == 0x02#5 || w.extractLsb' 16 5 == 0x04#5 || w.extractLsb' 16 5 == 0x08#5

/-- Whether a word is `sbind`, `scopy`. -/
def isSbind (w : IWord) : Bool := fMajor w == 0x2E#6 && w.extractLsb' 24 3 == 0#3
def isScopy (w : IWord) : Bool := fMajor w == 0x2D#6

/-- Whether an instruction holds, while it waits, the later ones of a queue: 1 vector, 2 stream, 3 ladder. A `scopy` whose bits are not
cleared holds the vector queue too (R248), and so does a ladder instruction that clears a predicate (R283). -/
def Aside.holds (a : Aside) (q : BitVec 2) : Bool :=
  match a with
  | .fifo _ r _ => r == q
  | .copy _ _ _ _ _ _ cleared => q == 2#2 || (!cleared && q == 1#2)
  | .bind _ _ _ => q == 1#2
  | .later w u _ => (match ladderWordOf w u with
    | some l => q == 3#2 || (q == 1#2 && clearsMask l)
    | none => (q == 1#2 && (inVectorQueue w || isSbind w || isScopy w)) || (q == 2#2 && isScopy w))

/-- Whether an instruction that waits in its queue behind others waits for a channel: none of them holds its queue, and none can still fault
(R136, R244). -/
def Aside.wantsChannel (ahead : List Aside) : Aside → Bool
  | .copy _ _ _ _ _ _ cleared => cleared && !ahead.any (fun b => b.holds 2 || b.canFault)
  | .bind _ _ _ => !ahead.any (fun b => b.holds 1 || b.canFault)
  | _ => false

/-- Whether one of the instructions that wait in the queues of a hart waits for a channel. -/
def anyWantsChannel (ahead : List Aside) : List Aside → Bool
  | [] => false
  | a :: rest => a.wantsChannel ahead || anyWantsChannel (ahead ++ [a]) rest

/-- Whether a slot of a core waits for a channel; slot 8 stands for the COPY commands of its die. A hart that has halted issues nothing more. -/
def State.wantsChannel (s : State) (core slot : Nat) : Bool :=
  if slot = 8 then s.copyWaits (core / 8)
  else
    match s.findHart (8 * core + slot) with
    | none => false
    | some h => match h.cond with
      | .halted _ _ => false
      | _ => anyWantsChannel [] ((s.waits.filter (fun p => p.active (8 * core + slot))).map (fun p => p.what))

/-- The slot a core granted a channel last; 8 stands for the COPY commands. -/
def State.lastGrant (s : State) (core : Nat) : Nat := (s.die (core / 8)).grants[core % 8]'(Nat.mod_lt _ (by decide))

/-- Whether the next channel of a core goes to a slot: one is free, and none that waits comes before it in the round (R137, R244). -/
def State.channelFor (s : State) (core slot : Nat) : Bool :=
  let last := s.lastGrant core
  let turn := ((List.range 9).map (fun i => (last + 1 + i) % 9)).find? (fun k => k == slot || s.wantsChannel core k)
  decide (s.channelsUsed core < 16) && turn == some slot

/-- A channel granted. -/
def State.grantChannel (s : State) (core slot : Nat) : State :=
  s.onDie (core / 8) (fun d => { d with grants := d.grants.set (core % 8) slot (Nat.mod_lt _ (by decide)) })

/-! ### Accesses of a transfer (R249, R251) -/

/-- The view of a transfer's accesses. -/
def Transfer.view (t : Transfer) : View :=
  { core := t.core, die := t.core / 8, ctx := t.ctx, root := t.root, sup := t.sup, window := none, engine := true }

/-- Code of a bad source access (R251). -/
def sourceCode (e : BitVec 16) : Nat := if e = effUncorrectable then 5 else 3

/-- Code of a bad destination access (R251). -/
def destCode (e : BitVec 16) : Nat := if e = effUncorrectable then 5 else 4

/-- The lower of two codes, zero for none. -/
def lowerCode (a b : Nat) : Nat := if a = 0 then b else if b = 0 then a else min a b

/-- The place of a byte of a remote window, beyond those of this module. -/
def remotePlace (w o : Nat) : Nat := 2 ^ 63 + w * 2 ^ 39 + o

/-- A source byte, its aligned word of 8 bytes as a whole (R229): as the transfer has read it ahead; else as it stands, or as it stood before a
chunk of the same transfer overwrote it (R249); what a remote module returns is free (entry 14). -/
def State.sourceByte (s : State) (t : Transfer) (key : Nat) : Byte :=
  let w := key / 8 * 8
  match t.read.find? (fun p => p.1 == w) with
  | some p => (p.2[key - w]?).getD 0
  | none =>
    if 2 ^ 63 ≤ key then Config.remoteByte s.ticks (key - 2 ^ 63)
    else
      match (t.old.filter (fun p => p.1 == w))[Config.olderIndex s.ticks w]? with
      | some p => (p.2[key - w]?).getD 0
      | none => s.byteAt (t.core / 8) key

/-- Whether a chunk has begun: some of it is written ahead of its end, and so its window entries have been read (R352). -/
def Transfer.begun (t : Transfer) (c : Nat) : Bool := t.wrote.any (fun d => d.1 == c)

/-- The bytes of one region, or its code; a window entry that cannot be used makes the chunk bad, unless the chunk has begun with it (R352). -/
def State.sourcePiece (s : State) (t : Transfer) (p : Word × Nat) (begun : Bool := false) : Except Nat (List Byte) :=
  match s.resolve t.view .load p.1 with
  | .error e => .error (sourceCode e)
  | .ok (.local key) => .ok ((List.range p.2).map (fun i => s.sourceByte t (key + i)))
  | .ok (.remote w o) =>
    if begun || s.windowOk t.view.die w then .ok ((List.range p.2).map (fun i => s.sourceByte t (remotePlace w o + i))) else .error 3

/-- All regions joined, or the lowest code. -/
def joinPieces : List (Except Nat (List Byte)) → Except Nat (List Byte)
  | [] => .ok []
  | .ok bs :: rest => match joinPieces rest with
    | .ok cs => .ok (bs ++ cs)
    | .error e => .error e
  | .error e :: rest => match joinPieces rest with
    | .ok _ => .error e
    | .error d => .error (min e d)

/-- `n` source bytes. -/
def State.sourceBytes (s : State) (t : Transfer) (a : Word) (n : Nat) (begun : Bool := false) : Except Nat (List Byte) :=
  joinPieces ((piecesOf a n).map (fun p => s.sourcePiece t p begun))

/-- The aligned words of 8 bytes that `n` source bytes share, as the transfer finds them. -/
def State.wordsOf (s : State) (t : Transfer) (a : Word) (n : Nat) : List (Nat × List Byte) :=
  (piecesOf a n).flatMap (fun p =>
    let words (k : Nat) : List (Nat × List Byte) := (List.range ((k % 8 + p.2 + 7) / 8)).map (fun i =>
      (k / 8 * 8 + 8 * i, (List.range 8).map (fun j => s.sourceByte t (k / 8 * 8 + 8 * i + j))))
    match s.resolve t.view .load p.1 with
    | .ok (.local key) => words key
    | .ok (.remote w o) => words (remotePlace w o)
    | .error _ => [])

/-- The pages that accesses of a transfer touched are kept (R175). -/
def State.notePieces (s : State) (v : View) (a : Word) (n : Nat) : State := (piecesOf a n).foldl (fun s p => s.noteUse v p.1) s

/-! ### The compressed block format (R252 to R255) -/

/-- One byte plane: `n` bytes from the bit map, each the next stored byte where its bit is one; none when a stored byte is missing or
zero. -/
def planeBytes (bm : List Byte) : Nat → Nat → List Byte → Option (List Byte × List Byte)
  | 0, _, pay => some ([], pay)
  | n + 1, e, pay =>
    if ((bm[e / 8]?).getD 0).getLsbD (e % 8) then
      match pay with
      | [] => none
      | b :: rest => if b = 0 then none else (planeBytes bm n (e + 1) rest).map (fun r => (b :: r.1, r.2))
    else (planeBytes bm n (e + 1) pay).map (fun r => (0 :: r.1, r.2))

/-- The byte planes of a PLANE block, with the payload left over. -/
def planesOf (n : Nat) : Nat → List Byte → Option (List (List Byte) × List Byte)
  | 0, pay => some ([], pay)
  | w + 1, pay =>
    let k := (n + 7) / 8
    if pay.length < k then none
    else
      match planeBytes (pay.take k) n 0 (pay.drop k) with
      | none => none
      | some (p, rest) => (planesOf n w rest).map (fun r => (p :: r.1, r.2))

/-- Elements from byte planes: byte j of each element from plane j. -/
def interleave : Nat → List (List Byte) → List Byte
  | 0, _ => []
  | n + 1, ps => ps.map (fun p => p.head?.getD 0) ++ interleave n (ps.map List.tail)

/-- `n` bytes repeating a non-empty list. -/
def repeatBytes (src : List Byte) (n : Nat) : List Byte := (List.range n).map (fun i => (src[i % src.length]?).getD 0)

/-- The rules of R254 that the block header alone decides. -/
def blockHeaderOk (mode param plen size : Nat) (dict : List Byte) : Bool :=
  match mode with
  | 0 => param == 0 && plen == size
  | 1 => param == 0 && plen == 0
  | 2 => if param = 0 then plen == 0 && !dict.isEmpty else decide (param ≤ 8) && plen == param
  | 3 => (param == 1 || param == 2 || param == 4 || param == 8) && size % param == 0
  | _ => false

/-- The decoded bytes of a block and the dictionary after it; none when its payload breaks its mode's rule (R254). -/
def decodeBlock (mode param size : Nat) (pay dict : List Byte) : Option (List Byte × List Byte) :=
  match mode with
  | 0 => some (pay, dict)
  | 1 => some (List.replicate size 0, dict)
  | 2 => if param = 0 then some (repeatBytes dict size, dict) else some (repeatBytes pay size, pay)
  | _ =>
    match planesOf (size / param) param pay with
    | some (ps, []) => some (interleave (size / param) ps, dict)
    | _ => none

/-- The records of a chunk in order (R253, R255). `rd` reads source bytes at an offset of the chunk; a failure answers the lowest code
met: 1 after a CRC failure. A source access that faults ends the check, as a malformation does: the spec does not say that a later record is
still checked; DESIGN CHOICE, entry 18. -/
def cbfRecords (rd : Nat → Nat → Except Nat (List Byte)) (clen dlen : Nat) :
    Nat → Nat → Nat → List Byte → Bool → Bool → Except Nat (List Byte)
  | 0, _, _, _, _, crcBad => .error (if crcBad then 1 else 2)
  | fuel + 1, pos, b, dict, mark, crcBad =>
    let bad (code : Nat) : Except Nat (List Byte) := .error (if crcBad then 1 else code)
    let blocks := (dlen + 4095) / 4096
    if pos = clen then (if mark || b ≠ blocks then bad 2 else if crcBad then .error 1 else .ok [])
    else if b ≥ blocks then bad 2
    else
      match rd pos 16 with
      | .error e => bad e
      | .ok hdr =>
        let w0 := leNat (hdr.take 4)
        let plen := leNat ((hdr.drop 4).take 4)
        let crc := leNat ((hdr.drop 8).take 4)
        let mode := w0 % 16
        let param := w0 / 2 ^ 8 % 2 ^ 8
        let dm1 := w0 / 2 ^ 16 % 2 ^ 12
        let reserved := w0 / 16 % 16 ≠ 0 || w0 / 2 ^ 28 ≠ 0 || leNat (hdr.drop 12) ≠ 0
        if reserved then bad 2
        else if mode = 15 then
          if mark || crc ≠ 0 || dm1 ≠ 0 || param ≠ 0 || plen ≠ 4096 * b then bad 2
          else cbfRecords rd clen dlen fuel (pos + 16) b [] true crcBad
        else
          let size := min 4096 (dlen - 4096 * b)
          let pad := (16 - plen % 16) % 16
          let next := pos + 16 + plen + pad
          if dm1 + 1 ≠ size || clen < next || !blockHeaderOk mode param plen size dict then bad 2
          else
            match rd (pos + 16) plen with
            | .error e => bad e
            | .ok pay =>
              let crcBad := crcBad || (crc32c pay).toNat ≠ crc
              match rd (pos + 16 + plen) pad with
              | .error e => .error (if crcBad then 1 else e)
              | .ok fill =>
                if fill.any (fun x => x != 0) then .error (if crcBad then 1 else 2)
                else
                  match decodeBlock mode param size pay dict with
                  | none => .error (if crcBad then 1 else 2)
                  | some (out, dict) =>
                    match cbfRecords rd clen dlen fuel next (b + 1) dict false crcBad with
                    | .error e => .error e
                    | .ok rest => .ok (out ++ rest)

/-- Decoded length of CBF chunk `c` (R250). -/
def Transfer.decoded (t : Transfer) (c : Nat) : Nat := min 65536 (t.len - 65536 * c)

/-- CLEN of CBF chunk `c` at an address, or the code that its header cannot be used for (R251, R252). -/
def State.cbfHeader (s : State) (t : Transfer) (a : Word) (c : Nat) (begun : Bool := false) : Except Nat Nat :=
  if t.noHeader.contains c then .error 6
  else
    match s.sourceBytes t a 64 begun with
    | .error e => .error e
    | .ok hdr =>
      let clen := leNat ((hdr.drop 4).take 4)
      if leNat (hdr.take 4) ≠ 0x31464243 || clen < 80 || clen % 16 ≠ 0 || leNat ((hdr.drop 8).take 4) ≠ t.decoded c ||
          leNat (hdr.drop 12) ≠ 0 then .error 2
      else .ok clen

/-- Where CBF chunk `c` begins (R250). -/
def State.cbfStart (s : State) (t : Transfer) (c : Nat) (begun : Bool := false) : Except Nat Word :=
  match c with
  | 0 => .ok t.src
  | c + 1 =>
    match s.cbfStart t c begun with
    | .error e => .error e
    | .ok a =>
      match s.cbfHeader t a c begun with
      | .error e => .error e
      | .ok clen => .ok (a + BitVec.ofNat 64 clen)

/-- The decoded bytes of CBF chunk `c`, or its code. -/
def State.expandChunk (s : State) (t : Transfer) (c : Nat) (begun : Bool := false) : Except Nat (List Byte) :=
  match s.cbfStart t c begun with
  | .error e => .error e
  | .ok a =>
    match s.cbfHeader t a c begun with
    | .error e => .error e
    | .ok clen =>
      cbfRecords (fun off n => s.sourceBytes t (a + BitVec.ofNat 64 off) n begun) clen (t.decoded c) (clen / 16 + 1) 64 0 [] false false

/-! ### Chunks (R249 to R251) -/

/-- Bytes of chunk `c`. -/
def Transfer.chunkLen (t : Transfer) (c : Nat) : Nat := min t.cs (t.len - c * t.cs)

/-- What chunk `c` brings: its bytes, or the code of its source. -/
def State.chunkData (s : State) (t : Transfer) (c : Nat) (begun : Bool := false) : Except Nat (List Byte) :=
  if t.expand then s.expandChunk t c begun else s.sourceBytes t (t.src + BitVec.ofNat 64 (c * t.cs)) (t.chunkLen c) begun

/-- The source bytes of a chunk, where it can be found: its first and their number, the header alone where that does not say. -/
def State.chunkSource (s : State) (t : Transfer) (c : Nat) : Option (Word × Nat) :=
  if t.expand then
    match s.cbfStart t c with
    | .error _ => none
    | .ok a => some (a, (s.cbfHeader t a c).toOption.getD 64)
  else some (t.src + BitVec.ofNat 64 (c * t.cs), t.chunkLen c)

/-- The words of the source by which chunk `c` is found and decoded: its own, and those of the headers before it (R250). -/
def State.chunkWords (s : State) (t : Transfer) (c : Nat) : List (Nat × List Byte) :=
  (if t.expand then (List.range c).flatMap (fun k => match s.cbfStart t k with
    | .ok a => s.wordsOf t a 64
    | .error _ => []) else []) ++
  (match s.chunkSource t c with
    | some (a, n) => s.wordsOf t a n
    | none => [])

/-- The destination's code of a chunk; zero when every region can be written (R251, R352). -/
def State.chunkDest (s : State) (t : Transfer) (a : Word) (n : Nat) (begun : Bool := false) : Nat :=
  (piecesOf a n).foldl (fun code p => match s.resolve t.view .store p.1 with
    | .error e => lowerCode code (destCode e)
    | .ok (.remote w _) => if begun || s.windowOk t.view.die w then code else lowerCode code 4
    | .ok (.local _) => code) 0

/-- The blocks of memory that a transfer reads, by 64 KiB. -/
def State.sourceBlocks (s : State) (t : Transfer) : List Nat :=
  (piecesOf t.src t.len).filterMap (fun p => match s.resolve t.view .load p.1 with
    | .ok (.local key) => some (key / 2 ^ 16)
    | _ => none)

/-- The aligned words of 8 bytes that `n` bytes share, as a transfer finds them. -/
def State.wordsAt (s : State) (t : Transfer) (key n : Nat) : List (Nat × List Byte) :=
  (List.range ((key % 8 + n + 7) / 8)).map (fun i => (key / 8 * 8 + 8 * i, s.bytesAt (t.core / 8) (key / 8 * 8 + 8 * i) 8))

/-- A transfer in flight changed. -/
def State.updateTransfer (s : State) (key : Nat) (f : Transfer → Transfer) : State :=
  { s with transfers := s.transfers.map (fun u => if u.key == key then f u else u) }

/-- Bytes that a transfer writes at one place; the words they overwrite are kept where the transfer may still read them (R249). -/
def State.engineWrite (s : State) (t : Transfer) (overlap : Bool) (key : Nat) (bs : List Byte) : State :=
  let was := s.wordsAt t key bs.length
  let s1 := s.writeFrom (t.core / 8) key bs
  if overlap then s1.updateTransfer t.key (fun u => { u with old := was ++ u.old }) else s1

/-- The bytes of a chunk with code 0x04, or treated so: each as before or as the transfer would have written it (R251). -/
def State.mixed (s : State) (key : Nat) (new now : List Byte) : List Byte :=
  (new.zip now).zipIdx.map (fun (q : (Byte × Byte) × Nat) => if Config.badChunkByteWritten s.ticks (key + q.2) then q.1.1 else q.1.2)

/-- A chunk's bytes at its destination; regions that cannot be written are left out. `partly` leaves each byte as before or as
the transfer would have written it (R251). -/
def State.putChunk (s : State) (t : Transfer) (partly overlap : Bool) : List (Word × Nat) → List Byte → State
  | [], _ => s
  | p :: ps, bs =>
    let s1 := match s.resolve t.view .store p.1 with
      | .ok (.local key) =>
        let new := bs.take p.2
        s.engineWrite t overlap key (if partly then s.mixed key new (s.bytesAt (t.core / 8) key p.2) else new)
      | _ => s
    s1.putChunk t partly overlap ps (bs.drop p.2)

/-- The count word of a bad-chunk list, at its place, when the transfer can reach it (R251). -/
def State.listWord (s : State) (t : Transfer) : Option (Nat × Nat) :=
  if t.list = 0 then none
  else
    match s.resolve t.view .atomic t.list with
    | .ok (.local key) => some (key, leNat (s.bytesAt (t.core / 8) key 8))
    | _ => none

/-- COUNT := 0 and OVF := 0, before the first chunk access (R251). -/
def State.listStart (s : State) (t : Transfer) : State :=
  match s.listWord t with
  | none => s
  | some (key, w) => s.writeFrom (t.core / 8) key (natLe 8 (w % 2 ^ 63 / 2 ^ 32 * 2 ^ 32))

/-- A bad chunk counted and entered (R251). -/
def State.listAdd (s : State) (t : Transfer) (code c : Nat) : State :=
  match s.listWord t with
  | none => s
  | some (key, w) =>
    let k := w % 2 ^ 32
    let cap := w / 2 ^ 32 % 2 ^ 16
    let counted := w / 2 ^ 32 * 2 ^ 32 + (k + 1) % 2 ^ 32
    if k < cap then
      let s1 := s.writeFrom (t.core / 8) key (natLe 8 counted)
      match s.resolve t.view .store (t.list + BitVec.ofNat 64 (8 + 8 * k)) with
      | .ok (.local e) => s1.writeFrom (t.core / 8) e (natLe 8 (code * 2 ^ 56 + c % 2 ^ 16))
      | _ => s1
    else s.writeFrom (t.core / 8) key (natLe 8 (counted % 2 ^ 63 + 2 ^ 63))

/-- Bit `c` of a hart's predicate set by the engine; a bit beyond the predicate is discarded (R239, R245). The predicate is one that a
transfer reports into from now on (R240, entry 5). -/
def State.setChunkBit (s : State) (key : Nat) (pd : BitVec 6) (c : Nat) : State :=
  s.updateHart key (fun h =>
    if c < 4096 * h.id.lanes then
      { h with vec := { h.vec with preds := h.vec.preds.setIfInBounds pd.toNat ((h.vec.preds[pd.toNat]?).getD 0 ||| 2 ^ c) },
               eng := { h.eng with masks := h.eng.masks ||| 2 ^ pd.toNat } }
    else h)

/-- A chunk's end: a transfer of a hart sets its bit, and is over with its last; a COPY keeps its count (R244, R249, R340). -/
def State.chunkDone (s : State) (t : Transfer) (c : Nat) (bad : Bool) : State :=
  let rest := t.pending.filter (fun k => k != c)
  let s1 := s.updateTransfer t.key (fun u => { u with pending := rest, badCount := u.badCount + (if bad then 1 else 0) })
  match t.owner with
  | .hart k pd =>
    let s2 := s1.setChunkBit k pd c
    if rest.isEmpty then { s2 with transfers := s2.transfers.filter (fun u => u.key != t.key) } else s2
  | .copy _ _ => s1

/-- What a chunk writes: its bytes; zeros where its source failed; free bytes where the transport brought none (R251). -/
def State.chunkBytes (s : State) (c n : Nat) (data : Except Nat (List Byte)) : List Byte :=
  match data with
  | .ok bs => bs
  | .error e => if e = 6 then (List.range n).map (fun i => Config.freeByte s.ticks (65536 * c + i)) else List.replicate n 0

/-- Whether a chunk of a code is treated as the table says of 0x04 (R251); `source` is the code of its source, zero for none. -/
def partlyWritten (code source : Nat) : Bool := code == 4 || code == 6 || (code == 5 && source != 5)

/-- Offsets in ascending order as stretches of an offset and a length. -/
def runsOf : List Nat → List (Nat × Nat)
  | [] => []
  | o :: os =>
    match runsOf os with
    | (p, k) :: rest => if o + 1 = p then (o, k + 1) :: rest else (o, 1) :: (p, k) :: rest
    | [] => [(o, 1)]

/-- The stretches of the `n` bytes of chunk `c` that are not written ahead of its end. -/
def Transfer.unwritten (t : Transfer) (c n : Nat) : List (Nat × Nat) :=
  let done := t.wrote.filter (fun d => d.1 == c)
  if done.isEmpty then [(0, n)]
  else runsOf ((List.range n).filter (fun o => !done.any (fun d => decide (d.2.1 ≤ o) && decide (o < d.2.1 + d.2.2))))

/-- Whether a transfer may read what it writes at a place: it reads blocks there, or its source has no length of its own (R249, R250). -/
def State.overlaps (s : State) (t : Transfer) (a : Word) (n : Nat) : Bool :=
  let blocks := s.sourceBlocks t
  t.expand || (piecesOf a n).any (fun p => match s.resolve t.view .store p.1 with
    | .ok (.local key) => blocks.contains (key / 2 ^ 16)
    | _ => false)

/-- Stretches of a chunk written at its destination. -/
def State.putStretches (s : State) (t : Transfer) (partly overlap : Bool) (a : Word) (bs : List Byte) (rs : List (Nat × Nat)) : State :=
  rs.foldl (fun s r => s.putChunk t partly overlap (piecesOf (a + BitVec.ofNat 64 r.1) r.2) ((bs.drop r.1).take r.2)) s

/-- The end of a chunk: what is left of its accesses, its entry in the list, then its bit (R249). A chunk that turns out bad with a destination
of zeros is zero whole, whatever was written ahead. -/
def State.runChunk (s : State) (t : Transfer) (c : Nat) : State :=
  let n := t.chunkLen c
  let a := t.dst + BitVec.ofNat 64 (c * t.cs)
  let data := s.chunkData t c (t.begun c)
  let source := match data with
    | .ok _ => 0
    | .error e => e
  let code := lowerCode source (lowerCode (s.chunkDest t a n (t.begun c)) (if t.gaveUp.contains c then 6 else 0))
  let read := if t.expand then s else s.notePieces t.view (t.src + BitVec.ofNat 64 (c * t.cs)) n
  let partly := partlyWritten code source
  let s1 := (read.notePieces t.view a n).putStretches t partly (s.overlaps t a n) a (s.chunkBytes c n data)
    (if code = 0 || partly then t.unwritten c n else [(0, n)])
  let s2 := if code = 0 then s1 else s1.listAdd t code c
  match s2.transfers.find? (fun u => u.key == t.key) with
  | some u => s2.chunkDone u c (code ≠ 0)
  | none => s2

/-- The chunk `chunk` of transfer `item` completes; chunks complete in any order (R249). -/
def execScopyChunkComplete (s : State) : Out :=
  match s.transfers.find? (fun t => t.key == s.args.item) with
  | some t => .next (if t.pending.contains s.args.chunk then s.runChunk t s.args.chunk else s)
  | none => .next s

/-- A transfer reads the words of `n` bytes ahead (R231, R249); a place that it cannot read, or that is not of this module, it does not. -/
def State.grab (s : State) (item : Nat) (a : Word) (n : Nat) : State :=
  match s.transfers.find? (fun t => t.key == item) with
  | none => s
  | some t =>
    let words := (s.wordsOf t a n).filter (fun p => decide (p.1 < 2 ^ 63))
    (s.notePieces t.view a n).updateTransfer t.key (fun u => { u with read := u.read ++ words })

/-- A transfer writes `n` bytes from offset `o` of chunk `c` on ahead of the chunk's end, in whole aligned words of 8 bytes (R229, R249); a
chunk that meets a bad source or destination it leaves to its end. The words of the source that it goes by it has then read for good; where
they may lie in the destination, and in an expand chunk, that is all the chunk's words, since no chunk reads what it wrote itself (R249). -/
def State.piece (s : State) (item c o n : Nat) : State :=
  match s.transfers.find? (fun t => t.key == item) with
  | none => s
  | some t =>
    let len := t.chunkLen c
    let a := t.dst + BitVec.ofNat 64 (c * t.cs)
    let whole := ((a.toNat + o) % 8 == 0 || o == 0) && ((a.toNat + o + n) % 8 == 0 || o + n == len) && decide (o + n ≤ len)
    match s.chunkData t c (t.begun c) with
    | .error _ => s
    | .ok bs =>
      if t.pending.contains c && whole && s.chunkDest t a len (t.begun c) == 0 && !t.gaveUp.contains c then
        let words := if s.overlaps t a len then s.chunkWords t c else s.wordsOf t (t.src + BitVec.ofNat 64 (c * t.cs + o)) n
        let s1 := (s.notePieces t.view (a + BitVec.ofNat 64 o) n).putStretches t false (s.overlaps t a len) a bs
          ((t.unwritten c len).filterMap (fun r =>
            let lo := max r.1 o
            let hi := min (r.1 + r.2) (o + n)
            if lo < hi then some (lo, hi - lo) else none))
        s1.updateTransfer t.key (fun u => { u with read := u.read ++ words, wrote := (c, o, n) :: u.wrote })
      else s

/-! ### scopy (R246 to R248) -/

/-- Chunk size and count of a transfer record (R247). -/
def recordChunks (d0 : Word) : Nat × Nat :=
  let cs := (d0.extractLsb' 32 6).toNat * 1024 + 1024
  (cs, ((d0.extractLsb' 0 31).toNat + cs - 1) / cs)

/-- Whether a transfer record holds what R247 allows. -/
def recordFields (d0 d1 d2 d3 : Word) : Bool :=
  let len := (d0.extractLsb' 0 31).toNat
  let mode := (d0.extractLsb' 40 2).toNat
  d0 &&& 0xFFFFFCC080000000 = 0 && d1.extractLsb' 56 8 = 0 && d2 = 0 && d3 = 0 && decide (1 ≤ len) && decide (len ≤ 2 ^ 30) &&
    decide (mode ≤ 1) && (mode == 0 || d0.extractLsb' 32 6 == 63#6) && d1.extractLsb' 0 3 = 0

/-- Whether a transfer record holds what a `scopy` allows, for at most `most` chunks (R248). -/
def recordOk (d0 d1 d2 d3 src : Word) (most : Nat) : Bool :=
  recordFields d0 d1 d2 d3 && decide ((recordChunks d0).2 ≤ most) && (d0.extractLsb' 40 2 == 0#2 || src.extractLsb' 0 4 == 0#4)

/-- A transfer starts: it holds a channel, and its list is made ready (R244, R251). -/
def State.startTransfer (s : State) (t : Transfer) : State :=
  let s1 := s.listStart t
  { s1 with transfers := s1.transfers ++ [t], nextKey := s1.nextKey + 1 }

/-- The transfer that a record describes. -/
def transferOf (key : Nat) (owner : Owner) (v : View) (dst src d0 d1 : Word) : Transfer :=
  let r := recordChunks d0
  { key := key, owner := owner, core := v.core, ctx := v.ctx, root := v.root, sup := v.sup, src := src, dst := dst,
    len := (d0.extractLsb' 0 31).toNat, cs := r.1, expand := d0.extractLsb' 40 2 == 1#2, list := d1.extractLsb' 0 56 |>.setWidth 64,
    pending := List.range r.2, gaveUp := [], noHeader := [], old := [], read := [], wrote := [], badCount := 0 }

/-- `n` dwords of a record, as 8-byte scalar loads in order. -/
def State.loadRecord (s : State) (a : Word) : Nat → Except Trap (List Word)
  | 0 => .ok []
  | n + 1 =>
    match s.loadNat a 8 with
    | .error t => .error t
    | .ok v =>
      match s.loadRecord (a + 8) n with
      | .error t => .error t
      | .ok vs => .ok (BitVec.ofNat 64 v :: vs)

/-- The pages that the loads of a record touched. -/
def State.noteRecord (s : State) (a : Word) (n : Nat) : State :=
  (List.range n).foldl (fun s i => s.afterLoad (a + BitVec.ofNat 64 (8 * i)) 8) s

/-! ### Instructions that wait in their queues (R232, R244, R267) -/

/-- Whether an instruction that waits holds a queue of the hart. -/
def State.queueHeld (s : State) (q : BitVec 2) : Bool := s.pends.any (fun p => p.what.holds q)

/-- The hart as an instruction that waits in its queue found it: it runs, or is between element accesses of an indexed instruction (R187). -/
def Hart.ready (h : Hart) : Hart :=
  match h.cond with
  | .waiting (.elements _ _) => h
  | _ => { h with cond := .running }

/-- The instruction at the pc, of `len` bytes, waits in its queue; the hart goes on, and counts it when it retires. `before` is the hart as the
instruction found it, and `members` are those of a pair. -/
def State.setAside (s : State) (before : Hart) (a : Aside) (len : Nat) (members : List (IWord × IWord × Nat) := []) : State :=
  let p : Pend := { hart := s.hart.key, what := a, before := before.ready, acted := false, token := none, age := s.ticks, members := members }
  ({ s with waits := s.waits ++ [p] } : State).onHart (fun h => (h.count 0).loopTest (h.pc + BitVec.ofNat 64 len) false)

/-- An instruction that waited in its queue retires (R99). -/
def State.countOne (s : State) : State := s.onHart (fun h => { h with retired := h.retired + 1 })

/-- Bits 0 to N − 1 of pd cleared, with its PDIRTY bit (R248). -/
def State.clearMask (s : State) (pd : BitVec 6) (d0 : Word) : State :=
  let n := (recordChunks d0).2
  s.setPred pd.toNat (s.pred pd.toNat >>> n <<< n)

/-- A `scopy` starts: it takes a channel, and the engine carries out its transfer (R244, R248). -/
def State.startCopy (s : State) (pd : BitVec 6) (dst src d0 d1 : Word) (sup : Bool) : State :=
  let view := { s.engineView with sup := sup }
  (s.startTransfer (transferOf s.nextKey (.hart s.hart.key pd) view dst src d0 d1)).grantChannel s.hart.id.core s.hart.id.slot

/-- Whether a channel is the hart's to take. -/
def State.channelReady (s : State) : Bool := s.channelFor s.hart.id.core s.hart.id.slot

/-- `scopy` after its dispatch: the vector queue clears its bits, and the stream queue starts it once a channel is its and nothing older can
still fault (R136, R244, R248). -/
def State.issueCopy (s : State) (pd : BitVec 6) (dst src d0 d1 : Word) : State :=
  let cleared := !s.queueHeld 1
  let s1 := if cleared then s.clearMask pd d0 else s
  if cleared && !s.queueHeld 2 && !s.exposed && s1.channelReady then (s1.startCopy pd dst src d0 d1 s.hart.priv.sup).retire 4
  else s1.setAside s.hart (.copy pd dst src d0 d1 s.hart.priv.sup cleared) 4

/-- `scopy` once its record is read: what it may hold (R248). -/
def State.copyWith (s : State) (pd : BitVec 6) (dst src : Word) (ds : List Word) : Result :=
  let d (i : Nat) : Word := (ds[i]?).getD 0
  if recordOk (d 0) (d 1) (d 2) (d 3) src (min 16384 s.bits) then .done (s.issueCopy pd dst src (d 0) (d 1)) else .trap s.illegal s

/-- Dispatch of `scopy`: the record and its contents (R248). -/
def State.dispatchCopy (s : State) (pd : BitVec 6) (dst src rec : Word) : Result :=
  match s.loadRecord rec 4 with
  | .error t => .trap t s
  | .ok ds => (s.noteRecord rec 4).copyWith pd dst src ds

def execScopy (pd : BitVec 6) (rd rs1 rs2 : Reg) (s : State) : Out :=
  (check (s.absent [] [pd.toNat] []) s (s.dispatchCopy pd (s.getX rd) (s.getX rs1) (s.getX rs2))).out

/-- The accesses of the scalar or the vector queue are performed, and with its loads the stores that they read; transfers need only have
started (R228, R232). -/
def State.performQueue (s : State) (q : BitVec 2) : State :=
  if q = 0#2 then (s.finishLoads HeldLoad.isScalar).landWhere (fun h => !h.vec || h.readS)
  else if q = 1#2 then (s.finishLoads (fun l => !l.isScalar)).landWhere (fun h => h.vec || h.readV)
  else s

/-! ### Bindings (R259 to R265) -/

/-- The binding record of eight dwords (R260). -/
def BindRecord.ofWords (ds : List Word) : BindRecord :=
  let d (i : Nat) : Word := (ds[i]?).getD 0
  { base := ((d 0).extractLsb' 0 56).toNat, bitoff := ((d 0).extractLsb' 56 3).toNat, npl := ((d 1).extractLsb' 12 4).toNat,
    sc := (d 1).getLsbD 8, sb := (d 1).getLsbD 9, tag := (d 1).extractLsb' 0 5, nrows := ((d 2).extractLsb' 32 32).toNat,
    rowlen := ((d 2).extractLsb' 0 32).toNat, estr := ((d 3).extractLsb' 0 32).toNat, pitch := (d 4).toInt, plpitch := (d 5).toInt,
    sbase := ((d 6).extractLsb' 0 56).toNat, spitch := (d 7).toInt }

/-- Block size of a binding's scale stream. -/
def BindRecord.block (b : BindRecord) : Nat := if b.sb then 32 else 16

/-- Whether the reserved fields of the dwords are zero and every field holds an admitted value (R260). -/
def bindRecordOk (ds : List Word) : Bool :=
  let d (i : Nat) : Word := (ds[i]?).getD 0
  let b := BindRecord.ofWords ds
  let plain := match Tag.ofCode b.tag with
    | some t => t != .fx96 && b.npl == 0 && b.plpitch == 0 && b.estr % t.memBits == 0 && b.pitch % (t.memBits : Int) == 0
    | none => decide (18 ≤ b.tag.toNat) && decide (b.tag.toNat ≤ 24) && decide (1 ≤ b.npl) && decide (b.npl ≤ b.tag.toNat - 16)
  (d 0).extractLsb' 59 5 == 0#5 && d 1 &&& 0xFFFFFFFFFFFF0CE0 = 0 && (d 3).extractLsb' 32 32 == 0#32 && (d 6).extractLsb' 56 8 == 0#8 &&
    plain && b.estr != 0 && decide (1 ≤ b.nrows) && decide (1 ≤ b.rowlen) &&
    (if b.sc then b.rowlen % b.block == 0 else b.sbase == 0 && b.spitch == 0)

/-- Whether an `sbind` that waits in its queue binds a register or its sidecar (R261). -/
def State.toBeBound (s : State) (r : Reg) : Bool :=
  s.pends.any (fun p => match p.what with
    | .bind vd _ _ => (s.withSidecars [vd]).contains r
    | _ => false)

/-- Whether a register may take a binding (R261). -/
def State.bindOk (s : State) (vd : Reg) (b : BindRecord) : Bool :=
  let t := s.tagOf vd
  let sl := s.hart.vec.vl
  !s.toBeBound vd && !(t.s && s.toBeBound t.vsc) && (s.bindingOf vd).isNone && (!t.s || (s.bindingOf t.vsc).isNone) &&
    t.tag == b.regTag && b.sc == t.s && b.sb == (t.s && t.b) &&
    decide (0 < sl) && decide (sl ≤ s.mvl t.tag.width) && (!b.sc || sl % b.block == 0)

/-- The registers of a binding: vd and the sidecar it names. -/
def State.boundRegs (s : State) (vd : Reg) : List Reg := s.withSidecars [vd]

/-- The register is bound, with the vector accesses before it performed; its earlier contents are lost (R261). -/
def State.startBinding (s : State) (vd : Reg) (b : BindRecord) (sl : Nat) : State :=
  let s0 := s.performQueue 1
  let s1 := (s0.boundRegs vd).foldl (fun s r => s.setImage r []) s0
  let binding : Binding := { reg := vd, record := b, sl := sl, head := 0, ahead := [] }
  (s1.setEng { s1.hart.eng with bindings := s1.hart.eng.bindings ++ [binding] }).grantChannel s.hart.id.core s.hart.id.slot

/-- `sbind` after its dispatch: it binds once a channel is its and nothing older can still fault (R136, R244, R261). -/
def State.issueBind (s : State) (vd : Reg) (b : BindRecord) : State :=
  let sl := s.hart.vec.vl
  if !s.queueHeld 1 && !s.exposed && s.channelReady then (s.startBinding vd b sl).retire 4 else s.setAside s.hart (.bind vd b sl) 4

/-- `sbind` once its record is read: what it and the register may hold (R261). -/
def State.bindWith (s : State) (vd : Reg) (ds : List Word) : Result :=
  let b := BindRecord.ofWords ds
  if bindRecordOk ds && s.bindOk vd b then .done (s.issueBind vd b) else .trap s.illegal s

/-- Dispatch of `sbind` (R261). -/
def State.dispatchBind (s : State) (vd : Reg) (rec : Word) : Result :=
  match s.loadRecord rec 8 with
  | .error t => .trap t s
  | .ok ds => (s.noteRecord rec 8).bindWith vd ds

/-- Checks 4 and 5 of `sbind`, and its dispatch (R42, R261). -/
def State.bindChecked (s : State) (vd : Reg) (dispatch : Result) : Result :=
  check (s.legalIf (s.sidecarsValid [vd])) s (check (s.absent (s.boundRegs vd) [] []) s dispatch)

def execSbind (vd rs1 : Reg) (s : State) : Out := (s.bindChecked vd (s.dispatchBind vd (s.getX rs1))).out

/-- The binding of a register itself. `sunbind` and `srearm` of a register that is bound as the sidecar of another's binding find none and raise
IllegalInstruction, where the spec is silent: DESIGN CHOICE, entry 18. -/
def State.ownBinding (s : State) (vd : Reg) : Option Binding := s.hart.eng.bindings.find? (fun b => b.reg == vd)

/-- A register unbound: present, dirty and zero (R265). -/
def State.release (s : State) (r : Reg) : State :=
  let s1 := (s.setImage r []).markDirty r
  s1.setVec { s1.hart.vec with present := s1.hart.vec.present ||| BitVec.ofNat 32 (2 ^ r.toNat) }

def execSunbind (vd : Reg) (s : State) : Out :=
  (check (s.legalIf (s.ownBinding vd).isSome) s
    (let s1 := s.setEng { s.hart.eng with bindings := s.hart.eng.bindings.filter (fun b => b.reg != vd) }
     .done (((s.boundRegs vd).foldl State.release s1).retire 4))).out

/-- Whether a strip carries a fault marker. -/
def Strip.isMarked : Strip → Bool
  | .marked _ _ => true
  | .data _ _ => false

/-- `srearm`: the address side starts again at the marked strip (R264). -/
def execSrearm (vd : Reg) (s : State) : Out :=
  (check (s.legalIf (s.ownBinding vd).isSome) s
    (.done ((s.setEng { s.hart.eng with bindings := s.hart.eng.bindings.map (fun b =>
      if b.reg == vd then { b with ahead := b.ahead.takeWhile (fun p => !p.isMarked) } else b) }).retire 4))).out

/-- The next strip that the address side may read: the head and up to 64 beyond it, none past a marker or the last (R262 to R264). -/
def Binding.nextStrip (b : Binding) : Option Nat :=
  let k := b.head + b.ahead.length
  if b.ahead.length ≤ 64 && !b.ahead.any Strip.isMarked && decide (0 < b.stripLen k) then some k else none

/-- The address side of the binding of register `reg` of hart `hart` reads its next strip (R263). -/
def execStripFetch (s : State) : Out :=
  match s.focus s.args.hart with
  | none => .next s
  | some f =>
    match f.ownBinding s.args.reg with
    | none => .next s
    | some b =>
      match b.nextStrip with
      | none => .next s
      | some k =>
        let strip := f.fetchStrip b k
        .next (s.updateHart s.args.hart (fun h =>
          { h with eng := { h.eng with bindings := h.eng.bindings.map (fun c =>
              if c.reg == b.reg then { c with ahead := c.ahead ++ [strip] } else c) } }))

/-! ### Token FIFOs (R266, R267) -/

/-- The FIFO of `put` from Q to P, or of `get` from P to Q. -/
def fifoIndex (put : Bool) (q p : BitVec 2) : Nat := if put then 4 * q.toNat + p.toNat else 4 * p.toNat + q.toNat

/-- Tokens in a FIFO. -/
def State.fifo (s : State) (i : Nat) : Int := (s.hart.eng.fifos[i]?).getD 0

/-- Whether a `tkput` finds room, or a `tkget` a token (R267). -/
def State.fifoReady (s : State) (put : Bool) (q p : BitVec 2) : Bool :=
  let n := s.fifo (fifoIndex put q p)
  if put then decide (n < 16) else decide (0 < n)

/-- What a stream of the hart has read early is of no use after its `tkget` (R232). -/
def State.startAfresh (s : State) (q : BitVec 2) : State :=
  s.setOrder { s.hart.order with early := s.hart.order.early.filter (fun e => !((q == 0#2 && !e.vec) || (q == 1#2 && e.vec))) }

/-- A token moves: a `tkput` once its queue's accesses are performed, a `tkget` before what follows it (R232, R267). -/
def State.moveToken (s : State) (put : Bool) (q p : BitVec 2) : State :=
  let i := fifoIndex put q p
  let n := s.fifo i
  let s1 := if put then s.performQueue q else s.startAfresh q
  s1.setEng { s1.hart.eng with fifos := s1.hart.eng.fifos.setIfInBounds i (if put then n + 1 else n - 1) }

/-- Whether a step may be taken while older instructions of the hart wait: where one of them can still fault, it must not act outside the
hart (R136). -/
def State.mayAct (s t : State) (faulty : Bool) : Bool := !faulty || t.outside == s.outside

/-- A `tkput` or `tkget` (R267): done, or waiting in its queue while the hart goes on; the scalar queue is the scalar stream's own, and stalls
it. -/
def State.tryFifo (s : State) (put : Bool) (q p : BitVec 2) : State :=
  if !s.queueHeld q && s.fifoReady put q p && s.mayAct (s.moveToken put q p) s.exposed then (s.moveToken put q p).retire 4
  else if q = 0#2 then s.wait (.fifo put q p)
  else s.setAside s.hart (.fifo put q p) 4

def execTkput (q p : BitVec 2) (s : State) : Out := .next (s.tryFifo true q p)
def execTkget (q p : BitVec 2) (s : State) : Out := .next (s.tryFifo false q p)

/-! ### Queues go on -/

/-- What an instruction that waits in its queue behind others can do now, and what is then left of it. Any other instruction of a queue goes on
in a turn of its hart (`State.runLater`). -/
def State.stepAside (s : State) (ahead : List Aside) (a : Aside) : Option ((State → State) × Option Aside) :=
  let free (q : BitVec 2) : Bool := !ahead.any (fun b => b.holds q)
  match a with
  | .fifo put q p => if free q && s.fifoReady put q p then some (fun s => (s.moveToken put q p).countOne, none) else none
  | .copy pd dst src d0 d1 sup false => if free 1 then some (fun s => s.clearMask pd d0, some (.copy pd dst src d0 d1 sup true)) else none
  | .copy pd dst src d0 d1 sup true =>
    if a.wantsChannel ahead && s.channelReady then some (fun s => (s.startCopy pd dst src d0 d1 sup).countOne, none) else none
  | .bind vd r sl => if a.wantsChannel ahead && s.channelReady then some (fun s => (s.startBinding vd r sl).countOne, none) else none
  | .later _ _ _ => none

/-- What a waiting instruction does to the hart, it does to the hart as each younger one found it; and older ones that still wait can no
longer be undone once it has acted outside the hart. -/
def State.goneOn (s : State) (t : State) (k : Nat) (onHart : Hart → Hart) (left : List Pend) : State :=
  let ps := s.pends
  let older := if t.outside == s.outside then ps.take k else (ps.take k).map (fun q => { q with acted := true })
  t.setPends (older ++ left ++ (ps.drop (k + 1)).map (fun q => { q with before := onHart q.before }))

/-- The waiting instruction at index `k` takes the step it can, or the turn passes to the next. -/
def State.goOn (s : State) (k : Nat) : State × Nat :=
  match s.pends[k]? with
  | none => (s, k)
  | some p =>
    let ahead := (s.pends.take k).map (fun q => q.what)
    match s.stepAside ahead p.what with
    | none => (s, k + 1)
    | some (f, left) =>
      if s.mayAct (f s) (ahead.any Aside.canFault) then
        (s.goneOn (f s) k (fun h => (f { s with hart := h }).hart) (left.toList.map (fun b => { p with what := b })), k)
      else (s, k + 1)

/-- The queues of a hart go on in program order, but for a hart that has halted: it issues nothing more (R304). -/
def State.progress (s : State) : State :=
  match s.hart.cond with
  | .halted _ _ => s
  | _ => ((List.range (2 * s.pends.length)).foldl (fun (r : State × Nat) (_ : Nat) => r.1.goOn r.2) (s, 0)).1

/-- A freed channel goes to the waiting instructions of hart `hart` when the round has reached it (R244). -/
def execChannelGrant (s : State) : Out :=
  match s.focus s.args.hart with
  | some f => .next f.progress
  | none => .next s

/-- What waits on a token FIFO of hart `hart` goes on once it has room or a token: an instruction in its queue, or the one that the hart
waits at (R267). -/
def execTokenFifoRelease (s : State) : Out :=
  match s.waiter with
  | some (f, .fifo put q p) => .next (if !f.queueHeld q && f.fifoReady put q p then f.noting (f.tryFifo put q p) else f.progress)
  | _ =>
    match s.focus s.args.hart with
    | some f => .next f.progress
    | none => .next s

end Sys2Proof.Machine
end

