-- ==== Sys2Proof/Machine/Ladder.lean ====
section
/-! DEFINITION. Streams, cairns and the snapshot ladder (R271 to R291). -/

namespace Sys2Proof.Machine

/-! ### Streams as memory (R273, R274) -/

/-- Die of a stream id. -/
def streamDie (id : Nat) : Nat := id / 2 ^ 20 % 4

/-- 4 KiB blocks of the live segments. -/
def Stream.blockCount (t : Stream) : Nat := t.segs.foldl (fun n p => n + p.2) 0

/-- N: 64 KiB chunks of the live segments. -/
def Stream.chunkCount (t : Stream) : Nat := (t.blockCount + 15) / 16

/-- Address of block `b` of segments laid end to end. -/
def segBlock : List (Nat × Nat) → Nat → Nat
  | [], _ => 0
  | (va, n) :: rest, b => if b < n then va + 4096 * b else segBlock rest (b - n)

/-- The physical address that a stream's translations give (R274). -/
def Stream.pa (t : Stream) (va : Nat) : Nat :=
  match t.pages.find? (fun p => p.1 == va / 2 ^ 16) with
  | some p => p.2 + va % 2 ^ 16
  | none => 0

/-- The 64 KiB regions of a range of addresses. -/
def regionsOf (va n : Nat) : List Nat := (List.range ((va % 2 ^ 16 + n + 2 ^ 16 - 1) / 2 ^ 16)).map (fun i => va / 2 ^ 16 + i)

/-- The page of a region when it is a normal page homed on a die, readable and writable at user privilege (R274). -/
def State.streamPage (s : State) (die root region : Nat) : Option (Nat × Nat) :=
  if 2 ^ 40 ≤ region ∨ region / 2 ^ 24 = 0x7F then none
  else
    match s.walk die root (region * 2 ^ 16) with
    | .leaf l => if l.u && l.r && l.w && !l.remote && backed l.pa && homeOf l.pa == die then some (region, l.pa) else none
    | _ => none

/-- Every element, or none. -/
def allSome {α : Type} : List (Option α) → Option (List α)
  | [] => some []
  | none :: _ => none
  | some a :: rest => (allSome rest).map (fun l => a :: l)

/-- The translations of a stream's segments, log and exact-region words; none when they break R274. -/
def State.streamPages (s : State) (die : Nat) (t : Stream) : Option (List (Nat × Nat)) :=
  let regions := t.segs.flatMap (fun p => regionsOf p.1 (4096 * p.2)) ++ regionsOf t.logbase (4 * t.logcap) ++
    t.exws.flatMap (fun a => regionsOf a 8)
  allSome (regions.eraseDups.map (s.streamPage die t.root))

/-- Segments that overlap no other. -/
def segsApart : List (Nat × Nat) → Bool
  | [] => true
  | p :: rest => rest.all (fun q => decide (p.1 + 4096 * p.2 ≤ q.1) || decide (q.1 + 4096 * q.2 ≤ p.1)) && segsApart rest

/-- The stream that a record of 512 bytes describes; none when a value makes it invalid (R273). So does a reserved bit or byte that is not zero:
the rule only calls them reserved, and R1 says what reading them gives; DESIGN CHOICE, entry 19. -/
def streamOfRecord (ctx : BitVec 16) (root : Nat) (bs : List Byte) : Option Stream :=
  let q (i : Nat) : Nat := leNat ((bs.drop (8 * i)).take 8)
  let d := q 0
  let k := d % 32
  let nseg := d / 2 ^ 16 % 32
  let nex := d / 2 ^ 24 % 32
  let segs := (List.range nseg).map (fun i => (q (8 + 2 * i), q (9 + 2 * i)))
  let exws := (List.range nex).map (fun i => q (40 + i))
  let zero (lo hi : Nat) : Bool := (List.range (hi - lo)).all (fun i => q (lo + i) == 0)
  if d &&& (2 ^ 64 - 1 - 0x1F1F031F) ≠ 0 || 24 < k || nseg = 0 || 16 < nseg || 16 < nex then none
  else if 2 ^ 56 ≤ q 1 || q 1 % 4 ≠ 0 || q 2 = 0 || 2 ^ 31 ≤ q 2 || !zero 3 8 then none
  else if !zero (8 + 2 * nseg) 40 || !zero (40 + nex) 64 then none
  else if !segs.all (fun p => decide (p.1 < 2 ^ 56) && p.1 % 4096 == 0 && decide (1 ≤ p.2) && decide (p.2 < 2 ^ 19)) then none
  else if !exws.all (fun a => decide (a < 2 ^ 56) && a % 8 == 0) then none
  else if !segsApart segs || 262144 < segs.foldl (fun n p => n + p.2) 0 then none
  else
    some { id := 0, ctx := ctx, root := root, k := k, cls := d / 2 ^ 8 % 4, segs := segs, logbase := q 1, logcap := q 2, exws := exws,
           lpos := 0, llen := 0, ltarget := 0, lcost := 0, cmps := 0, bad := false, cairns := [], pins := [], bound := 0,
           swapped := false, pages := [], written := [], copies := [], restore := none }

/-- The streams of a die. -/
def State.streamsOf (s : State) (die : Nat) : List Stream := s.streams.filter (fun t => streamDie t.id == die)

/-- The lowest free id of a die; none when its table is full (R273). -/
def State.freeStream (s : State) (die : Nat) : Option Nat :=
  let used := s.streamsOf die
  if 2 ^ 20 ≤ used.length then none
  else ((List.range (used.length + 1)).find? (fun i => !used.any (fun t => t.id % 2 ^ 20 == i))).map (fun i => die * 2 ^ 20 + i)

def State.findStream (s : State) (id : Nat) : Option Stream := s.streams.find? (fun t => t.id == id)

def State.updateStream (s : State) (id : Nat) (f : Stream → Stream) : State :=
  { s with streams := s.streams.map (fun t => if t.id == id then f t else t) }

/-- The report of a ladder access, other than a restore's, that met a retired block: LREPLAY.BAD, as a restore reports it; DESIGN CHOICE,
entry 19 (R284, R359). -/
def State.reportLost (s : State) (id : Nat) (lost : Bool) : State := if lost then s.updateStream id (fun t => { t with bad := true }) else s

/-- `n` bytes of a stream as the ladder engine reads them; in a retired block they are free values, which no rule states: DESIGN CHOICE, entry 19
(R359). -/
def State.ladderRead (s : State) (t : Stream) (va n : Nat) : List Byte :=
  let pa := t.pa va
  if s.retiredAt pa then (List.range n).map (fun i => Config.freeByte s.ticks (pa + i)) else s.bytesAt (streamDie t.id) pa n

/-- A live block as it stands. -/
def State.liveBlock (s : State) (t : Stream) (b : Nat) : Image := Sparse.setList 0 [] 0 (s.ladderRead t (segBlock t.segs b) 4096)

/-- The token at position p (R273). -/
def State.logToken (s : State) (t : Stream) (p : Nat) : Nat := leNat (s.ladderRead t (t.logbase + 4 * (p - 1)) 4)

/-- Whether some address of a stream lies in a retired block (R359). -/
def State.anyRetired (s : State) (t : Stream) (vas : List Nat) : Bool :=
  !s.module.retiredBlocks.isEmpty && vas.any (fun a => s.retiredAt (t.pa a))

/-- Whether one of `n` tokens from position `p` on does. -/
def State.logRetired (s : State) (t : Stream) (p n : Nat) : Bool := s.anyRetired t ((List.range n).map (fun i => t.logbase + 4 * (p - 1 + i)))

/-- A write by the ladder engine through a stream's translations. -/
def State.ladderWrite (s : State) (t : Stream) (va : Nat) (bs : List Byte) : State :=
  s.writeFrom (streamDie t.id) (t.pa va) bs

/-! ### The cairn store (R271, R272, R281, R282) -/

/-- Blocks of the three tiers of a die. -/
def State.cairnTotal (s : State) (die : Nat) : Nat :=
  let d := s.die die
  256 * (d.storeMiB + d.dramMiB + d.lpMiB)

/-- Blocks held on a die; the key of a stored block is 4 times its number plus its die. -/
def State.cairnUsed (s : State) (die : Nat) : Nat := (s.cairnBlocks.filter (fun p => p.1 % 4 == die)).length

/-- Blocks that no cairn holds go. -/
def State.sweepBlocks (s : State) : State :=
  let held := s.streams.flatMap (fun t => t.cairns.flatMap (fun c => c.blocks))
  { s with cairnBlocks := s.cairnBlocks.filter (fun p => held.contains p.1) }

/-- Cairns of a stream that satisfy a condition go, with their pins. -/
def State.dropCairns (s : State) (id : Nat) (p : Nat → Bool) : State :=
  (s.updateStream id (fun t => { t with cairns := t.cairns.filter (fun c => !p c.pos), pins := t.pins.filter (fun q => !p q) })).sweepBlocks

/-- The victim among cairns in ascending order: the smallest gap to the next lower, the lower position on ties (R281). -/
def victimOf (t : Stream) : List Cairn → Option (Nat × Nat) → Option Nat
  | a :: b :: rest, best =>
    let gap := b.pos - a.pos
    let may := b.pos != t.lpos && !t.pins.contains b.pos
    let better := match best with
      | none => true
      | some (g, _) => decide (gap < g)
    victimOf t (b :: rest) (if may && better then some (gap, b.pos) else best)
  | _, best => best.map (fun p => p.2)

/-- Whether the free count is at the high watermark with `need` more blocks taken (R272). -/
def State.relieved (s : State) (die need : Nat) : Bool := decide (s.cairnTotal die ≤ 8 * (s.cairnTotal die - (s.cairnUsed die + need)))

/-- One turn over streams of a class: one cairn of each, until pressure stops; whether any was dropped (R281). -/
def State.pressTurn (s : State) (die need : Nat) : List Nat → Bool → State × Bool
  | [], any => (s, any)
  | id :: ids, any =>
    if s.relieved die need then (s, false)
    else
      match (s.findStream id).bind (fun t => victimOf t t.cairns none) with
      | some p => (s.dropCairns id (fun q => q == p)).pressTurn die need ids true
      | none => s.pressTurn die need ids any

/-- Turns over a class until it has no victim or pressure stops. -/
def State.pressClass (s : State) (die need cls : Nat) : Nat → State
  | 0 => s
  | fuel + 1 =>
    let ids := ((s.streamsOf die).filter (fun t => t.cls == cls)).map (fun t => t.id)
    let r := s.pressTurn die need (sortBy (fun a b => decide (a ≤ b)) ids) false
    if r.2 then r.1.pressClass die need cls fuel else r.1

/-- Pressure, when taking `need` blocks would leave fewer than 1/16 free (R272, R281). -/
def State.press (s : State) (die need : Nat) : State :=
  if 16 * (s.cairnTotal die - (s.cairnUsed die + need)) < s.cairnTotal die then
    let fuel := (s.streamsOf die).foldl (fun n t => n + t.cairns.length) 1
    [0, 1, 2, 3].foldl (fun s c => s.pressClass die need c fuel) s
  else s

/-- Whether the store can take `need` blocks. -/
def State.roomFor (s : State) (die need : Nat) : Bool := decide (s.cairnUsed die + need ≤ s.cairnTotal die)

/-- The cairn at a position. -/
def Stream.cairnAt (t : Stream) (p : Nat) : Option Cairn := t.cairns.find? (fun c => c.pos == p)

/-- The blocks that the next cut copies: all with no cairn, else those written since the last (R280). -/
def Stream.toCopy (t : Stream) : List Nat :=
  if t.cairns.isEmpty then List.range t.blockCount else (List.range t.blockCount).filter (fun b => t.written.contains b)

/-- The blocks of a new cairn: copied ones under new numbers, the others shared with the cairn at LPOS; their contents are those of
the cut (R280). -/
def State.cutBlocks (s : State) (t : Stream) (n : Nat) : State :=
  let die := streamDie t.id
  let fresh : List (Nat × Nat) := t.toCopy.zipIdx.map (fun (p : Nat × Nat) => (p.1, 4 * (s.nextKey + p.2) + die))
  let prev := ((t.cairnAt t.lpos).map (fun c => c.blocks)).getD []
  let blocks := (List.range t.blockCount).map (fun b => match fresh.find? (fun p => p.1 == b) with
    | some p => p.2
    | none => (prev[b]?).getD 0)
  let s1 := { s with cairnBlocks := s.cairnBlocks ++ fresh.map (fun (p : Nat × Nat) => (p.2, s.liveBlock t p.1)), nextKey := s.nextKey + fresh.length }
  s1.updateStream t.id (fun t =>
    { t with cairns := t.cairns ++ [⟨n, blocks⟩], written := [], copies := (t.copies ++ t.toCopy).eraseDups })

/-- R(n) (R282). -/
def keepsAt (k n p : Nat) : Bool :=
  p == 0 || (List.range (k + 1)).any (fun i => p == n / 2 ^ i * 2 ^ i || p + 2 ^ i == n / 2 ^ i * 2 ^ i)

/-! ### Results and waits (R276, R278) -/

/-- x(rd) := a status or a result; the instruction retires. -/
def State.answer (s : State) (rd : Reg) (v : Int) (len : Nat) : State := s.give rd (intWord v) len

/-- The bound stream of an instruction that acts on it: −1 with none, and a wait while a restore is under way (R278, R283). -/
def State.onStream (s : State) (rd : Reg) (len : Nat) (act : Stream → Result) : Result :=
  match s.boundStream with
  | none => .done (s.answer rd (-1) len)
  | some t => if t.restore.isSome then .done (s.wait .engine) else act t

/-- Bits 0 to n − 1 of a completion predicate cleared (R283). -/
def State.clearBits (s : State) (pd : BitVec 6) (n : Nat) : State := s.setPred pd.toNat (s.pred pd.toNat >>> n <<< n)

/-- A restore of every chunk from a cairn's blocks. -/
def State.startRestore (s : State) (t : Stream) (pos : Nat) (pd : BitVec 6) (exact : Option Nat) (rewind : Bool) : Option Restore :=
  some { blocks := ((t.cairnAt pos).map (fun c => c.blocks)).getD [], chunks := List.range t.chunkCount, hart := s.hart.key,
         reports := [(s.hart.key, pd)], exact := exact, rewind := rewind, stored := [] }

/-! ### Advancing (R280) -/

/-- `ladv` with a token: the hart's earlier accesses come before it, and its later ones after its cut (R279). -/
def State.ladv (s : State) (rd : Reg) (v : Word) (len : Nat) : Result :=
  let s := s.settle
  s.onStream rd len (fun t =>
    let n := t.lpos + 1
    let token := v.toNat % 2 ^ 32
    let die := streamDie t.id
    let replay := decide (t.lpos < t.ltarget)
    if t.logcap < n then .done (s.answer rd (-4) len)
    else if replay && s.logToken t n != token then
      .trap (.plain effReplay (BitVec.ofNat 64 n) (accessWord 3 false 0)) (s.reportLost t.id (s.logRetired t n 1))
    else
      let logged (s : State) : State :=
        if replay then s else (s.ladderWrite t (t.logbase + 4 * (n - 1)) (natLe 4 token)).updateStream t.id (fun t => { t with llen := n })
      let need := (((logged s).findStream t.id).map (fun t => t.toCopy.length)).getD 0
      let s1 := s.press die need
      if s1.roomFor die need then
        let s2 := logged s1
        match s2.findStream t.id with
        | none => .done (s.answer rd (-1) len)
        | some u =>
          let s3 := (s2.cutBlocks u n).updateStream t.id (fun t => { t with lpos := n })
          let s4 := s3.dropCairns t.id (fun p => !keepsAt t.k n p && !t.pins.contains p)
          let lost := s.logRetired t n 1 || s.anyRetired t (u.toCopy.map (segBlock t.segs))
          .done ((s4.reportLost t.id lost).acquire.answer rd n len)
      else .done (s1.answer rd (-5) len))

def execLadv (rd rs1 : Reg) (s : State) : Out := (s.ladv rd (s.getX rs1) 4).out

/-! ### Rewinding (R283) -/

/-- The largest held position at or below one. -/
def Stream.heldBelow (t : Stream) (p : Nat) : Nat := (t.cairns.filter (fun c => decide (c.pos ≤ p))).foldl (fun m c => max m c.pos) 0

/-- `lrewind` to a position, after the hart's earlier accesses (R279); the vector queue's later instructions wait for its status. -/
def State.lrewind (s : State) (pd : BitVec 6) (rd : Reg) (v : Word) (len : Nat) : Result :=
  check (s.absent [] [pd.toNat] []) s
    ((s.settle.startAfresh 1).onStream rd len (fun t =>
      let s := s.settle.startAfresh 1
      let p := v.toNat
      if t.lpos < p || s.bits < t.chunkCount then .done (s.answer rd (-3) len)
      else
        let m := t.heldBelow p
        let s1 := s.dropCairns t.id (fun q => decide (m < q))
        let s2 := s1.updateStream t.id (fun t =>
          { t with llen := p, lpos := m, ltarget := p, lcost := p - m, cmps := 0, bad := false,
                   restore := s1.startRestore t m pd (some p) true })
        .done ((s2.clearBits pd t.chunkCount).answer rd m len)))

def execLrewind (pd : BitVec 6) (rd rs1 : Reg) (s : State) : Out := (s.lrewind pd rd (s.getX rs1) 4).out

/-! ### Reading the log (R287) -/

/-- `ltok` at a position. -/
def State.ltok (s : State) (rd : Reg) (v : Word) (len : Nat) : Result :=
  s.onStream rd len (fun t =>
    if 1 ≤ v.toNat ∧ v.toNat ≤ t.llen then
      .done ((s.reportLost t.id (s.logRetired t v.toNat 1)).answer rd (s.logToken t v.toNat) len)
    else .done (s.answer rd (-3) len))

def execLtok (rd rs1 : Reg) (s : State) : Out := (s.ltok rd (s.getX rs1) 4).out

/-- `n` tokens of a sequence, as 4-byte scalar loads in order. -/
def State.loadTokens (s : State) (a : Word) : Nat → Except Trap (List Nat)
  | 0 => .ok []
  | n + 1 =>
    match s.loadNat a 4 with
    | .error t => .error t
    | .ok v =>
      match s.loadTokens (a + 4) n with
      | .error t => .error t
      | .ok vs => .ok (v :: vs)

/-- The pages that the loads of a sequence touched. -/
def State.noteTokens (s : State) (a : Word) (n : Nat) : State :=
  (List.range n).foldl (fun s i => s.afterLoad (a + BitVec.ofNat 64 (4 * i)) 4) s

/-- How many tokens of a sequence agree with the log from position `p` on, of `n` at most. -/
def State.agree (s : State) (t : Stream) : List Nat → Nat → Nat → Nat
  | [], _, _ => 0
  | _, _, 0 => 0
  | v :: vs, p, n + 1 => if s.logToken t p = v then 1 + s.agree t vs (p + 1) n else 0

/-- `lmatch` (R287): it acts, and so reads its sequence, after the hart's earlier accesses (R279). -/
def execLmatch (rd rs1 rs2 : Reg) (s : State) : Out :=
  let s := s.settle
  (s.onStream rd 4 (fun t =>
    let c := (s.getX rs2).toNat
    if c = 0 ∨ 65536 < c then .done (s.answer rd (-3) 4)
    else
      match ({ s with loose := false } : State).loadTokens (s.getX rs1) c with
      | .error t => .trap t s
      | .ok seq =>
        let lm := s.agree t seq 1 t.llen
        let s1 := (s.noteTokens (s.getX rs1) c).reportLost t.id (s.logRetired t 1 (min c t.llen))
        .done (s1.answer rd (((lm - t.heldBelow lm) * 2 ^ 32 + lm : Nat) : Int) 4))).out

/-! ### Pins and settings (R288) -/

/-- `lpin`. -/
def State.lpin (s : State) (rd : Reg) (v : Word) (len : Nat) : Result :=
  s.onStream rd len (fun t =>
    let p := v.toNat
    if (t.cairnAt p).isNone || (!t.pins.contains p && decide (16 ≤ t.pins.length)) then .done (s.answer rd (-3) len)
    else
      .done ((s.updateStream t.id (fun t => if t.pins.contains p then t else { t with pins := p :: t.pins })).answer rd p len))

/-- `lunpin`. -/
def State.lunpin (s : State) (rd : Reg) (v : Word) (len : Nat) : Result :=
  s.onStream rd len (fun t =>
    let p := v.toNat
    if (t.cairnAt p).isNone || !t.pins.contains p then .done (s.answer rd (-3) len)
    else .done ((s.updateStream t.id (fun t => { t with pins := t.pins.filter (fun q => q != p) })).answer rd p len))

/-- `lset`. -/
def State.lset (s : State) (rd : Reg) (v : Word) (len : Nat) : Result :=
  s.onStream rd len (fun t =>
    if v &&& 0xFFFFFFFFFFFFFCE0 ≠ 0 || 24 < v.toNat % 32 then .done (s.answer rd (-3) len)
    else .done ((s.updateStream t.id (fun t => { t with k := v.toNat % 32, cls := v.toNat / 2 ^ 8 % 4 })).answer rd 0 len))

def execLpin (rd rs1 : Reg) (s : State) : Out := (s.lpin rd (s.getX rs1) 4).out
def execLunpin (rd rs1 : Reg) (s : State) : Out := (s.lunpin rd (s.getX rs1) 4).out
def execLset (rd rs1 : Reg) (s : State) : Out := (s.lset rd (s.getX rs1) 4).out

/-! ### Binding (R289, R290) -/

/-- The hart's stream. -/
def State.bindStream (s : State) (id : Option Nat) : State := s.setEng { s.hart.eng with stream := id }

/-- The chunks in place so far, as bits of pd; a restore under way reports the rest (R289). -/
def State.reportChunks (s : State) (t : Stream) (pd : BitVec 6) : State :=
  let n := t.chunkCount
  match t.restore with
  | none => s.setPred pd.toNat (s.pred pd.toNat >>> n <<< n ||| ones n)
  | some r =>
    let done := ((List.range n).filter (fun c => !r.chunks.contains c)).foldl (fun m c => m ||| 2 ^ c) 0
    (s.setPred pd.toNat (s.pred pd.toNat >>> n <<< n ||| done)).updateStream t.id (fun t =>
      { t with restore := some { r with reports := r.reports ++ [(s.hart.key, pd)] } })

/-- The blocks whose live bytes differ from the cairn at LPOS. -/
def State.changedBlocks (s : State) (t : Stream) : List Nat :=
  match t.cairnAt t.lpos with
  | none => []
  | some c => (List.range t.blockCount).filter (fun b =>
      ((s.cairnBlocks.find? (fun p => p.1 == (c.blocks[b]?).getD 0)).map (fun p => p.2)).getD [] != s.liveBlock t b)

/-- A stream whose memory is translated, bound (R289): cairn 0 is cut for a new stream, and a swapped-out one is restored. -/
def State.openStream (s : State) (t : Stream) (pd : BitVec 6) (rd : Reg) (len : Nat) : Result :=
  let die := streamDie t.id
  let first := t.cairns.isEmpty
  let need := if first then t.blockCount else 0
  let s1 := if first then s.press die need else s
  if first && !s1.roomFor die need then .done (s1.answer rd (-5) len)
  else
    let s1 := s1.updateStream t.id (fun _ => t)
    let s2 := if first then s1.cutBlocks t 0 else s1
    let s3 := s2.updateStream t.id (fun u => { u with bound := u.bound + 1, bad := false })
    let s4 := s3.bindStream (some t.id)
    let s5 :=
      if t.swapped then
        (s4.updateStream t.id (fun u => { u with swapped := false, restore := s4.startRestore u u.lpos pd none false })).clearBits pd
          t.chunkCount
      else s4.reportChunks t pd
    .done (s5.answer rd t.lpos len)

/-- `lopen` of an id: every binding translates the stream's memory (R274); the vector queue's later instructions wait for its status. -/
def State.lopen (s : State) (pd : BitVec 6) (rd : Reg) (v : Word) (len : Nat) : Result :=
  check (s.absent [] [pd.toNat] []) s
    (let s := s.startAfresh 1
     if s.hart.eng.stream.isSome then .done (s.answer rd (-7) len)
     else
      match (s.streamsOf s.dieOf).find? (fun t => t.id == v.toNat && t.ctx == s.hart.id.ctx) with
      | none => .done (s.answer rd (-2) len)
      | some t =>
        if (match t.restore with
            | some r => r.rewind
            | none => false) then .done (s.wait .engine)
        else
          let fresh := t.bound == 0 && t.restore.isNone
          match s.streamPages s.dieOf t with
          | none => .done (s.answer rd (-6) len)
          | some pages =>
            if s.bits < t.chunkCount then .done (s.answer rd (-3) len)
            else
              let u := { t with pages := pages }
              s.openStream (if fresh && !t.swapped then { u with written := s.changedBlocks u } else u) pd rd len)

def execLopen (pd : BitVec 6) (rd rs1 : Reg) (s : State) : Out := (s.lopen pd rd (s.getX rs1) 4).out

/-- The binding ends; the instruction answers LPOS (R290). -/
def State.closeStream (s : State) (t : Stream) (rd : Reg) : State := ((s.unbindStream t.id).bindStream none).answer rd t.lpos 4

def execLclose (rd : Reg) (s : State) : Out := (s.onStream rd 4 (fun t => .done (s.closeStream t rd))).out

/-- `lclose.s`: it swaps the stream out once no block copy is pending, between the hart's earlier and later accesses (R279, R290). -/
def execLcloseS (rd : Reg) (s : State) : Out :=
  let s := s.settle
  (s.onStream rd 4 (fun t =>
    if 1 < t.bound then .done (s.answer rd (-3) 4)
    else if !t.copies.isEmpty then .done (s.wait .engine)
    else .done (((s.updateStream t.id (fun t => { t with swapped := true })).acquire).closeStream t rd))).out

/-! ### Forking (R291) -/

/-- `n` bytes as the address side of the hart reads them. -/
def State.engineRecord (s : State) (a : Word) (n : Nat) : Option (List Byte) :=
  match collect ((List.range n).map (fun i => s.engineByte s.engineView (a + BitVec.ofNat 64 i))) with
  | .ok bs => some bs
  | .error _ => none

/-- The first tokens of a log. -/
def State.logTokens (s : State) (t : Stream) (n : Nat) : List Nat := (List.range n).map (fun i => s.logToken t (i + 1))

/-- The child stream of a fork: the parent's cairns, no pins, its own memory; its live segments come from the parent's last cairn. -/
def State.forkStream (s : State) (parent child : Stream) (id : Nat) (pd : BitVec 6) : State :=
  let n := parent.lpos
  let c := { child with id := id, cairns := parent.cairns, lpos := n, llen := n }
  let log := s.logTokens parent n
  let s1 := { s with streams := s.streams ++ [{ c with restore := s.startRestore c n pd (some n) false }] }
  let s2 := (log.zipIdx).foldl (fun s (p : Nat × Nat) => s.ladderWrite c (c.logbase + 4 * p.2) (natLe 4 p.1)) s1
  (s2.reportLost parent.id (s.logRetired parent 1 n)).reportLost id (s.logRetired c 1 n)

/-- `lfork` (R291), after the hart's earlier accesses (R279); the vector queue's later instructions wait for its status. -/
def execLfork (pd : BitVec 6) (rd rs1 : Reg) (s : State) : Out :=
  (check (s.absent [] [pd.toNat] []) s
    ((s.settle.startAfresh 1).onStream rd 4 (fun t =>
      let s := s.settle.startAfresh 1
      let a := s.getX rs1
      let record := if a.toNat % 8 = 0 then (s.engineRecord a 512).bind (streamOfRecord s.hart.id.ctx s.hart.id.root) else none
      match record with
      | none => .done (s.answer rd (-6) 4)
      | some child =>
        match s.streamPages s.dieOf child with
        | none => .done (s.answer rd (-6) 4)
        | some pages =>
          if child.segs.map (fun p => p.2) ≠ t.segs.map (fun p => p.2) then .done (s.answer rd (-6) 4)
          else if child.logcap < t.lpos then .done (s.answer rd (-4) 4)
          else
            match s.freeStream s.dieOf with
            | none => .done (s.answer rd (-8) 4)
            | some id =>
              if s.bits < t.chunkCount then .done (s.answer rd (-3) 4)
              else .done ((((s.notePieces s.engineView a 512).forkStream t { child with pages := pages } id pd).clearBits pd t.chunkCount).answer rd id 4)))).out

/-! ### The ladder engine's steps -/

/-- The copy of block `chunk` of stream `item` is done (R280). -/
def execCairnBlockCopy (s : State) : Out :=
  .next (s.updateStream s.args.item (fun t => { t with copies := t.copies.filter (fun b => b != s.args.chunk) }))

/-- Whether a byte of physical memory was stored to while a restore was under way. -/
def Restore.wasStored (r : Restore) (pa : Nat) : Bool := r.stored.any (fun p => decide (p.1 ≤ pa) && decide (pa < p.1 + p.2))

/-- The bytes that a restore leaves from a physical address on: those of `content`, but each that was stored to while the restore was under way is
restored or as stored, which is a free value (R283, entry 10). -/
def State.restored (s : State) (r : Restore) (die pa : Nat) (content : List Byte) : List Byte :=
  if r.stored.isEmpty then content
  else content.zipIdx.map (fun (q : Byte × Nat) =>
    if r.wasStored (pa + q.2) && !Config.badChunkByteWritten s.ticks (pa + q.2) then s.byteAt die (pa + q.2) else q.1)

/-- A block restored; it is then as the cairn has it, or written since, where an error left zeros in its place or a store met the restore (R280,
R283, R284). -/
def State.restoreBlock (s : State) (t : Stream) (r : Restore) (good : Bool) (content : List Byte) (b : Nat) : State :=
  let pa := t.pa (segBlock t.segs b)
  let whole := good && (r.stored.isEmpty || !(List.range 4096).any (fun i => r.wasStored (pa + i)))
  (s.ladderWrite t (segBlock t.segs b) (s.restored r (streamDie t.id) pa content)).updateStream t.id (fun t =>
    { t with written := if whole then t.written.filter (fun w => w != b) else if t.written.contains b then t.written else b :: t.written })

/-- The bytes of a block of the store. -/
def State.storedBlock (s : State) (key : Nat) : List Byte :=
  Sparse.getList 0 (((s.cairnBlocks.find? (fun p => p.1 == key)).map (fun p => p.2)).getD []) 0 4096

/-- The blocks of chunk `c` of a stream. -/
def Stream.chunkBlocks (t : Stream) (c : Nat) : List Nat :=
  (List.range 16).filterMap (fun i => if 16 * c + i < t.blockCount then some (16 * c + i) else none)

/-- Whether chunk `c` of a restore meets a retired block where it writes (R284, R359). -/
def State.chunkRetired (s : State) (t : Stream) (r : Restore) (c : Nat) : Bool :=
  (t.chunkBlocks c).any (fun b => s.retiredAt (t.pa (segBlock t.segs b))) ||
    (c == 0 && r.exact.isSome && t.exws.any (fun a => s.retiredAt (t.pa a)))

/-- Chunk `c` of a restore: its blocks, zero after a persistent error, the exact-region words with chunk 0, then its bits (R238, R283,
R284). -/
def State.restoreChunk (s : State) (t : Stream) (r : Restore) (c : Nat) (good : Bool) : State :=
  let good := good && !s.chunkRetired t r c
  let s1 := (t.chunkBlocks c).foldl (fun s b =>
    s.restoreBlock t r good (if good then s.storedBlock ((r.blocks[b]?).getD 0) else List.replicate 4096 0) b) s
  let s2 := match c, r.exact with
    | 0, some v => t.exws.foldl (fun (s : State) (a : Nat) => s.ladderWrite t a (natLe 8 v)) s1
    | _, _ => s1
  let rest := r.chunks.filter (fun k => k != c)
  let s3 := s2.updateStream t.id (fun t =>
    { t with bad := t.bad || !good, restore := if rest.isEmpty then none else some { r with chunks := rest } })
  r.reports.foldl (fun s p => s.setChunkBit p.1 p.2 c) s3

/-- Chunk `chunk` of the restore of stream `item`; `good` is false when it met a persistent uncorrectable error (R284). -/
def execLadderRestoreChunk (s : State) : Out :=
  match s.findStream s.args.item with
  | none => .next s
  | some t =>
    match t.restore with
    | some r => .next (if r.chunks.contains s.args.chunk then s.restoreChunk t r s.args.chunk s.args.good else s)
    | none => .next s

end Sys2Proof.Machine
end

