-- ==== Sys2Proof/Machine/Placement.lean ====
section
/-! DEFINITION. Blocks of lanes and scalar data partitions: which ones a hart receives (R18, R20, R94). -/

namespace Sys2Proof.Machine

/-- Whether a block meets none of those in use. -/
def blockFree (used : List (Nat × Nat)) (f l : Nat) : Bool := used.all (fun b => decide (f + l ≤ b.1) || decide (b.1 + b.2 ≤ f))

/-- The block that a hart of `l` lanes receives, by the preferences of R20. -/
def freeBlock (used : List (Nat × Nat)) (l : Nat) : Option Nat :=
  if l = 4 then
    match (List.range 8).find? (fun i => blockFree used (4 * i) 4 && used.contains (4 * (if i % 2 = 0 then i + 1 else i - 1), 4)) with
    | some i => some (4 * i)
    | none => ((List.range 4).find? (fun k => blockFree used (8 * k) 8)).map (fun k => 8 * k)
  else if l = 8 ∨ l = 16 ∨ l = 32 then ((List.range (32 / l)).find? (fun k => blockFree used (l * k) l)).map (fun k => l * k)
  else none

/-- The blocks in use on a core; a parked hart holds none (R319). -/
def State.usedBlocks (s : State) (core : Nat) : List (Nat × Nat) :=
  (s.harts.filter (fun h => h.id.core == core && h.holdsLanes)).map (fun h => (h.id.first, h.id.lanes))

/-- The scalar data partition that goes with a block, in granules; empty when another hart of the core, `key` apart, holds part of
it (R94). -/
def State.blockPartition (s : State) (core key first lanes : Nat) : BitVec 6 × BitVec 7 :=
  let lo := 2 * first
  let hi := 2 * (first + lanes)
  if (s.partitionHolders core).any (fun h => h.key != key && rangesMeet lo hi h.priv.sdbase.toNat h.priv.sdlim.toNat) then (0, 0)
  else (BitVec.ofNat 6 lo, BitVec.ofNat 7 hi)

/-- A parked hart wakes on a block: the partition of that block, the message to the destination of its `hpark`, which retires
(R319). -/
def State.wakeOn (s : State) (h : Hart) (rd : Reg) (first : Nat) (message : Word) : State :=
  let part := s.blockPartition h.id.core h.key first h.id.lanes
  s.updateHart h.key (fun h =>
    let x := if rd = 0#5 then h.x else h.x.set rd.toNat message rd.isLt
    ({ h with id := { h.id with first := first }, priv := { h.priv with sdbase := part.1, sdlim := part.2 }, x := x } : Hart).retire 4)

end Sys2Proof.Machine
end

