-- ==== Sys2Proof/Machine/Effects.lean ====
section
/-! DEFINITION. Handler frames, performing, resumption tokens and pre-emption (R292 to R319), with the effects that fetch and
decoding raise. -/

namespace Sys2Proof.Machine

/-! ### Frames -/

/-- The spill slot of frame `f` written, where it can be: the hart's held stores there are older, and what it read there early is no longer so
(R230). -/
def State.writeSlot (s : State) (f : Nat) (bs : List Byte) : State :=
  match s.slotKey f with
  | .ok key =>
    let s1 := s.clearWay key bs.length
    s1.setMem (Sparse.setList 0 s1.mem key bs)
  | .error _ => s

/-- The bytes that a slot holds while its frame is in hardware, which the spec leaves open (R296). -/
def State.openSlot (s : State) (f : Nat) : List Byte :=
  (List.range 32).map (fun i => Config.frameSlotByte s.ticks (2 ^ 20 + 32 * f + i))

/-- The trap of a `hpush` whose spill slot lies outside the partition (R299): Protection of a store to the slot (R292, R294). -/
def State.slotTrap (s : State) : Option Trap :=
  let d := s.hart.eff.depth
  if d < 8 then none
  else if s.slotKey (d - 8) = .error effProtection then some (scalarTrap effProtection .store (s.spillAddr (d - 8)))
  else none

/-- The effect that the spill write of a `hpush` meets in the partition, if it makes one and that faults (R296, R359). -/
def State.spillFault (s : State) : Option (BitVec 16) :=
  let d := s.hart.eff.depth
  if d < 8 then none
  else match s.slotKey (d - 8) with
    | .ok _ => none
    | .error e => some e

/-- `hpush` (R299); a spill write into the partition that faults halts the hart (R296, R304). -/
def execHpush (rd rs1 rs2 : Reg) (s : State) : Out :=
  let range := s.getX rs1
  let target := s.getX rs2
  let lo : BitVec 16 := range.setWidth 16
  let hi : BitVec 16 := BitVec.ofNat 16 (range.toNat / 2 ^ 16)
  let e := s.hart.eff
  let d := e.depth
  (check (s.legalIf (decide (range.toNat < 2 ^ 32) && lo != 0 && !hi.ult lo && !target.getLsbD 0 && decide (d < 255))) s
    (check s.slotTrap s
    (match s.spillFault with
      | some id => .done (s.halt id)
      | none =>
        let f : Frame :=
          { serial := e.pushes + 1, lo := lo, hi := hi, link := BitVec.ofNat 8 e.srch, target := target &&& 0x00FFFFFFFFFFFFFE,
            priv := s.hart.priv.sup, rd := rd, exit := (s.hart.pc + 4) &&& 0x00FFFFFFFFFFFFFE, sp := s.getX 2 }
        let spilled := match e.frames[7]? with
          | some bottom => s.writeSlot (d - 8) bottom.bytes
          | none => s
        let pushed := spilled.setEff { e with frames := (f :: e.frames).take 8, pushes := e.pushes + 1, depth := d + 1, srch := d + 1 }
        .done (pushed.give rd 0 4)))).out

/-- Frame DEPTH − 1 is gone, the tokens that entered it are freed, and the deepest frame that hardware now holds is read back; or the effect
that that read meets (R296, R300). -/
def State.popOne (s : State) : Except (BitVec 16) State :=
  match s.hart.eff.frames with
  | [] => .ok s
  | f :: rest =>
    let d := s.hart.eff.depth - 1
    let freed := (s.writeSlot d (s.openSlot d)).freeRecords (fun t => t.frame == d && t.serial == f.serial)
    if 8 ≤ d then
      match s.getFrame (d - 8) with
      | .error e => .error e
      | .ok g => .ok (freed.setEff { freed.hart.eff with frames := rest ++ [g], depth := d })
    else .ok (freed.setEff { freed.hart.eff with frames := rest, depth := d })

/-- Frames popped from the top. -/
def State.popFrames (s : State) : Nat → Except (BitVec 16) State
  | 0 => .ok s
  | n + 1 =>
    match s.popOne with
    | .error e => .error e
    | .ok s => s.popFrames n

/-- `hpop` (R300). -/
def execHpop (s : State) : Out :=
  match s.hart.eff.frames with
  | [] => .next (s.deliver s.illegal)
  | f :: _ =>
    (check (s.legalIf (s.hart.eff.srch == s.hart.eff.depth && f.exit != 0)) s
      (check (if f.priv then s.needSup else none) s
        (match s.popOne with
          | .error e => .done (s.halt e)
          | .ok s' => .done ((s'.setEff { s'.hart.eff with srch := f.link.toNat }).retire 4)))).out

/-! ### Performing -/

/-- `perform` of an id with an argument, in an instruction of `len` bytes (R305). -/
def State.perform (s : State) (rd : Reg) (id arg : Word) (len : Nat) : State :=
  let n := id.toNat % 2 ^ 16
  if n = 0 ∨ (0x10 ≤ n ∧ n ≤ 0xFF) then s.deliver s.illegal
  else s.deliverAs (.plain (BitVec.ofNat 16 n) arg 0) 0 false (.after len rd) false

def execPerform (rd rs1 rs2 : Reg) (s : State) : Out := .next (s.perform rd (s.getX rs1) (s.getX rs2) 4)

/-- `vperform` (R305): with no active element below VL it raises nothing and writes zero. -/
def State.vperform (s : State) (pg : Nat) (rd : Reg) (id arg : Word) (len : Nat) : Result :=
  let pm := s.pred pg % 2 ^ s.hart.vec.vl
  let k := maskCount pm s.hart.vec.vl
  let n := id.toNat % 2 ^ 16
  check (s.absent [] [pg] []) s
    (if k = 0 then .done (s.give rd 0 len)
     else if n = 0 ∨ (0x10 ≤ n ∧ n ≤ 0xFF) then .trap s.illegal s
     else .done (s.deliverAs ⟨BitVec.ofNat 16 n, arg, BitVec.ofNat 64 k, pm, false⟩ 0 true (.after len rd) false))

def execVperform (pg : BitVec 4) (rd rs1 rs2 : Reg) (s : State) : Out :=
  (s.vperform pg.toNat rd (s.getX rs1) (s.getX rs2) 4).out

/-! ### Tokens -/

/-- What the check of a token finds (R309). -/
inductive TokenFound where
  | live (index : Nat) (t : Token) (f : Frame)
  | dead
  | spillFault (id : BitVec 16)
  deriving DecidableEq, Repr

/-- Whether the frame at an index holds a serial, or the effect that a spill read meets. -/
def State.holdsSerial (s : State) (f : Nat) (serial : BitVec 32) : Except (BitVec 16) Bool :=
  if s.hart.eff.depth ≤ f then .ok false else (s.getFrame f).map (fun fr => fr.serial == serial)

/-- The token of a value (R308, R309). -/
def State.findToken (s : State) (v : Word) : TokenFound :=
  let i := v.toNat % 64
  match s.hart.eff.tokens[i]? with
  | none => .dead
  | some t =>
    if v.toNat / 64 % 2 ^ 26 ≠ 0 ∨ t.kind = .free ∨ t.gen.toNat ≠ v.toNat / 2 ^ 32 then .dead
    else
      match s.holdsSerial t.frame t.serial, s.getFrame t.frame with
      | .ok true, .ok f =>
        if s.hart.eff.depth < t.depth then .dead
        else if t.depth = 0 then .live i t f
        else
          match s.holdsSerial (t.depth - 1) t.topSerial with
          | .ok true => .live i t f
          | .ok false => .dead
          | .error e => .spillFault e
      | .ok false, _ => .dead
      | .error e, _ => .spillFault e
      | .ok true, .error e => .spillFault e

/-- Address of record `i` of the hart (R308). -/
def State.recordAddr (s : State) (i : Nat) : Word := s.hart.eff.tokbase + BitVec.ofNat 64 (128 * i)

/-- The report of a record, or of `n` bytes of the Tarn from an address on, that lies in a retired block (R359). -/
def State.lostTarn (s : State) (a : Word) (n : Nat) (k : Acc) : Option Trap :=
  ((piecesOf a n).find? (fun p => s.retiredAt (Space.tarn s.hart.id.core (p.1.toNat - 0x7F0000000000)))).map
    (fun p => scalarTrap effUncorrectable k p.1)

/-- Runs `rest` on a token that passes its checks and whose record can be read (R309, R359), in the state in which the hart's stores to its
record stand. The spec names no argument of that report: the address and a load, DESIGN CHOICE, entry 27. -/
def State.withToken (s : State) (v : Word) (rest : State → Nat → Token → Frame → Result) : Result :=
  match s.findToken v with
  | .dead => .trap (.plain effDeadToken v 0) s
  | .spillFault e => .done (s.halt e)
  | .live i t f =>
    check (if f.priv then s.needSup else none) s
      (check (s.lostTarn (s.recordAddr i) 128 .load) s (rest (s.clearWay (s.recordKey i 0) 128) i t f))

/-- A front-end request that the supervisor ends without parking is declined: the job is passed over until the decline has
aged (R338). -/
def State.noteDecline (s : State) (t : Token) : State :=
  let e := s.hart.eff
  if t.cause.toNat % 2 ^ 22 = 2 * 2 ^ 20 + effPreempt.toNat ∧ e.lastFrontEnd ∧ ¬(e.ppend ∧ e.requester = 0xFF#8) then
    s.onDie s.dieOf (fun d => match d.request with
      | some (h, _) =>
        if h == s.hart.key then
          { d with request := none, declined := if d.declined.contains s.hart.id.job then d.declined else s.hart.id.job :: d.declined }
        else d
      | none => d)
  else s

/-- A dword of a token record. -/
def State.recordWord (s : State) (i off : Nat) : Word := leWord (Sparse.getList 0 s.mem (s.recordKey i off) 8)

/-! ### Captures (R312) -/

/-- The registers named by a mask, ascending. -/
def namedRegs (m : Nat) : List Reg := (maskIndices m 32).map (fun n => BitVec.ofNat 5 n)

/-- The predicates named by PCAP, ascending. -/
def namedPreds (m : Nat) : List Nat := (maskIndices m 51).filter (fun n => n != 0 && n != 48 && n != 49)

/-- Bytes of a capture. -/
def captureSize (lanes vcap pcap : Nat) : Nat :=
  512 + 512 * lanes * (namedPreds pcap).length + 4096 * lanes * (namedRegs vcap).length

/-- The offset of a Tarn address in its core's Tarn, when `n` bytes from it lie wholly there (R177). -/
def tarnOffset (a : Word) (n : Nat) : Option Nat :=
  let va := a.toNat
  if 0x7F0000000000 ≤ va ∧ va + n ≤ 0x7F0000F00000 then some (va - 0x7F0000000000) else none

/-- The lowest address of a capture that lies outside the Tarn. -/
def outsideTarn (a : Word) : Word :=
  if 0x7F0000000000 ≤ a.toNat ∧ a.toNat < 0x7F0000F00000 then 0x7F0000F00000 else a

/-- The first 512 bytes of a capture of the token in record `i`. -/
def State.captureHead (s : State) (i : Nat) : List Byte :=
  let h := s.hart
  let x (n : Nat) : Word := if 8 ≤ n ∧ n ≤ 11 then s.recordWord i (32 + 8 * (n - 8)) else s.getX (BitVec.ofNat 5 n)
  let loop (l : Loop) : List Byte := wordLe 8 l.count ++ wordLe 8 l.start ++ wordLe 8 l.stop ++ wordLe 8 l.armed
  (List.range 31).flatMap (fun n => wordLe 8 (x (n + 1))) ++
  wordLe 8 (s.recordWord i 64) ++ wordLe 8 (s.recordWord i 72) ++
  natLe 8 (bitAt h.vec.mz 1 + bitAt h.vec.ta 0) ++ natLe 8 h.fp.xcls.toNat ++ natLe 8 h.fp.frm.toNat ++
  (List.range 8).flatMap (fun k => natLe 8 (h.vec.tagWord k)) ++
  loop h.loop0 ++ loop h.loop1 ++ natLe 8 (bitAt h.loop1.close 1 + bitAt h.loop0.close 0) ++
  natLe 8 h.eff.vcap.toNat ++ natLe 8 h.eff.pcap.toNat ++ natLe 72 0

/-- The whole capture; a bound register is written as zeros. -/
def State.capture (s : State) (i : Nat) : List Byte :=
  let n := 4096 * s.lanes
  s.captureHead i ++
  (namedPreds s.hart.eff.pcap.toNat).flatMap (fun p => maskBytes (512 * s.lanes) (s.pred p)) ++
  (namedRegs s.hart.eff.vcap.toNat).flatMap (fun r =>
    if (s.bindingOf r).isSome then natLe n 0 else Sparse.getList 0 (s.image r) 0 n)

/-- `tkeep` (R312). -/
def execTkeep (rs1 rs2 : Reg) (s : State) : Out :=
  let a := s.getX rs2
  let vs := namedRegs s.hart.eff.vcap.toNat
  let ps := namedPreds s.hart.eff.pcap.toNat
  (check (s.absent vs ps []) s
    (s.withToken (s.getX rs1) (fun s i t _ =>
      check (if a.toNat % 64 = 0 then none else some (scalarTrap effMisaligned .store a)) s
        (match tarnOffset a (captureSize s.lanes s.hart.eff.vcap.toNat s.hart.eff.pcap.toNat) with
          | none => .trap (scalarTrap effProtection .store (outsideTarn a)) s
          | some off =>
            check (s.lostTarn a (captureSize s.lanes s.hart.eff.vcap.toNat s.hart.eff.pcap.toNat) .store) s
            (let core := s.hart.id.core
            let s := s.clearWay (Space.tarn core off) (captureSize s.lanes s.hart.eff.vcap.toNat s.hart.eff.pcap.toNat)
            let state := (s.recordWord i 88).toNat
            let m := Sparse.setList 0 s.mem (Space.tarn core off) (s.capture i)
            let m := Sparse.setList 0 m (s.recordKey i 80) (wordLe 8 a)
            let m := Sparse.setList 0 m (s.recordKey i 88) (natLe 8 (state / 8 * 8 + 4 + state % 2))
            let s := s.setMem m
            let tokens := s.hart.eff.tokens.setIfInBounds i { t with kind := .multiShot, capaddr := a }
            .done ((s.setEff { s.hart.eff with tokens := tokens }).retire 4)))))).out

/-- `tdrop` (R313). -/
def execTdrop (rs1 : Reg) (s : State) : Out :=
  (s.withToken (s.getX rs1) (fun s i _ _ => .done ((s.freeRecord i).retire 4))).out

/-- A dword of a capture. -/
def State.captureWord (s : State) (key off : Nat) : Word := leWord (Sparse.getList 0 s.mem (key + off) 8)

/-- A loop level as a capture holds it. -/
def State.captureLoop (s : State) (key off : Nat) (close : Bool) : Loop :=
  ⟨s.captureWord key off, s.captureWord key (off + 8) &&& 0x00FFFFFFFFFFFFFE, s.captureWord key (off + 16) &&& 0x00FFFFFFFFFFFFFE,
   s.captureWord key (off + 24) &&& 0x00FFFFFFFFFFFFFE, close⟩

/-- FRM as a capture holds it, its reserved bits read as zero (R1); a value that software put there and no write of FRM could is a free legal
one (entry 13). -/
def State.captureFrm (s : State) (key : Nat) : BitVec 3 :=
  let v := (s.captureWord key 280).toNat % 2 ^ 3
  if 1 ≤ v ∧ v ≤ 4 then BitVec.ofNat 3 v else BitVec.ofNat 3 (1 + (Config.freeWord s.ticks 0).toNat % 4)

/-- A VTAGS entry as a capture holds it, its reserved bits read as zero (R1, R140). Where software put one there that no write of VTAGS could
leave, the spec names no outcome: a reserved tag code is read as a free legal one, and an entry whose sidecar fields alone are illegal as its
tag without a sidecar: DESIGN CHOICE, entry 13. -/
def State.captureTag (s : State) (key : Nat) (r : Reg) : TagEntry :=
  match TagEntry.ofBits (leNat (Sparse.getList 0 s.mem (key + 288 + 2 * r.toNat) 2) &&& 0x1FDF) with
  | some t => if tagEntryWf r t.tag.code t.s t.b t.vsc then t else ⟨t.tag, false, false, 0⟩
  | none => ⟨(Tag.ofCode (BitVec.ofNat 5 ((Config.freeWord s.ticks (1 + r.toNat)).toNat % 16))).getD .nat8, false, false, 0⟩

/-- Predicates read back from a key on, each present and dirty. -/
def State.restorePreds (s : State) (key : Nat) : List Nat → State
  | [] => s
  | p :: ps =>
    let n := 512 * s.lanes
    let s1 := s.setPred p (leNat (Sparse.getList 0 s.mem key n))
    let v := s1.hart.vec
    (s1.setVec { v with ppresent := v.ppresent ||| BitVec.ofNat 51 (2 ^ p) }).restorePreds (key + n) ps

/-- Registers read back from a key on, each present and dirty; a bound one is left alone. The image is laid out by the hart's lanes as they
stand, also where it was captured before a lane reclaim, of which the spec says nothing: DESIGN CHOICE, entry 27. -/
def State.restoreRegs (s : State) (head key : Nat) : List Reg → State
  | [] => s
  | r :: rs =>
    let n := 4096 * s.lanes
    let s1 :=
      if (s.bindingOf r).isSome then s
      else
        let s1 := ((s.setTag r (s.captureTag head r)).setImage r (Sparse.setList 0 [] 0 (Sparse.getList 0 s.mem key n))).markDirty r
        let v := s1.hart.vec
        s1.setVec { v with present := v.present ||| BitVec.ofNat 32 (2 ^ r.toNat) }
    s1.restoreRegs head (key + n) rs

/-- A capture restored (R312): every field of it but VCAP and PCAP, which say what it holds; VL stays in matrix mode. -/
def State.restoreCapture (s : State) (key : Nat) : State :=
  let vcap := (s.captureWord key 424).toNat % 2 ^ 32
  let pcap := (s.captureWord key 432).toNat % 2 ^ 51
  let lstat := s.captureWord key 416
  let vpol := s.captureWord key 264
  let regs := (List.range 31).foldl (fun s n => s.setX (BitVec.ofNat 5 (n + 1)) (s.captureWord key (8 * n))) s
  let vl := if s.hart.mat.m then s.hart.vec.vl else (s.captureWord key 248).toNat
  let vstart := (s.captureWord key 256).toNat % 2 ^ 18
  let vec := regs.setVec { regs.hart.vec with vl := vl, vstart := vstart, mz := vpol.getLsbD 1, ta := vpol.getLsbD 0 }
  let fp := vec.setFp { vec.hart.fp with xcls := (s.captureWord key 272).setWidth 6, frm := s.captureFrm key }
  let loops := (fp.setLoop false (s.captureLoop key 352 (lstat.getLsbD 0))).setLoop true (s.captureLoop key 384 (lstat.getLsbD 1))
  let ps := namedPreds pcap
  (loops.restorePreds (key + 512) ps).restoreRegs key (key + 512 + 512 * s.lanes * ps.length) (namedRegs vcap)

/-- What a record gives back to a one-shot performer (R310). -/
def State.restoreRecord (s : State) (i : Nat) : State :=
  let regs := (((s.setX 8 (s.recordWord i 32)).setX 9 (s.recordWord i 40)).setX 10 (s.recordWord i 48)).setX 11 (s.recordWord i 56)
  let vl := if s.hart.mat.m then s.hart.vec.vl else (s.recordWord i 64).toNat
  regs.setVec { regs.hart.vec with vl := vl, vstart := (s.recordWord i 72).toNat % 2 ^ 18 }

/-- Where the capture of a token lies in `mem`. -/
def State.captureKey (s : State) (t : Token) : Nat := Space.tarn s.hart.id.core (t.capaddr.toNat - 0x7F0000000000)

/-- Bytes of the capture of a token, by what it says it holds (R312). -/
def State.captureBytes (s : State) (t : Token) : Nat :=
  captureSize s.lanes ((s.captureWord (s.captureKey t) 424).toNat % 2 ^ 32) ((s.captureWord (s.captureKey t) 432).toNat % 2 ^ 51)

/-- VL that a resumption would restore. -/
def State.resumeVl (s : State) (i : Nat) (t : Token) : Nat :=
  if t.kind = .multiShot then (s.captureWord (s.captureKey t) 248).toNat else (s.recordWord i 64).toNat

/-- The performer's own place: after its `perform`, which retires with the `resume`, or at EPC again (R99, R110, R310). -/
def State.continueAt (s : State) (t : Token) (v : Word) : State :=
  match t.resume with
  | .after len rd => ((s.count 2).setX rd v).onHart (fun h => h.loopTest (t.epc + BitVec.ofNat 64 len) false)
  | .again => (s.count 1).setPc t.epc
  | .underPf =>
    let s := s.count 1
    (s.setEff { s.hart.eff with underPf := true }).setPc t.epc

/-- What the token in a record withdrew from the hart's queues waits there again (R267, R317). -/
def State.rejoin (s : State) (i : Nat) : State :=
  { s with waits := s.waits.map (fun p => if p.hart == s.hart.key && p.token == some i then { p with token := none } else p) }

/-- `resume` of a token value with a value (R310). VL above 4096·L raises IllegalInstruction for a multi-shot token too, of which the spec
says nothing: DESIGN CHOICE, entry 27. -/
def State.resume (s : State) (token v : Word) : Result :=
  s.withToken token (fun s i t _ =>
    let s := if t.kind = .multiShot then s.clearWay (s.captureKey t) (s.captureBytes t) else s
    check (if t.kind = .multiShot then s.lostTarn t.capaddr (s.captureBytes t) .load else none) s
    (check (s.legalIf (s.hart.mat.m || decide (s.resumeVl i t ≤ 4096 * s.lanes))) s
      (match s.popFrames (s.hart.eff.depth - t.depth) with
        | .error e => .done (s.halt e)
        | .ok p =>
          let p := p.rejoin i
          let r := if t.kind = .multiShot then p.restoreCapture (s.captureKey t) else (p.restoreRecord i).freeRecord i
          let r := r.setEff { r.hart.eff with srch := t.srch, pmask := t.pmask }
          let r := r.setPriv { r.hart.priv with sup := t.sup }
          .done ((r.noteDecline t).continueAt t v))))

def execResume (rs1 rs2 : Reg) (s : State) : Out := (s.resume (s.getX rs1) (s.getX rs2)).out

/-- `abort` of a token value with a value (R311); an abort to the base frame ends the hart as `end` does (R297). -/
def State.abort (s : State) (token v : Word) : Result :=
  s.withToken token (fun s _ t f =>
    if f.exit = 0 && (!s.pends.isEmpty || s.hasTransfers s.hart.key) then .done (s.wait .finish)
    else
      match s.popFrames (s.hart.eff.depth - t.frame) with
      | .error e => .done (s.halt e)
      | .ok p =>
        let r := p.setEff { p.hart.eff with srch := f.link.toNat, depth := t.frame, pmask := t.pmask }
        let r := r.noteDecline t
        if f.exit = 0 then .done r.finish
        else
          let r := (((r.setX 2 f.sp).setX f.rd v).setPriv { r.hart.priv with sup := f.priv }).count 1
          .done (r.setPc f.exit))

def execAbort (rs1 rs2 : Reg) (s : State) : Out := (s.abort (s.getX rs1) (s.getX rs2)).out

/-! ### Pre-emption -/

/-- Whether a hart runs, for a request that names its slot (R316). -/
def Hart.isRunning (h : Hart) : Bool :=
  match h.cond with
  | .running | .waiting _ => true
  | _ => false

/-- `hpre` (R316). -/
def execHpre (rd rs1 rs2 : Reg) (s : State) : Out :=
  let message := s.getX rs2
  (check s.needSup s
    (.done (match s.hartInSlot (s.getX rs1) with
      | none => s.give rd 1 4
      | some v =>
        if !v.isRunning then s.give rd 1 4
        else if v.eff.ppend then s.give rd 3 4
        else
          let requester := BitVec.ofNat 8 s.hart.id.slot
          (s.updateHart v.key (fun h => { h with eff := { h.eff with ppend := true, message := message, requester := requester } })).give rd 0 4))).out

/-- What a waiting instruction asked for is withdrawn (R122, R130, R317). -/
def State.withdraw (s : State) : State :=
  let rank := s.hart.id.rank
  let key := s.hart.id.gangKey
  match s.hart.cond with
  | .waiting .bar => s.updateGang key (fun g => { g with arrived := g.arrived &&& ~~~(BitVec.ofNat 8 (2 ^ rank)) })
  | .waiting .setvlG => s.updateGang key (fun g => { g with issued := g.issued.filter (fun r => r.rank != rank) })
  | _ => s

/-- pf names the elements that an interrupted indexed instruction has not performed (R187, R317). -/
def State.unperformed (s : State) : State :=
  match s.hart.cond with
  | .waiting (.elements left _) =>
    (s.setVec { s.hart.vec with pf := left, vstart := 0 }).setEff { s.hart.eff with underPf := true }
  | _ => s

/-- The hart back at the oldest of its waiting instructions that nothing younger has acted past: it is the one that a pre-emption or its own
fault interrupts, and younger ones leave nothing (R136, R317). Those before it stay; where all have been passed, the hart stays where it is. -/
def State.backOut (s : State) : State :=
  match s.pends.find? (fun p => !p.acted) with
  | none => s
  | some p => ({ s with hart := p.before } : State).setPends (s.pends.filter (fun q => q.acted))

/-- Preempt taken by the hart whose turn it is (R317, R320, R338). An instruction that still waits in a queue, since a younger one has acted past it,
is withdrawn under the token and waits again from its `resume` on (R267, entry 24). -/
def State.takePreempt (s : State) : State :=
  let s := s.backOut
  let e := s.hart.eff
  let s := s.unperformed
  (s.withdraw).deliverAs ⟨effPreempt, e.message, e.requester.setWidth 64, if s.hart.eff.underPf then s.hart.vec.pf else 0, s.hart.eff.underPf⟩ 2
    false (if s.hart.eff.underPf then .underPf else .again) true

/-- The hart that the event names takes its pending pre-emption where it may (R317). -/
def execPreempt (s : State) : Out :=
  match s.focus s.args.hart with
  | some s => .next (if s.hart.preemptible then s.takePreempt else s)
  | none => .next s

/-- Everything but bound registers becomes absent (R319). -/
def State.dropContext (s : State) : State :=
  let v := s.hart.vec
  let keep := (List.range 32).foldl (fun m n => if (s.bindingOf (BitVec.ofNat 5 n)).isSome then m ||| 2 ^ n else m) 0
  let s := s.setVec { v with present := v.present &&& BitVec.ofNat 32 keep, ppresent := 0, dirty := 0, pdirty := 0, pf := 0, pe := 0 }
  s.setMat { s.hart.mat with present := 0, dirty := 0 }

/-- A request of the front end that finds its hart parked is journalled, and is over (R338). -/
def State.parkRequest (s : State) : State :=
  if s.hart.eff.ppend && s.hart.eff.requester == 0xFF#8 then
    let s1 := s.noTarget s.hart.id.job
    s1.setEff { s1.hart.eff with ppend := false }
  else s

/-- A pending reclaim at `hpark`: the lanes requested are what the hart will wake with, and tile rows beyond them are gone with theirs
(R224, R319). -/
def Hart.reclaimParked (h : Hart) : Hart :=
  if h.priv.reclaim.isNone then h
  else
    let g := h.reclaim
    { g with mat := { g.mat with acc0 := Sparse.below (2048 * g.id.lanes) g.mat.acc0, acc1 := Sparse.below (2048 * g.id.lanes) g.mat.acc1 } }

/-- `hpark` (R319, R320): it waits as `end` waits, then gives up its lanes. A reclaim that is pending is over here, in either mode, as R319 says
without a condition; what R222 and R224 say of matrix mode is of the reclaim within a `setvl` (DEDUCED, entry 42). -/
def execHpark (rd : Reg) (s : State) : Out :=
  (check s.needSup s
    (.done (if !s.pends.isEmpty || s.hasTransfers s.hart.key then s.wait .park
      else
        let s := (s.settle.parkRequest.requestOver s.hart.key).onHart Hart.reclaimParked
        (s.dropContext).setCond (.parked rd)))).out

/-- `hwake` (R319, R320): the hart goes on with as many lanes as it parked with. -/
def execHwake (rd rs1 rs2 : Reg) (s : State) : Out :=
  let message := s.getX rs2
  (check s.needSup s
    (.done (match s.hartInSlot (s.getX rs1) with
      | none => s.give rd 1 4
      | some v =>
        match v.cond with
        | .parked prd =>
          match freeBlock (s.usedBlocks s.hart.id.core) v.id.lanes with
          | none => s.give rd 2 4
          | some first => (s.wakeOn v prd first message).give rd 0 4
        | _ => s.give rd 1 4))).out

/-! ### Fetch and decoding -/

/-- The words at the pc decode to no instruction: IllegalInstruction (R1, R41 to R43). -/
def execIllegalInstruction (s : State) : Out := .next (s.deliver s.illegal)

/-- A parcel of the instruction at the pc could not be fetched: `effect` and `addr` name the lowest failing parcel (R28). -/
def execInstructionFetchFault (s : State) : Out :=
  .next (s.deliver (.plain s.args.effect s.args.addr (accessWord Acc.fetch.code false 0)))

end Sys2Proof.Machine
end

