-- ==== Sys2Proof/Machine/Queues.lean ====
section
/-! DEFINITION. Queues, the scan of the Summit core, acceptance of commands, placement and completion of jobs, and cross-die signals
(R20 to R24, R335 to R348, R366 to R368). -/

namespace Sys2Proof.Machine

/-! ### Accesses of a front end (R366) -/

/-- The view of a front end's accesses in a queue's context. -/
def frontView (die : Nat) (ctx : BitVec 16) (root : Nat) : View :=
  { core := 8 * (die % 4), die := die % 4, ctx := ctx, root := root, sup := false, window := none, engine := false }

/-- Where one region of a front-end access lands; the local region has no leaf. -/
def State.frontSpot (s : State) (v : View) (k : Acc) (a : Word) : Option Nat :=
  if a.toNat / 2 ^ 40 = 0x7F then none
  else
    match s.resolve v k a with
    | .ok (.local key) => some key
    | _ => none

/-- `n` bytes that a front end reads; none when an access faults. -/
def State.frontRead (s : State) (v : View) (a : Word) (n : Nat) : Option (List Byte) :=
  (piecesOf a n).foldl (fun (acc : Option (List Byte)) (p : Word × Nat) =>
    match acc, s.frontSpot v .load p.1 with
    | some bs, some key => some (bs ++ s.bytesAt v.die key p.2)
    | _, _ => none) (some [])

/-- Where `n` bytes that a front end is to write land, by pieces; none when an access faults. What was found so is written there, whatever the
tables say by then (R366). -/
def State.frontPlaces (s : State) (v : View) (a : Word) (n : Nat) : Option (List (Nat × Nat)) :=
  (piecesOf a n).foldr (fun p acc => match s.frontSpot v .store p.1, acc with
    | some key, some ks => some ((key, p.2) :: ks)
    | _, _ => none) (some [])

/-- Whether a front end can write `n` bytes. -/
def State.frontWritable (s : State) (v : View) (a : Word) (n : Nat) : Bool := (s.frontPlaces v a n).isSome

/-- Bytes that a front end writes at the places found for them, performed at module scope. -/
def State.putPlaces (s : State) (v : View) (ps : List (Nat × Nat)) (bs : List Byte) : State :=
  (ps.foldl (fun (acc : State × List Byte) (p : Nat × Nat) =>
    ((acc.1.noteStale v.die p.1 p.2).writeHome p.1 (acc.2.take p.2), acc.2.drop p.2)) (s, bs)).1

/-! ### Queue records (R335) -/

/-- Dword `k` of a queue's record. -/
def State.queueDword (s : State) (d q k : Nat) : Nat := s.getDword (Space.control d (64 * q + 8 * k))

def State.setQueueDword (s : State) (d q k v : Nat) : State := s.setDword (Space.control d (64 * q + 8 * k)) v

/-- The 64 bytes of a record. -/
def State.queueRecord (s : State) (d q : Nat) : List Byte := Sparse.getList 0 s.mem (Space.control d (64 * q)) 64

/-- The slot that holds a queue (R336). -/
def Die.slotFor (d : Die) (q : Nat) : Option Slot := d.slots.find? (fun e => e.queue == q)

/-- Dword `k` of the record that the Summit core goes by: the slot's copy of a mapped queue's, else the record itself (R336). -/
def State.slotDword (s : State) (d q k : Nat) : Nat :=
  match (s.die d).slotFor q with
  | some e => leNat ((e.record.drop (8 * k)).take 8)
  | none => s.queueDword d q k

/-- EN and PRIO as the record has them: the scan goes by these (R337). -/
def State.queueEnabled (s : State) (d q : Nat) : Bool := (s.queueDword d q 3).testBit 63
def State.scanPrio (s : State) (d q : Nat) : Nat := s.queueDword d q 3 / 2 ^ 48 % 8

/-- The fields that a queue's commands go by. -/
def State.queuePrio (s : State) (d q : Nat) : Nat := s.slotDword d q 3 / 2 ^ 48 % 8
def State.queueGang (s : State) (d q : Nat) : Nat := s.slotDword d q 3 / 2 ^ 16 % 2 ^ 16
def State.queueCtx (s : State) (d q : Nat) : BitVec 16 := BitVec.ofNat 16 (s.slotDword d q 3)
def State.queueRoot (s : State) (d q : Nat) : Nat := s.slotDword d q 4 % 2 ^ 52 / 2 ^ 20 * 2 ^ 20
def State.queueSupent (s : State) (d q : Nat) : Word := BitVec.ofNat 64 (s.slotDword d q 5 % 2 ^ 56 / 2 * 2)
def State.queueTail (s : State) (d q : Nat) : Nat := s.queueDword d q 1 % 2 ^ 32
def State.queueHead (s : State) (d q : Nat) : Nat := s.queueDword d q 2 % 2 ^ 32
def State.queueView (s : State) (d q : Nat) : View := frontView d (s.queueCtx d q) (s.queueRoot d q)

/-- Commands between HEAD and TAIL. -/
def State.queueDepth (s : State) (d q : Nat) : Nat := (s.queueTail d q + 2 ^ 32 - s.queueHead d q) % 2 ^ 32

/-- Whether a record's reserved fields are zero and LSIZE is 4 to 16. -/
def State.queueRecordOk (s : State) (d q : Nat) : Bool :=
  let w := s.queueDword d q
  let lsize := w 0 % 32
  decide (4 ≤ lsize) && decide (lsize ≤ 16) && decide (w 0 < 2 ^ 56) && w 0 / 32 % 2 == 0 && decide (w 1 < 2 ^ 32) &&
    decide (w 2 < 2 ^ 32) && w 3 / 2 ^ 32 % 2 ^ 16 == 0 && w 3 / 2 ^ 51 % 2 ^ 12 == 0 && decide (w 4 < 2 ^ 52) && w 4 % 2 ^ 20 == 0 &&
    decide (w 5 < 2 ^ 56) && w 5 % 2 == 0 && w 6 == 0 && w 7 == 0

/-- A queue disabled: EN := 0. -/
def State.disableQueue (s : State) (d q : Nat) : State := s.setQueueDword d q 3 (s.queueDword d q 3 % 2 ^ 63)

/-- A queue is disabled and its record journalled as failed (R335). HASH is taken of the record as it was found, EN still 1: the spec does not say
before or after; DESIGN CHOICE, entry 28. -/
def State.failQueue (s : State) (d q code : Nat) : State :=
  let s1 := (s.journalNew d q 0xFE (unitHash (s.queueRecord d q)) 0 .failed code).1
  (s1.disableQueue d q).onDie d (fun x => { x with pend := x.pend.filter (fun p => p != q) })

/-- The failure that a record itself shows: a reserved value, or a ring overrun (R335). -/
def State.queueFault (s : State) (d q : Nat) : Option Nat :=
  if !s.queueRecordOk d q then some failReserved
  else if 2 ^ (s.queueDword d q 0 % 32) < s.queueDepth d q then some failOverrun
  else none

/-! ### Job cards (R342 to R344) -/

/-- TAG, RM, slot area and OP of a reduction slot (R343). -/
def slotTag (w : Word) : Tag := (Tag.ofCode (w.extractLsb' 59 5)).getD .fp32
def slotMode (w : Word) : Mode := modeOf 1 (w.extractLsb' 56 3)
def slotAddr (w : Word) : Word := (w.extractLsb' 4 52).setWidth 64 <<< 4
def slotOp (w : Word) : BitVec 2 := w.extractLsb' 0 2

/-- Whether a reduction slot holds no reserved value (R343). -/
def slotOk (w : Word) : Bool :=
  (match Tag.ofCode (w.extractLsb' 59 5) with
    | some t => t.isInt || t == .fp32 || t == .fp16 || t == .bf16 || t == .fx96
    | none => false) &&
  decide (1 ≤ (w.extractLsb' 56 3).toNat) && decide ((w.extractLsb' 56 3).toNat ≤ 4) && w.extractLsb' 2 2 == 0#2 && slotOp w != 3#2

/-- Dword `k` of a card. -/
def cardDword (bs : List Byte) (k : Nat) : Nat := leNat ((bs.drop (8 * k)).take 8)

/-- NSLOT of a card. -/
def cardSlots (bs : List Byte) : Nat := cardDword bs 4 / 2 ^ 40 % 2 ^ 5

/-- The card at an address, with a grain and a minimum chunk of at least 1 (R342). -/
def cardOf (addr : Word) (bs : List Byte) : Card :=
  let d := cardDword bs
  { addr := addr, entry := BitVec.ofNat 64 (d 0), args := BitVec.ofNat 64 (d 1), trips := d 2, minchunk := max 1 (d 3 / 2 ^ 32),
    grain := max 1 (d 3 % 2 ^ 32), gangs := d 4 / 2 ^ 48,
    slots := (List.range (cardSlots bs)).map (fun k => BitVec.ofNat 64 (d (16 + k))), spread := (d 4).testBit 33, det := (d 4).testBit 32,
    lanes := d 4 / 2 ^ 8 % 2 ^ 6, harts := d 4 % 2 ^ 4, sv := (d 5).testBit 63, signal := d 5 % 2 ^ 14,
    sigval := BitVec.ofNat 64 (d 6) }

/-- Whether a card holds no reserved value and an even ENTRY (R342 to R344). -/
def cardOk (bs : List Byte) : Bool :=
  let d := cardDword bs
  let n := cardSlots bs
  decide (d 0 < 2 ^ 56) && d 0 % 2 == 0 && decide (1 ≤ d 2) && decide (d 2 ≤ 2 ^ 62) && decide (n ≤ 16) &&
    d 4 / 2 ^ 45 % 2 ^ 3 == 0 && d 4 / 2 ^ 34 % 2 ^ 6 == 0 && d 4 / 2 ^ 14 % 2 ^ 18 == 0 && d 4 / 2 ^ 4 % 2 ^ 4 == 0 &&
    d 5 % 2 ^ 63 / 2 ^ 14 == 0 && (List.range 9).all (fun i => d (7 + i) == 0) &&
    (List.range n).all (fun k => slotOk (BitVec.ofNat 64 (d (16 + k)))) && (List.range (16 - n)).all (fun k => d (16 + n + k) == 0)

/-- Whether a card's gang shape can be placed (R18, R19, R22). -/
def Card.shapeOk (c : Card) : Bool :=
  (c.lanes == 4 || c.lanes == 8 || c.lanes == 16 || c.lanes == 32) && decide (1 ≤ c.harts) && decide (c.harts ≤ 8) &&
    decide (c.harts * c.lanes ≤ 32) && decide (1 ≤ c.gangs)

/-! ### Units and commands (R339, R340, R368) -/

/-- Dword `k` of a 64-byte unit. -/
def unitDword (u : List Byte) (k : Nat) : Nat := leNat ((u.drop (8 * k)).take 8)

/-- IND of a unit's header. -/
def unitInd (u : List Byte) : Bool := (unitDword u 0).testBit 8

/-- Whether dwords `lo` to 7 are zero. -/
def unitZeroFrom (u : List Byte) (lo : Nat) : Bool := (List.range (8 - lo)).all (fun i => unitDword u (lo + i) == 0)

/-- Whether a STREAMADMIN unit's operands are admitted (R13, R339). -/
def adminOk (u : List Byte) : Bool :=
  let a := unitDword u 2
  let b := unitDword u 3
  match unitDword u 1 with
  | 1 | 2 | 6 | 7 => b == 0
  | 3 => b == 0 && a % 64 == 0 && decide (128 ≤ a) && decide (a ≤ 768)
  | 4 => true
  | 5 => decide (a < 2 ^ 16)
  | _ => false

/-- Whether a unit holds no reserved value and no operand that its OP does not name; `inBuffer` for a buffer command (R339). -/
def unitOk (u : List Byte) (inBuffer : Bool) : Bool :=
  let d := unitDword u
  let op := d 0 % 2 ^ 8
  if 2 ^ 9 ≤ d 0 then false
  else if unitInd u then
    op == 0 && !inBuffer && unitZeroFrom u 3 && d 1 % 64 == 0 && decide (1 ≤ d 2) && decide (d 2 ≤ 4096)
  else
    match op with
    | 0 | 6 => unitZeroFrom u 1
    | 1 => unitZeroFrom u 2 && d 1 % 256 == 0
    | 2 => unitZeroFrom u 6 && d 3 % 8 == 0 && d 4 % 2 ^ 63 / 2 ^ 14 == 0
    | 3 | 4 => unitZeroFrom u 3
    | 5 => unitZeroFrom u 5 && adminOk u
    | _ => false

/-- A command of a die, by its SEQ. -/
def State.findCommand (s : State) (d seq : Nat) : Option Command := (s.die d).commands.find? (fun c => c.seq == seq)

def State.updateCommand (s : State) (d seq : Nat) (f : Command → Command) : State :=
  s.onDie d (fun x => { x with commands := x.commands.map (fun c => if c.seq == seq then f c else c) })

def State.dropCommand (s : State) (d seq : Nat) : State :=
  s.onDie d (fun x => { x with commands := x.commands.filter (fun c => c.seq != seq) })

/-- An indirect command completes once its last buffer command has; it fails with the code of its lowest-numbered failed one (R368). -/
def State.finishParent (s : State) (d seq : Nat) : State :=
  match s.findCommand d seq with
  | none => s
  | some p =>
    if p.left.isEmpty && !(s.die d).commands.any (fun c => c.parent == some seq) then
      match p.fail with
      | none => (s.journalPhase d seq .completed 0).dropCommand d seq
      | some (_, code) => (s.journalPhase d seq .failed code).dropCommand d seq
    else s

/-- A buffer command's failure noted at its parent. -/
def State.noteFailure (s : State) (d : Nat) (parent : Option Nat) (seq code : Nat) : State :=
  match parent with
  | none => s
  | some p => s.updateCommand d p (fun c => match c.fail with
    | some (q, _) => if seq < q then { c with fail := some (seq, code) } else c
    | none => { c with fail := some (seq, code) })

/-- A command completes or fails, its parent with it when it was the last (R347, R368). -/
def State.finishCommand (s : State) (d : Nat) (c : Command) (phase : Phase) (code : Nat) : State :=
  let s1 := (s.journalPhase d c.seq phase code).dropCommand d c.seq
  let s2 := if c.phase = .accepted then s1.onDie d (fun x => { x with blocked := x.blocked.filter (fun q => q != c.queue) }) else s1
  let s3 := if phase = .failed then s2.noteFailure d c.parent c.seq code else s2
  match c.parent with
  | some p => s3.finishParent d p
  | none => s3

/-- A command starts; its queue is no longer BLOCKED by it. -/
def State.startCommand (s : State) (d : Nat) (c : Command) : State :=
  ((s.journalPhase d c.seq .started 0).updateCommand d c.seq (fun c => { c with phase := .started })).onDie d
    (fun x => { x with blocked := x.blocked.filter (fun q => q != c.queue) })

/-- A command that starts and completes at once. -/
def State.runCommand (s : State) (d : Nat) (c : Command) : State := (s.startCommand d c).finishCommand d c .completed 0

/-- Whether every earlier command of the queue has completed; an indirect command is not earlier than its own (R340, R368). -/
def State.earlierDone (s : State) (d : Nat) (c : Command) : Bool :=
  !(s.die d).commands.any (fun o => o.queue == c.queue && decide (o.seq < c.seq) && c.parent != some o.seq)

/-- The signal that a unit names when its id is checked at acceptance, for a WAIT or a COPY with V (R367). -/
def acceptSignal (u : List Byte) : Option Nat :=
  match unitDword u 0 % 2 ^ 8 with
  | 4 => some (unitDword u 1)
  | 2 => if (unitDword u 4).testBit 63 then some (unitDword u 4 % 2 ^ 14) else none
  | _ => none

/-- The card of a JOB as it is read at acceptance, or the code that its command fails with (R342, R344, R366, R367). -/
def State.readCard (s : State) (d q : Nat) (addr : Word) : Except Nat Card :=
  match s.frontRead (s.queueView d q) addr 256 with
  | none => .error failAccess
  | some bs =>
    let card := cardOf addr bs
    if !cardOk bs then .error failReserved
    else if !card.shapeOk then .error failShape
    else if card.sv && !s.ownsSignal card.signal (s.queueCtx d q) then .error failSignal
    else .ok card

/-- What a unit's acceptance finds: the code that its own words give, or the card of a JOB (R339, R342, R344, R367). -/
def State.acceptCheck (s : State) (d q : Nat) (u : List Byte) (inBuffer : Bool) : Except Nat (Option Card) :=
  if !unitOk u inBuffer then .error failReserved
  else if (match acceptSignal u with
      | some id => !s.ownsSignal id (s.queueCtx d q)
      | none => false) then .error failSignal
  else if unitDword u 0 % 2 ^ 9 = 1 then (s.readCard d q (BitVec.ofNat 64 (unitDword u 1))).map some
  else .ok none

/-- A unit accepted as a command of a queue; one that cannot be read, or that fails at acceptance, is journalled as failed (R339, R340, R344,
R366, R367). -/
def State.acceptUnit (s : State) (d q : Nat) (va : Word) (parent : Option Nat) : State :=
  let par := parent.getD 0
  let failed (op hash code : Nat) : State :=
    let r := s.journalNew d q op hash par .failed code
    let s1 := r.1.noteFailure d parent r.2 code
    match parent with
    | some p => s1.finishParent d p
    | none => s1
  match s.frontRead (s.queueView d q) va 64 with
  | none => failed 0xFF 0 failAccess
  | some u =>
    let op := unitDword u 0 % 2 ^ 8
    match s.acceptCheck d q u parent.isSome with
    | .error code => failed op (unitHash u) code
    | .ok card =>
      let r := s.journalNew d q op (unitHash u) par .accepted 0
      let c : Command :=
        { seq := r.2, queue := q, unit := u, card := card, phase := .accepted, parent := parent,
          left := if unitInd u then List.range (unitDword u 2) else [], fail := none }
      r.1.onDie d (fun x =>
        { x with commands := x.commands ++ [c],
                 blocked := if op = 4 && decide (s.getDword (signalKey (unitDword u 1)) < unitDword u 2) then q :: x.blocked else x.blocked })

/-- Whether a command of a queue is accepted and not started. -/
def State.accepting (s : State) (d q : Nat) : Bool := (s.die d).commands.any (fun c => c.queue == q && c.phase == .accepted && c.left.isEmpty)

/-- The next buffer command of an indirect command is accepted; the first starts the parent (R368). -/
def State.acceptChild (s : State) (d : Nat) (p : Command) : State :=
  match p.left with
  | [] => s
  | i :: rest =>
    let s1 := if p.phase = .accepted then s.startCommand d p else s
    (s1.updateCommand d p.seq (fun c => { c with left := rest })).acceptUnit d p.queue
      (BitVec.ofNat 64 (unitDword p.unit 1) + BitVec.ofNat 64 (64 * i)) (some p.seq)

/-- The indirect command of a queue with buffer commands left. -/
def State.openParent (s : State) (d q : Nat) : Option Command :=
  (s.die d).commands.find? (fun c => c.queue == q && !c.left.isEmpty)

/-- The next command of a mapped queue is accepted, once the one before has started (R340, R368). -/
def State.acceptNext (s : State) (d q : Nat) : State :=
  if s.accepting d q then s
  else
    match s.openParent d q with
    | some p => s.acceptChild d p
    | none =>
      if s.queueDepth d q = 0 then s
      else
        let w := s.slotDword d q 0
        let head := s.queueHead d q
        let va := BitVec.ofNat 64 (w % 2 ^ 56 / 64 * 64 + 64 * (head % 2 ^ (w % 32)))
        let s1 := (s.setQueueDword d q 2 ((head + 1) % 2 ^ 32)).acceptUnit d q va none
        match s1.openParent d q with
        | some p => s1.acceptChild d p
        | none => s1

/-! ### Mapping (R336) -/

/-- The number of the slot that a queue is mapped to. -/
def Die.slotOf (d : Die) (q : Nat) : Option Nat := (d.slotFor q).map (fun e => e.slot)

/-- The mapped queues that are unmapped with a queue: its whole queue gang. -/
def State.mappedWith (s : State) (d q : Nat) : List Nat :=
  let g := s.queueGang d q
  ((s.die d).slots.filter (fun e => e.queue == q || (g != 0 && s.queueGang d e.queue == g))).map (fun e => e.queue)

/-- Whether a queue can be unmapped: no command of it is being accepted or is unfinished, its jobs' among them (R336). -/
def State.queueIdle (s : State) (d q : Nat) : Bool := !(s.die d).commands.any (fun c => c.queue == q)

/-- The mapped queue that gives up its slot: idle with all its gang, of lowest PRIO below `p`, the lowest slot first, and none of those in
`keep` (R337). -/
def State.victimQueue (s : State) (d p : Nat) (keep : List Nat) : Option Nat :=
  let may := (s.die d).slots.filter (fun e => (s.mappedWith d e.queue).all (fun q =>
    s.queueIdle d q && decide (s.queuePrio d q < p) && !keep.contains q))
  (may.foldl (fun (best : Option Slot) (e : Slot) => match best with
    | none => some e
    | some b =>
      if s.queuePrio d e.queue < s.queuePrio d b.queue ∨ (s.queuePrio d e.queue = s.queuePrio d b.queue ∧ e.slot < b.slot) then some e
      else best) none).map (fun e => e.queue)

/-- Slots freed until `need` are free. -/
def State.freeSlots (s : State) (d p need : Nat) (keep : List Nat) : Nat → Option State
  | 0 => none
  | fuel + 1 =>
    if (s.die d).slots.length + need ≤ 64 then some s
    else
      match s.victimQueue d p keep with
      | none => none
      | some q =>
        let out := s.mappedWith d q
        (s.onDie d (fun x => { x with slots := x.slots.filter (fun e => !out.contains e.queue) })).freeSlots d p need keep fuel

/-- A queue takes the lowest free slot, with its record. -/
def Die.mapOne (d : Die) (q : Nat) (record : List Byte) : Die :=
  match (List.range 64).find? (fun i => !d.slots.any (fun e => e.slot == i)) with
  | some i => { d with slots := d.slots ++ [⟨i, q, record⟩] }
  | none => d

/-- The enabled queues that are mapped with a queue: its whole queue gang. -/
def State.enabledWith (s : State) (d q : Nat) : List Nat :=
  let g := s.queueGang d q
  if g = 0 then [q] else (List.range 4096).filter (fun o => s.queueEnabled d o && s.queueGang d o == g)

/-- A queue mapped, with its gang, where slots can be had (R336, R337). -/
def State.mapQueue (s : State) (d q p : Nat) : State :=
  let gang := s.enabledWith d q
  let new := gang.filter (fun o => ((s.die d).slotOf o).isNone)
  match s.freeSlots d p new.length gang 65 with
  | none => s
  | some s1 => s1.onDie d (fun x => new.foldl (fun x o => x.mapOne o (s.queueRecord d o)) x)

/-- The slot of a queue takes the record again while no command of the queue is under way (R336): the host may have written it while EN was
zero. When the copy follows the record is DESIGN CHOICE, entry 47. -/
def State.refreshSlot (s : State) (d q : Nat) : State :=
  if s.queueIdle d q then
    s.onDie d (fun x => { x with slots := x.slots.map (fun e => if e.queue == q then { e with record := s.queueRecord d q } else e) })
  else s

/-! ### Placement (R18 to R21, R88, R113, R177) -/

/-- A free block for each of `n` harts of `l` lanes, in rank order (R20). -/
def takeBlocks (l : Nat) : Nat → List (Nat × Nat) → Option (List Nat)
  | 0, _ => some []
  | n + 1, used =>
    match freeBlock used l with
    | none => none
    | some f => (takeBlocks l n ((f, l) :: used)).map (fun fs => f :: fs)

/-- The free hart slots of a core, lowest first. -/
def State.freeHartSlots (s : State) (core : Nat) : List Nat :=
  (List.range 8).filter (fun i => !s.harts.any (fun h => h.id.core == core && h.id.slot == i))

/-- What a core can give a gang: slots and blocks (R20, R177). -/
def State.coreFor (s : State) (j : Job) (core : Nat) : Option (List Nat × List Nat) :=
  if (s.harts.filter (fun h => h.id.core == core)).any (fun h => h.id.ctx != j.ctx) then none
  else
    let slots := s.freeHartSlots core
    if slots.length < j.card.harts then none
    else (takeBlocks j.card.lanes j.card.harts (s.usedBlocks core)).map (fun fs => (slots, fs))

/-- The base frame of a hart whose queue names a supervisor entry (R297). -/
def baseFrame (supent sp : Word) : Frame :=
  { serial := 1, lo := 1, hi := 0xFFFF, link := 0, target := supent, priv := true, rd := 0, exit := 0, sp := sp }

/-- A hart as the front end starts it (R88, R113, R139, R202, R297, R307). -/
def startedHart (j : Job) (id : HartId) (part : BitVec 6 × BitVec 7) (chunk : Nat × Nat) : Hart :=
  let sp : Word := 0x7F0100000000 + BitVec.ofNat 64 (4096 * part.2.toNat)
  let x := Vector.replicate 32 (0 : Word)
  let x := (x.set 2 sp).set 3 j.card.args
  let x := (x.set 4 (BitVec.ofNat 64 chunk.1)).set 5 (BitVec.ofNat 64 chunk.2)
  let x := (x.set 6 (BitVec.ofNat 64 id.rank)).set 7 (BitVec.ofNat 64 id.gang)
  let eff := { EffState.start with
    hsp := 0x7F0100000000 + BitVec.ofNat 64 (4096 * part.1.toNat), tokbase := 0x7F0000F00000 - BitVec.ofNat 64 (0x2000 * (id.slot + 1)) }
  let eff := if j.supent = 0 then eff
    else { eff with frames := [baseFrame j.supent sp], depth := 1, srch := 1, pushes := 1 }
  { Hart.vacant with id := id, cond := .running, pc := j.card.entry, x := x,
                     priv := ⟨false, j.card.det, none, part.1, part.2⟩, eff := eff }

/-- One hart of a gang placed. -/
def State.placeHart (s : State) (j : Job) (core slot first gang key rank : Nat) (chunk : Nat × Nat) : State :=
  let part := s.blockPartition core (8 * core + slot) first j.card.lanes
  let id : HartId := { core := core, slot := slot, rank := rank, nh := j.card.harts, gang := gang, first := first, lanes := j.card.lanes,
                       ctx := j.ctx, root := j.root, gangKey := key, job := j.key }
  { s with others := s.others ++ [startedHart j id part chunk] }

/-- The harts of a gang placed, in rank order. -/
def State.placeHarts (s : State) (j : Job) (core gang key : Nat) (chunk : Nat × Nat) : Nat → List Nat → List Nat → State
  | rank, slot :: slots, first :: firsts =>
    (s.placeHart j core slot first gang key rank chunk).placeHarts j core gang key chunk (rank + 1) slots firsts
  | _, _, _ => s

/-- Whether a core's previous hart had another context than a gang's (R177). -/
def State.tarnForeign (s : State) (core : Nat) (ctx : BitVec 16) : Bool :=
  match (s.module.tarnContext[core]?).getD none with
  | none => false
  | some was => was != ctx

/-- The Tarn of a core for a gang's context: zeroed when the core's previous hart had another (R177). -/
def State.readyTarn (s : State) (core : Nat) (ctx : BitVec 16) : State :=
  let s1 := if s.tarnForeign core ctx then
      s.setMem (s.mem.filter (fun p => !(decide (Space.tarn core 0 ≤ p.1) && decide (p.1 < Space.tarn core 0xF00000))))
    else s
  { s1 with module := { s1.module with tarnContext := s1.module.tarnContext.setIfInBounds core (some ctx) } }

/-- The `tarn` section of a job, copied once for each core before its first hart starts there, each stretch of it to its own offset in the Tarn,
so that sections that share a core leave each other's bytes alone (R53, R54, R177). -/
def State.copySection (s : State) (j : Job) (core : Nat) : State :=
  (s.module.tarnSections.filter (fun p => p.1 == j.ctx && p.2.1 == j.card.addr)).foldl (fun s p =>
    s.setMem (Sparse.setList 0 s.mem (Space.tarn core p.2.2.1) (p.2.2.2.take (0xF00000 - p.2.2.1)))) s

/-- The Tarn of a core as a gang of a job finds it: zeroed after another context, and with the job's section on the core's first gang of the
job, or again once it was zeroed (R53, R177). -/
def State.prepareTarn (s : State) (j : Job) (core : Nat) : State :=
  let again := s.tarnForeign core j.ctx
  let s1 := s.readyTarn core j.ctx
  if again || !j.tarnCores.contains core then s1.copySection j core else s1

/-- A gang placed whole on the lowest core that can take it; the job's command starts with its first gang, or with the first whose die reaches
the die of the command (R11, R20, R340; entry 34). None when it has to wait. -/
def State.placeGang (s : State) (j : Job) (die gang : Nat) : Option State :=
  match (List.range 8).findSome? (fun c => (s.coreFor j (8 * die + c)).map (fun r => (8 * die + c, r))) with
  | none => none
  | some (core, slots, firsts) =>
    let r := s.dealChunk j.key die
    let key := r.1.nextKey
    let g : Gang := { key := key, job := j.key, gen := 0, arrived := 0, issued := [], chunks := [], ended := [] }
    let s1 := { r.1 with nextKey := key + 1, gangs := r.1.gangs ++ [g] }
    let s2 := (s1.prepareTarn j core).placeHarts j core gang key r.2 0 slots firsts
    let s3 := s2.updateJob j.key (fun j =>
      { j with tarnCores := if j.tarnCores.contains core then j.tarnCores else core :: j.tarnCores,
               shares := j.shares.map (fun h => if h.die == die then { h with unplaced := h.unplaced.filter (fun g => g != gang) } else h) })
    some (match s3.findCommand j.die j.seq with
      | some c => if c.phase = .accepted && s3.linkUp die j.die then s3.startCommand j.die c else s3
      | none => s3)

/-- A gang that waits: its PRIO, slot, command and index. -/
structure Waiting where
  prio : Nat
  slot : Nat
  seq : Nat
  gang : Nat
  job : Job
  deriving DecidableEq, Repr

/-- Whether a waiting gang is considered no later than another (R337). -/
def Waiting.le (a b : Waiting) : Bool :=
  decide (b.prio < a.prio) ||
  (a.prio == b.prio && (decide (a.slot < b.slot) || (a.slot == b.slot && (decide (a.seq < b.seq) || (a.seq == b.seq && decide (a.gang ≤ b.gang))))))

/-- The gangs that wait on a die, in the order in which they are considered (R337). A gang of another die's SPREAD job has no slot here: it
stands after those of equal PRIO that have one, by SEQ: DESIGN CHOICE, entry 46. Every gang that is not placed counts as one that waits, a gang
that a core could take at once among them, which the spec does not say: DESIGN CHOICE, entry 28. -/
def State.waitingGangs (s : State) (die : Nat) : List Waiting :=
  sortBy Waiting.le (s.jobs.flatMap (fun j => (j.shares.filter (fun h => h.die == die)).flatMap (fun h => h.unplaced.map (fun g =>
    { prio := j.prio, slot := if j.die = die then ((s.die die).slotOf j.queue).getD 64 else 64, seq := j.seq, gang := g, job := j : Waiting }))))

/-- The first gang that can be placed; one that cannot blocks those of lower PRIO (R337). -/
def State.placeFirst (s : State) (die : Nat) (block : Nat) : List Waiting → State
  | [] => s
  | w :: ws =>
    if w.prio < block then s
    else
      match s.placeGang w.job die w.gang with
      | some t => t
      | none => s.placeFirst die (max block w.prio) ws

/-- The front end of die `die` places the next waiting gang that has room (R20). -/
def execPlaceGang (s : State) : Out := .next (s.placeFirst (s.args.die % 4) 0 (s.waitingGangs (s.args.die % 4)))

/-! ### Front-end pre-emption and waking (R337, R338) -/

/-- The message of a front-end request for a waiting queue (R338). -/
def requestMessage (prio q : Nat) : Word := BitVec.ofNat 64 (2 ^ 63 + prio * 2 ^ 48 + q)

/-- The jobs with harts on a die, of lowest PRIO first. -/
def State.jobsOn (s : State) (die : Nat) : List Job :=
  sortBy (fun a b => decide (a.prio < b.prio) || (a.prio == b.prio && decide (a.key ≤ b.key)))
    (s.jobs.filter (fun j => s.harts.any (fun h => h.id.job == j.key && h.id.core / 8 == die)))

/-- A hart of a job that a request finds running (R316). -/
def State.requestTarget (s : State) (die : Nat) (j : Job) : Option Nat :=
  (s.harts.find? (fun h => h.id.job == j.key && h.id.core / 8 == die && h.isRunning && !h.eff.ppend)).map (fun h => h.key)

/-- The waiting gang that a request is for: the first of the highest PRIO whose queue has a supervisor entry (R337). -/
def State.requestGang (s : State) (die : Nat) : Option Waiting :=
  match s.waitingGangs die with
  | [] => none
  | w :: ws => (w :: ws).find? (fun v => v.prio == w.prio && v.job.supent != 0)

/-- The front end asks one hart of the lowest-PRIO job that has a supervisor to give way to a waiting queue (R337, R338). -/
def State.frontPreempt (s : State) (die : Nat) : State :=
  match s.requestGang die with
  | none => s
  | some w =>
    let d := s.die die
    if d.request.isSome then s
    else
      let js := (s.jobsOn die).filter (fun j => decide (j.prio < w.prio) && j.supent != 0 && !d.declined.contains j.key)
      match js.findSome? (fun j => (s.requestTarget die j).map (fun k => (k, j.key))) with
      | none => s
      | some (k, job) =>
        (s.updateHart k (fun h =>
          { h with eff := { h.eff with ppend := true, message := requestMessage w.prio w.job.queue, requester := 0xFF } })).onDie die
          (fun d => { d with request := some (k, job) })

/-- PRIO of the queue of a hart. -/
def State.hartPrio (s : State) (h : Hart) : Nat := ((s.findJob h.id.job).map (fun j => j.prio)).getD 0

/-- A parked hart whose last Preempt came from the front end wakes when no gang of higher PRIO waits and a block is free (R338). -/
def State.frontWake (s : State) (die key : Nat) : State :=
  match s.findHart key with
  | none => s
  | some h =>
    match h.cond with
    | .parked rd =>
      if !h.eff.lastFrontEnd || (s.waitingGangs die).any (fun w => decide (s.hartPrio h < w.prio)) then s
      else
        match freeBlock (s.usedBlocks h.id.core) h.id.lanes with
        | some first => s.wakeOn h rd first 0x8000000000000000
        | none => s
    | _ => s

/-! ### The scan (R337) -/

/-- A queue considered: a bad record disables it; a mapped one has its next command accepted, one each time it is considered, where the rule speaks
of its commands (R337): DESIGN CHOICE, entry 28. -/
def State.considerQueue (s : State) (d p q : Nat) : State :=
  match s.queueFault d q with
  | some code => s.failQueue d q code
  | none =>
    let s1 := if ((s.die d).slotOf q).isNone then s.mapQueue d q p else s.refreshSlot d q
    if ((s1.die d).slotOf q).isNone then s1
    else
      let s2 := (s1.acceptNext d q).onDie d (fun x => { x with last := x.last.setIfInBounds p q })
      if s2.queueDepth d q = 0 && (s2.openParent d q).isNone then s2.onDie d (fun x => { x with pend := x.pend.filter (fun o => o != q) })
      else s2

/-- The pending, enabled queues of a priority whose head command does not wait, round-robin after LAST. -/
def State.pendingAt (s : State) (d p : Nat) : List Nat :=
  let x := s.die d
  let qs := sortBy (fun a b => decide (a ≤ b))
    (x.pend.filter (fun q => s.queueEnabled d q && s.scanPrio d q == p && !x.blocked.contains q && !s.accepting d q))
  let last := (x.last[p]?).getD 0
  qs.filter (fun q => decide (last < q)) ++ qs.filter (fun q => decide (q ≤ last))

/-- How far a queue has got: HEAD, and the buffer commands still to accept. -/
def State.queueProgress (s : State) (d q : Nat) : Nat × Nat :=
  (s.queueHead d q, ((s.openParent d q).map (fun p => p.left.length)).getD 0)

/-- The loop of the scan at one priority: the next queue after LAST is considered, until none is left that can go on; one that cannot be
mapped is passed over (R337, entry 28). -/
def State.scanAt (s : State) (d p : Nat) : Nat → List Nat → State
  | 0, _ => s
  | fuel + 1, skip =>
    match (s.pendingAt d p).find? (fun q => !skip.contains q) with
    | none => s
    | some q =>
      let t := s.considerQueue d p q
      t.scanAt d p fuel (if t.queueProgress d q = s.queueProgress d q then q :: skip else skip)

/-- More turns than the loop of the scan can take. -/
def State.scanBound (s : State) (d : Nat) : Nat := (s.die d).pend.foldl (fun n q => n + (s.queueDepth d q + 1) * 4098) 1

/-- BLOCKED bits of queues whose WAIT is now satisfied are cleared. -/
def State.clearWaits (s : State) (d : Nat) : State :=
  let ok := (s.die d).commands.filter (fun c => c.phase == .accepted && c.op == 4 &&
    decide (unitDword c.unit 2 ≤ s.getDword (signalKey (unitDword c.unit 1))))
  s.onDie d (fun x => { x with blocked := x.blocked.filter (fun q => !ok.any (fun c => c.queue == q)) })

/-- One pass of the Summit core of die `die` over its queues, then its signals, requests and parked harts (R337, R338). -/
def execSummitScan (s : State) : Out :=
  let d := s.args.die % 4
  let s1 := [7, 6, 5, 4, 3, 2, 1, 0].foldl (fun s p => s.scanAt d p (s.scanBound d) []) s
  let s2 := (s1.clearWaits d).frontPreempt d
  .next (((s2.harts.filter (fun h => h.id.core / 8 == d)).map Hart.key).foldl (fun s k => s.frontWake d k) s2)

/-- The decline of job `item` on die `die` has aged 1 ms (R338). -/
def execDeclineDelay (s : State) : Out :=
  .next (s.onDie s.args.die (fun d => { d with declined := d.declined.filter (fun j => j != s.args.item) }))

/-! ### Completion (R23, R343, R344) -/

/-- ⊕ of a slot (R148, R343). -/
def slotJoin (op : BitVec 2) (m : Mode) (a b : Value) : Value :=
  if op = 0#2 then a.add m b else if op = 1#2 then a.min b else a.max b

/-- The exact combination of fx96 partials. -/
def fxJoin (op : BitVec 2) (a b : Int) : Int := if op = 0#2 then wrap96 (a + b) else if op = 1#2 then min a b else max a b

/-- Number of grains (R343). -/
def Card.grains (c : Card) : Nat := (c.trips + c.grain - 1) / c.grain

/-- The result of a slot from the codes of its initial value and partials (R85, R343). -/
def slotResult (w : Word) (codes : List Nat) : Nat :=
  let t := slotTag w
  match codes with
  | [] => 0
  | init :: parts =>
    if t = .fx96 then wrapInt 128 (parts.foldl (fun x c => fxJoin (slotOp w) x (signed 96 c)) (signed 96 init))
    else
      let m := slotMode w
      let f := slotJoin (slotOp w) m
      let r := joinAll t m f (Nat.log2 parts.length + 2) (parts.map (fun c => some (decodeElem t c)))
      match r.1 with
      | none => (roundTo t m false false (decodeElem t init)).code
      | some v => (roundTo t m false false (f (decodeElem t init) v)).code

/-- The result of a slot as the front end reads its area, and the places of its 16 bytes; none when a location cannot be read or written (R366). -/
def State.combineSlot (s : State) (v : View) (c : Card) (w : Word) : Option (List (Nat × Nat) × List Byte) :=
  let a := slotAddr w
  let width := (slotTag w).width
  match s.frontRead v a (16 * (c.grains + 1)) with
  | none => none
  | some bs =>
    (s.frontPlaces v a 16).map (fun ps =>
      (ps, natLe width (slotResult w ((List.range (c.grains + 1)).map (fun g => leNat ((bs.drop (16 * g)).take width))))))

/-- Every slot's result, or none. -/
def State.combineSlots (s : State) (v : View) (c : Card) : Option (List (List (Nat × Nat) × List Byte)) :=
  c.slots.foldr (fun w acc => match s.combineSlot v c w, acc with
    | some r, some rs => some (r :: rs)
    | _, _ => none) (some [])

/-- Whether every gang of a job has been placed and has ended. -/
def State.jobEnded (s : State) (j : Job) : Bool := j.shares.all (fun h => h.unplaced.isEmpty) && !s.gangs.any (fun g => g.job == j.key)

/-- Whether every die that takes a share of a job is reached from the die of its command (R11, R24, R360). -/
def State.sharesReached (s : State) (die : Nat) (card : Card) : Bool := !card.spread || [0, 1, 2, 3].all (fun d => s.linkUp die d)

/-- The job's end: failed by a link that is down before one of its dies, by a halted hart, by its slots or by a link that is down before its signal,
or completed with its results written and its signal added (R23, R343, R344, R360, R366, R367). That a die behind a dead link fails the job, and
does so before a halted hart of it, is entry 34. -/
def State.completeJob (s : State) (j : Job) : State :=
  let s1 := [0, 1, 2, 3].foldl (fun s d => s.drain d) s
  let v := frontView j.die j.ctx j.root
  let s2 := { s1 with jobs := s1.jobs.filter (fun o => o.key != j.key), stale := s1.stale.filter (fun r => s1.jobs.any (fun o => o.key != j.key && decide (o.key < r.1))) }
  match s2.findCommand j.die j.seq with
  | none => s2
  | some c =>
    if !s2.sharesReached j.die j.card then s2.finishCommand j.die c .failed failAccess
    else
    match j.failed with
    | some (id, epc) => (s2.journalHalt j.die j.seq id epc).finishCommand j.die c .failed failHalted
    | none =>
      match s2.combineSlots v j.card with
      | none => s2.finishCommand j.die c .failed failAccess
      | some rs =>
        let s3 := rs.foldl (fun s r => s.putPlaces v r.1 r.2) s2
        if !j.card.sv then s3.finishCommand j.die c .completed 0
        else if s3.ownsSignal j.card.signal j.ctx then
          if !s3.linkUp j.die (signalDie j.card.signal) then s3.finishCommand j.die c .failed failAccess
          else (s3.addSignal j.card.signal j.card.sigval.toNat).finishCommand j.die c .completed 0
        else s3.finishCommand j.die c .completed failSignal

/-- Job `item` completes once every gang has ended (R23). -/
def execJobCompletion (s : State) : Out :=
  match s.findJob s.args.item with
  | some j => .next (if s.jobEnded j then s.completeJob j else s)
  | none => .next s

/-- Die `die` of job `item`, with an empty range, takes the upper half of the largest undealt range; STEALS counts it where the die
reaches that of the command (R11, R345; entry 34). -/
def execSpreadSteal (s : State) : Out :=
  match s.findJob s.args.item with
  | none => .next s
  | some j =>
    let k := j.refill (s.args.die % 4) (s.linkUp (s.args.die % 4))
    let s1 := s.updateJob j.key (fun _ => k)
    .next (if k.steals = j.steals || !s.linkUp (s.args.die % 4) j.die then s1 else s1.journalSteals j.die j.seq k.steals)

/-! ### qsig and qwait (R346) -/

/-- The trap of a signal id that names no signal, one of another context, or one whose die cannot be reached (R346, R360). Protection and
MemoryUncorrectable have no address here, so their argument and extra word are free values. -/
def State.signalTrap (s : State) (id : Nat) : Option Trap :=
  if id < 2 ^ 14 ∧ (s.signalContext id).isSome then
    if !s.ownsSignal id s.hart.id.ctx then some (.plain effProtection (Config.freeWord s.ticks 0) (Config.freeWord s.ticks 1))
    else if !s.linkUp s.dieOf (signalDie id) then some (.plain effUncorrectable (Config.freeWord s.ticks 0) (Config.freeWord s.ticks 1))
    else none
  else some s.illegal

/-- `qsig`: every earlier access is performed at module scope, then v is added. -/
def State.qsig (s : State) (id v : Word) (len : Nat) : Result :=
  check (s.signalTrap id.toNat) s (.done (((s.settle.drain s.dieOf).addSignal id.toNat v.toNat).retire len))

/-- `qwait` that has issued: it goes on when the signal is at least v, and is then an acquire. -/
def State.qwait (s : State) (id v : Word) (len : Nat) : Result :=
  check (s.signalTrap id.toNat) s
    (.done (if v.toNat ≤ s.getDword (signalKey id.toNat) then s.acquire.retire len else s.wait (.qwait id.toNat v len)))

def execQsig (rs1 rs2 : Reg) (s : State) : Out := (s.qsig (s.getX rs1) (s.getX rs2) 4).out
def execQwait (rs1 rs2 : Reg) (s : State) : Out := (s.qwait (s.getX rs1) (s.getX rs2) 4).out

/-- A waiting `qwait` of hart `hart` goes on once its signal has reached its threshold (R346). -/
def execQwaitRelease (s : State) : Out :=
  match s.waiter with
  | some (s, .qwait id v len) => (s.qwait (BitVec.ofNat 64 id) v len).out
  | _ => .next s

end Sys2Proof.Machine
end

