-- ==== Sys2Proof/Machine/Commands.lean ====
section
/-! DEFINITION. The commands of a queue, one step each: what a started command does and when it completes (R339, R340, R342, R344,
R366, R367, R368). -/

namespace Sys2Proof.Machine

/-! ### The command of a step -/

/-- Die of the step. -/
def State.argDie (s : State) : Nat := s.args.die % 4

/-- The accepted command `item` of die `die`, when its OP is `op` and it is no indirect command. -/
def State.pickCommand (s : State) (op : Nat) : Option Command :=
  match s.findCommand s.argDie s.args.item with
  | some c => if c.phase == .accepted && !unitInd c.unit && c.op == op then some c else none
  | none => none

/-- A step of an accepted command; any other step of the kind changes nothing. -/
def State.withCommand (s : State) (op : Nat) (act : Command → State) : State :=
  match s.pickCommand op with
  | some c => act c
  | none => s

/-- Translation context of a command's queue, as its slot has it (R336). -/
def State.commandCtx (s : State) (c : Command) : BitVec 16 := s.queueCtx s.argDie c.queue

/-- A command failed. -/
def State.failCommand (s : State) (c : Command) (code : Nat) : State := s.finishCommand s.argDie c .failed code

/-! ### NOP, FENCE, SIGNAL, WAIT and indirect commands -/

/-- NOP (R339). -/
def execNop (s : State) : Out := .next (s.withCommand 0 (fun c => s.runCommand s.argDie c))

/-- FENCE starts once every earlier command of its queue has completed; what starts after it is ordered after their writes (R241, R340). -/
def execFenceCommand (s : State) : Out :=
  .next (s.withCommand 6 (fun c => if s.earlierDone s.argDie c then (s.drain s.argDie).runCommand s.argDie c else s))

/-- SIGNAL starts as FENCE does; its id is checked then, and the link to the signal's die (R340, R360, R366, R367). -/
def State.signalCommand (s : State) (c : Command) : State :=
  let id := unitDword c.unit 1
  if !s.earlierDone s.argDie c then s
  else if s.ownsSignal id (s.commandCtx c) then
    if !s.linkUp s.argDie (signalDie id) then s.failCommand c failAccess
    else (((s.drain s.argDie).startCommand s.argDie c).addSignal id (unitDword c.unit 2)).finishCommand s.argDie c .completed 0
  else s.failCommand c failSignal

def execSignal (s : State) : Out := .next (s.withCommand 3 s.signalCommand)

/-- WAIT starts once its signal is at least its threshold; it fails when the signal has been freed, or cannot be reached (R340, R360, R366,
R367). -/
def State.waitCommand (s : State) (c : Command) : State :=
  let id := unitDword c.unit 1
  if !s.ownsSignal id (s.commandCtx c) then s.failCommand c failSignal
  else if !s.linkUp s.argDie (signalDie id) then s.failCommand c failAccess
  else if unitDword c.unit 2 ≤ s.getDword (signalKey id) then s.runCommand s.argDie c
  else s

def execWait (s : State) : Out := .next (s.withCommand 4 s.waitCommand)

/-- The next buffer command of the indirect command `item` is accepted, once the one before has started (R368). -/
def execIndirect (s : State) : Out :=
  match s.findCommand s.argDie s.args.item with
  | some p => .next (if s.accepting s.argDie p.queue then s else s.acceptChild s.argDie p)
  | none => .next s

/-! ### JOB (R342, R344) -/

/-- First iteration of the share of die `d` under SPREAD; under DET it is a multiple of the grain or the end (R24). -/
def Card.shareStart (c : Card) (d : Nat) : Nat :=
  let b := d * (c.trips / 4) + min d (c.trips % 4)
  if c.det then min c.trips ((b + c.grain - 1) / c.grain * c.grain) else b

/-- The share of one die. Until it deals for the first time its last report is its whole share, which the spec does not say (R345): DESIGN CHOICE,
entry 28. -/
def Card.share (c : Card) (die lo hi : Nat) : Share :=
  { die := die, lo := lo, hi := hi, unplaced := List.range c.gangs, stopped := false, reported := hi - lo }

/-- The shares of a job launched on a die (R23, R24). -/
def Card.shares (c : Card) (die : Nat) : List Share :=
  if c.spread then (List.range 4).map (fun d => c.share d (c.shareStart d) (c.shareStart (d + 1))) else [c.share die 0 c.trips]

/-- A job of an accepted command; its gangs wait for placement, on each die that has a share. A share that has been given out stays, whatever
becomes of the link to its die; DESIGN CHOICE, entry 34. -/
def State.launch (s : State) (c : Command) (card : Card) : State :=
  let d := s.argDie
  let j : Job :=
    { key := s.nextKey, die := d, queue := c.queue, seq := c.seq, prio := s.queuePrio d c.queue, ctx := s.queueCtx d c.queue,
      root := s.queueRoot d c.queue, supent := s.queueSupent d c.queue, card := card, shares := card.shares d, steals := 0,
      tarnCores := [], failed := none }
  { s with jobs := s.jobs ++ [j], nextKey := s.nextKey + 1 }

/-- Whether a command has launched its job. -/
def State.launched (s : State) (d seq : Nat) : Bool := s.jobs.any (fun j => j.die == d && j.seq == seq)

/-- An accepted JOB launches: its gangs wait for placement (R340, R342). With SPREAD it fails when a die that takes a share cannot be reached: the
spec gives no code for that; DESIGN CHOICE, entry 34 (R24, R360). -/
def State.jobCommand (s : State) (c : Command) : State :=
  match c.card with
  | some card =>
    if s.launched s.argDie c.seq then s
    else if !s.sharesReached s.argDie card then s.failCommand c failAccess
    else s.launch c card
  | none => s

def execJob (s : State) : Out := .next (s.withCommand 1 s.jobCommand)

/-! ### COPY (R340, R366) -/

/-- The view of a COPY's chunk accesses, on the core whose channel it uses. -/
def State.copyView (s : State) (c : Command) (core : Nat) : View :=
  { s.queueView s.argDie c.queue with core := core, engine := true }

/-- Whether no COPY of the die that waits for a channel is served before this one: by PRIO, then in order of acceptance (R340). -/
def State.copyFirst (s : State) (c : Command) : Bool :=
  let d := s.argDie
  let p := s.queuePrio d c.queue
  !(s.die d).commands.any (fun o => o.phase == .accepted && o.op == 2 && (s.die d).blocked.contains o.queue && o.seq != c.seq &&
    (decide (p < s.queuePrio d o.queue) || (p == s.queuePrio d o.queue && decide (o.seq < c.seq))))

/-- A COPY starts on the lowest core of the die with a channel for it, or blocks its queue; a record that cannot be read or that holds a
reserved value fails it (R247, R339, R340, R366). What R248 asks of a `scopy` beyond that, of its chunks' number and its source, it does not. -/
def State.copyCommand (s : State) (c : Command) : State :=
  let d := s.argDie
  let u := unitDword c.unit
  match s.frontRead (s.queueView d c.queue) (BitVec.ofNat 64 (u 3)) 32 with
  | none => s.failCommand c failAccess
  | some bs =>
    let r (i : Nat) : Word := leWord ((bs.drop (8 * i)).take 8)
    let src := BitVec.ofNat 64 (u 2)
    if !recordFields (r 0) (r 1) (r 2) (r 3) then s.failCommand c failReserved
    else
      match (if s.copyFirst c then ((List.range 8).map (fun i => 8 * d + i)).find? (fun core => s.channelFor core 8) else none) with
      | none => s.onDie d (fun x => { x with blocked := if x.blocked.contains c.queue then x.blocked else c.queue :: x.blocked })
      | some core =>
        (((s.startCommand d c).startTransfer
          (transferOf s.nextKey (.copy d c.seq) (s.copyView c core) (BitVec.ofNat 64 (u 1)) src (r 0) (r 1))).grantChannel core 8)

def execCopy (s : State) : Out := .next (s.withCommand 2 s.copyCommand)

/-- The transfer of a COPY. -/
def State.copyTransfer (s : State) (d seq : Nat) : Option Transfer := s.transfers.find? (fun t => t.owner == .copy d seq)

/-- A COPY completes: with V its addition is a release at module scope, lost when the signal has been freed; one that cannot be reached fails
the COPY (R340, R347, R360, R366, R367). -/
def State.completeCopy (s : State) (c : Command) (t : Transfer) : State :=
  let d := s.argDie
  let s1 := { s with transfers := s.transfers.filter (fun u => u.key != t.key) }
  let bad := if t.badCount = 0 then 0 else failChunks
  let w := unitDword c.unit 4
  if !w.testBit 63 then s1.finishCommand d c .completed bad
  else
    let s2 := s1.drain d
    if s2.ownsSignal (w % 2 ^ 14) (s.commandCtx c) then
      if !s2.linkUp d (signalDie (w % 2 ^ 14)) then s2.finishCommand d c .failed failAccess
      else (s2.addSignal (w % 2 ^ 14) (unitDword c.unit 5)).finishCommand d c .completed bad
    else s2.finishCommand d c .completed (if bad = 0 then failSignal else bad)

/-- COPY `item` of die `die` completes once every chunk is performed (R340). -/
def execCopyComplete (s : State) : Out :=
  match s.findCommand s.argDie s.args.item, s.copyTransfer s.argDie s.args.item with
  | some c, some t => .next (if t.pending.isEmpty then s.completeCopy c t else s)
  | _, _ => .next s

/-! ### STREAMADMIN (R339, R366) -/

/-- What a subop answers: its result and the state with its effect; `none` for an access that fails the command. -/
abbrev Admin := Option (Int × State)

/-- A STREAMADMIN command of a subop: the place of its result is found first, then it acts, writes its result there and completes (R366). -/
def State.admin (s : State) (sub : Nat) (act : Command → Admin) : Out :=
  .next (s.withCommand 5 (fun c =>
    if unitDword c.unit 1 ≠ sub then s
    else
      let d := s.argDie
      let v := s.queueView d c.queue
      let a := BitVec.ofNat 64 (unitDword c.unit 4)
      match s.frontPlaces v a 8 with
      | none => s.failCommand c failAccess
      | some ps =>
        match act c with
        | none => s.failCommand c failAccess
        | some (r, t) => ((t.startCommand d c).putPlaces v ps (wordLe 8 (intWord r))).finishCommand d c .completed 0))

/-- Operands A and B. -/
def Command.operandA (c : Command) : Nat := unitDword c.unit 2
def Command.operandB (c : Command) : Nat := unitDword c.unit 3

/-- Create stream: −6 for a record that is invalid or whose memory breaks R274, −8 when the table is full (R273, R278). -/
def State.createStream (s : State) (c : Command) : Admin :=
  let d := s.argDie
  let a := c.operandA
  if a % 8 ≠ 0 then some (-6, s)
  else
    match s.frontRead (s.queueView d c.queue) (BitVec.ofNat 64 a) 512 with
    | none => none
    | some bs =>
      match streamOfRecord (s.queueCtx d c.queue) (s.queueRoot d c.queue) bs with
      | none => some (-6, s)
      | some t =>
        match s.streamPages d t, s.freeStream d with
        | none, _ => some (-6, s)
        | some _, none => some (-8, s)
        | some _, some id => some (id, { s with streams := s.streams ++ [{ t with id := id }] })

def execCreateStream (s : State) : Out := s.admin 1 s.createStream

/-- Whether a stream's live segments are still being filled by `lfork`. -/
def Stream.filling (t : Stream) : Bool :=
  match t.restore with
  | some r => !r.rewind && r.exact.isSome
  | none => false

/-- Destroy stream. -/
def State.destroyStream (s : State) (c : Command) : Admin :=
  match (s.streamsOf s.argDie).find? (fun t => t.id == c.operandA && t.ctx == s.commandCtx c) with
  | none => some (-2, s)
  | some t =>
    if t.bound != 0 || t.filling then some (-3, s)
    else some (0, ({ s with streams := s.streams.filter (fun u => u.id != t.id) } : State).sweepBlocks)

def execDestroyStream (s : State) : Out := s.admin 2 s.destroyStream

/-- Cairns are dropped, as pressure drops them, only when the tiers cannot take the blocks (R271). Where nothing is left to drop the blocks stay, more
than the tiers have: the spec is silent; DESIGN CHOICE, entry 19. -/
def State.fit (s : State) (die : Nat) : State := if s.cairnUsed die ≤ s.cairnTotal die then s else s.press die 0

/-- Cairn store size in MiB (R13, R271). -/
def execCairnStoreSize (s : State) : Out :=
  s.admin 3 (fun c => some (0, (s.onDie s.argDie (fun x => { x with storeMiB := c.operandA })).fit s.argDie))

/-- Sizes of the spill areas in MiB (R271). -/
def execSpillAreas (s : State) : Out :=
  s.admin 4 (fun c => some (0, (s.onDie s.argDie (fun x => { x with dramMiB := c.operandA, lpMiB := c.operandB })).press s.argDie 0))

/-- The die's translations of a context removed, for the region of an address or all (R176, R199). -/
def State.invalidate (s : State) (d : Nat) (ctx : BitVec 16) (va : Nat) : State :=
  s.onDie d (fun x => { x with tlb := x.tlb.filter (fun t => !(t.ctx == ctx && (va == 0 || t.region == va / 2 ^ 16))) })

def execInvalidate (s : State) : Out :=
  s.admin 5 (fun c => some (0, s.invalidate s.argDie (BitVec.ofNat 16 c.operandA) c.operandB))

/-- Allocate signal: the lowest free index of the die, or −8. -/
def State.allocateSignal (s : State) (c : Command) : Admin :=
  let d := s.argDie
  match (List.range 4096).find? (fun i => !(s.die d).signals.any (fun p => p.1 == i)) with
  | none => some (-8, s)
  | some i =>
    let id : Nat := d * 2 ^ 12 + i
    some (id, (s.onDie d (fun x => { x with signals := (i, s.commandCtx c) :: x.signals })).setDword (signalKey id) c.operandA)

def execAllocateSignal (s : State) : Out := s.admin 6 s.allocateSignal

/-- The WAIT commands that wait on a freed signal fail, on every die that its own reaches (R360, R367). -/
def State.failWaits (s : State) (id : Nat) : State :=
  ([0, 1, 2, 3].filter (fun d => s.linkUp d (signalDie id))).foldl (fun (s : State) (d : Nat) =>
    ((s.die d).commands.filter (fun c => c.phase == .accepted && c.op == 4 && unitDword c.unit 1 == id)).foldl
      (fun (s : State) (c : Command) => s.finishCommand d c .failed failSignal) s) s

/-- Whether a hart waits at `qwait` on a signal. -/
def Hart.waitsOn (h : Hart) (id : Nat) : Bool :=
  match h.cond with
  | .waiting (.qwait i _ _) => i == id
  | _ => false

/-- The harts that wait on a freed signal raise IllegalInstruction at once, on every die that the signal's reaches (R346, R360, R367); one with an
older instruction in its queues does so after it (R136). -/
def State.trapWaiters (s : State) (id : Nat) : State :=
  ((s.harts.filter (fun h => h.waitsOn id && s.linkUp (h.id.core / 8) (signalDie id))).map Hart.key).foldl (fun (s : State) (k : Nat) =>
    match s.focus k with
    | some t => if t.pends.isEmpty then t.deliver t.illegal else s
    | none => s) s

/-- Free signal: −2 when the id names no signal of the queue's context (R367); a signal behind a link that is down is not reached, and the
command fails (R360, entry 34). -/
def State.freeSignal (s : State) (c : Command) : Admin :=
  let id := c.operandA
  if !s.ownsSignal id (s.commandCtx c) then some (-2, s)
  else if !s.linkUp s.argDie (signalDie id) then none
  else
    let s1 := s.onDie (id / 2 ^ 12) (fun x => { x with signals := x.signals.filter (fun p => p.1 != id % 2 ^ 12) })
    some (0, (s1.failWaits id).trapWaiters id)

def execFreeSignal (s : State) : Out := s.admin 7 s.freeSignal

end Sys2Proof.Machine
end

