-- ==== Sys2Proof/Machine/Fabric.lean ====
section
/-! DEFINITION. What the fabric asks of the module: RDMA writes and reads under the memory and control keys, TAIL writes, atomics,
connections, and the transport's give-up (R335, R349 to R351, R353, R354). -/

namespace Sys2Proof.Machine

/-! ### Stages (R353) -/

/-- Whether the module answers on its ports. -/
def Stage.answers (g : Stage) : Bool :=
  match g with
  | .off | .held => false
  | .base | .verified | .full => true

/-- A request refused. -/
def State.refuse (s : State) : State := { s with module := { s.module with answer := [], refusedLast := true } }

/-- A request acknowledged, with the bytes it reads. -/
def State.acknowledge (s : State) (bs : List Byte) : State := { s with module := { s.module with answer := bs, refusedLast := false } }

/-- A request of the fabric: while reset is held or the main input is off nothing is reachable (R353, R362). -/
def State.request (s : State) (act : State) : Out := .next (if s.module.stage.answers then act else s)

/-! ### The control region (R350) -/

/-- Fields of the control region as a host write meets them. -/
inductive Area where
  | readWrite
  | readOnly
  | outside
  deriving DecidableEq, Repr

/-- The area that an offset lies in; HEAD of a queue record is read-only. -/
def areaOf (off : Nat) : Area :=
  if off < 0x40000 then (if 16 ≤ off % 64 ∧ off % 64 < 20 then .readOnly else .readWrite)
  else if off < 0x40010 then .readOnly
  else if 0x41000 ≤ off ∧ off < 0x49000 then .readOnly
  else if 0x60000 ≤ off ∧ off < 0x80080 then .readWrite
  else if 0x81000 ≤ off ∧ off < 0x81040 then .readOnly
  else if 0x84000 ≤ off ∧ off < 0x88000 then .readOnly
  else if 0x90000 ≤ off ∧ off < 0xA0000 then .readWrite
  else if 0x100000 ≤ off ∧ off < 0x120000 then .readOnly
  else .outside

/-- Whether an offset is served before stage 2, on die 0 alone: mailbox, identity, thermal readout, error log, JSEQ and JBASE (R353). -/
def servedEarly (off : Nat) : Bool :=
  (decide (0x40000 ≤ off) && decide (off < 0x40010)) || (decide (0x80000 ≤ off) && decide (off < 0x80080)) ||
  (decide (0x81000 ≤ off) && decide (off < 0x81040)) || (decide (0x84000 ≤ off) && decide (off < 0x88000)) ||
  (decide (0x100000 ≤ off) && decide (off < 0x120000))

/-- Whether every byte of a range of a die's control region is reachable. -/
def State.controlReach (s : State) (d off n : Nat) : Bool :=
  (List.range n).all (fun i => areaOf (off + i) != .outside && (s.module.stage == .full || (d == 0 && servedEarly (off + i))))

/-- The bits of a dword of a queue record, or of a remote window entry, that are not reserved (R335, R352). -/
def namedBits (off : Nat) : Nat :=
  if off < 0x40000 then
    match off % 64 / 8 with
    | 0 => 0x00FFFFFFFFFFFFDF
    | 1 | 2 => 0xFFFFFFFF
    | 3 => 0x80070000FFFFFFFF
    | 4 => 0x000FFFFFFFF00000
    | 5 => 0x00FFFFFFFFFFFFFE
    | _ => 0
  else if 0x60000 ≤ off ∧ off < 0x80000 then (if off % 32 / 8 = 0 then 0xF0000000FFFFFFFF else 2 ^ 64 - 1)
  else 2 ^ 64 - 1

/-- A byte of the control region as the host reads it: reserved bits read as zero (R1); JSEQ and JBASE are zero until memory is trained, and the layout of the thermal
readout is a free value (R348, R353, R363). -/
def State.controlByte (s : State) (d off : Nat) : Byte :=
  if 0x40000 ≤ off ∧ off < 0x40008 then
    (if s.module.trained then BitVec.ofNat 8 ((s.die d).jseq / 2 ^ (8 * (off - 0x40000))) else 0)
  else if 0x40008 ≤ off ∧ off < 0x40010 then
    (if s.module.trained then BitVec.ofNat 8 (journalBase d / 2 ^ (8 * (off - 0x40008))) else 0)
  else if 0x81000 ≤ off ∧ off < 0x81040 then
    Config.thermalReadout (s.dies.toList.flatMap (fun x => [x.junction, x.layer0, x.layer1])) (64 * d + (off - 0x81000))
  else Sparse.get 0 s.mem (Space.control d off) &&& BitVec.ofNat 8 (namedBits off / 2 ^ (8 * (off % 8)))

/-! ### TAIL (R335) -/

/-- A queue's TAIL has been written: an enabled queue that overruns its ring is disabled, else TAIL ≠ HEAD makes it pending. -/
def State.tailWritten (s : State) (d q : Nat) : State :=
  if s.queueEnabled d q && s.queueFault d q == some failOverrun then s.failQueue d q failOverrun
  else if s.queueDepth d q = 0 then s
  else s.onDie d (fun x => { x with pend := if x.pend.contains q then x.pend else q :: x.pend })

/-- The TAIL dword of queue `queue` of die `die` is written with `addr`, in one aligned 8-byte write (R335, R351). -/
def execTailWrite (s : State) : Out :=
  let d := s.args.die % 4
  let q := s.args.queue % 4096
  s.request (if s.module.stage = .full then ((s.setQueueDword d q 1 s.args.addr.toNat).tailWritten d q).acknowledge [] else s.refuse)

/-! ### Control writes (R350, R354) -/

/-- Bytes written one by one where the area takes them. -/
def State.putControl (s : State) (d : Nat) : Nat → List Byte → State
  | _, [] => s
  | off, b :: bs =>
    (if areaOf off = .readWrite then s.setMem (Sparse.set 0 s.mem (Space.control d off) b) else s).putControl d (off + 1) bs

/-- Whether `n` bytes from an offset meet the 8 bytes at another. -/
def touches (off n at_ : Nat) : Bool := decide (off < at_ + 8) && decide (at_ < off + n)

/-- The queues whose TAIL a write of `n` bytes meets. -/
def tailsIn (off n : Nat) : List Nat :=
  ((List.range (n / 64 + 2)).map (fun i => off / 64 + i)).filter (fun q => decide (q < 4096) && touches off n (64 * q + 8))

/-- The mailbox request of die 0 as it stands. -/
def State.mailbox (s : State) : List Byte := Sparse.getList 0 s.mem (Space.control 0 0x80000) 64

/-- The response of a request: its dwords 1 to 7, those without a meaning free, then dword 0 with its TAG and a status (R354). -/
def State.respond (s : State) (status : Int) (dwords : List Nat) : State :=
  let key := Space.control 0 0x80040
  let tag := leNat ((s.module.request.drop 4).take 4)
  let word (i : Nat) : List Byte := match dwords[i]? with
    | some v => natLe 8 v
    | none => wordLe 8 (Config.freeWord s.ticks i)
  let mem := Sparse.setList 0 s.mem (key + 8) ((List.range 7).flatMap word)
  { s.setMem (Sparse.setList 0 mem key (natLe 8 (tag * 2 ^ 32 + wrapInt 32 status))) with module := { s.module with request := [] } }

/-- A write of request dword 0 submits the request, unless one is unanswered; an OP that names no request gets −1 (R354). -/
def State.submit (s : State) : State :=
  if s.module.request ≠ [] then s
  else
    let u := s.mailbox
    let op := leNat (u.take 1)
    let s1 := { s with module := { s.module with request := u } }
    if 1 ≤ op ∧ op ≤ 7 then s1 else s1.respond (-1) []

/-- A write to a die's control region: TAIL dwords and the mailbox act, every other field keeps what is written. -/
def State.controlWrite (s : State) (d off : Nat) (bs : List Byte) : State :=
  let n := bs.length
  if !s.controlReach d off n then s.refuse
  else
    let s1 := s.putControl d off bs
    let s2 := (tailsIn off n).foldl (fun (s : State) (q : Nat) => s.tailWritten d q) s1
    (if d = 0 && touches off n 0x80000 then s2.submit else s2).acknowledge []

/-- A host write of `bytes` at `addr` of the control region of die `die` (R350). -/
def execControlRegionWrite (s : State) : Out := s.request (s.controlWrite (s.args.die % 4) s.args.addr.toNat s.args.bytes)

/-! ### RDMA under the memory key (R350, R351, R359) -/

/-- Whether `n` bytes at a physical address are backed and can be reached from a die. -/
def State.memoryReach (s : State) (d pa n : Nat) : Bool :=
  s.module.stage == .full && (piecesOf (BitVec.ofNat 64 pa) n).all (fun p =>
    let a := p.1.toNat
    backed a && backed (a + p.2 - 1) && !s.lost d a) && decide (pa + n ≤ 2 ^ 52)

/-- Whether `n` bytes lie in one die's journal, and it can be read: once memory is trained, in stage 2, or in stages 0 and 1 after a
shutdown (R353, R364). -/
def State.journalReach (s : State) (d pa n : Nat) : Bool :=
  s.module.trained && (s.module.stage == .full || (d == 0 && s.module.stage.answers && s.module.shutdown)) && inJournal pa &&
    inJournal (pa + n - 1) && homeOf pa == homeOf (pa + n - 1) && s.linkUp d (homeOf pa)

/-- A write under the memory key, performed at its home before the acknowledgement (R351). -/
def State.memoryWrite (s : State) (d pa : Nat) (bs : List Byte) : State :=
  if s.memoryReach d pa bs.length then ((s.noteStale d pa bs.length).writeHome pa bs).acknowledge [] else s.refuse

/-- An RDMA write of `bytes` at `addr` under a key of die `die`. -/
def execRdmaWrite (s : State) : Out :=
  let d := s.args.die % 4
  let a := s.args.addr.toNat
  s.request (if s.args.control then s.controlWrite d a s.args.bytes else s.memoryWrite d a s.args.bytes)

/-- A read under a key; it reads each byte at its home (R171). -/
def State.fabricRead (s : State) (d a n : Nat) (control : Bool) : State :=
  if control then
    (if s.controlReach d a n then s.acknowledge ((List.range n).map (fun i => s.controlByte d (a + i))) else s.refuse)
  else if s.memoryReach d a n || s.journalReach d a n then s.acknowledge (Sparse.getList 0 s.mem a n)
  else s.refuse

/-- An RDMA read of `count` bytes at `addr` under a key of die `die`. -/
def execRdmaRead (s : State) : Out := s.request (s.fabricRead (s.args.die % 4) s.args.addr.toNat s.args.count s.args.control)

/-! ### The transport (R349) -/

/-- Atomics from the fabric are refused. -/
def execFabricAtomic (s : State) : Out := s.request s.refuse

/-- A connection: reliable delivery is accepted, any other mode refused. -/
def execConnectionSetup (s : State) : Out :=
  s.request (match s.args.mode with
    | .rod | .rud =>
      let t := s.acknowledge []
      { t with module := { t.module with connections := t.module.connections ++ [s.args.mode] } }
    | .unreliable | .idempotent => s.refuse)

/-- Whether an access of a transfer to one of `n` bytes goes to a remote module: each region of a chunk is looked at, since a chunk may begin in
a page of this module and run into a remote one (R175, R251). -/
def State.remoteSpot (s : State) (t : Transfer) (k : Acc) (a : Word) (n : Nat) : Bool :=
  (piecesOf a n).any (fun p => match s.resolve t.view k p.1 with
    | .ok (.remote _ _) => true
    | _ => false)

/-- Whether a chunk reads a remote module. -/
def State.remoteSource (s : State) (t : Transfer) (c : Nat) : Bool :=
  match s.chunkSource t c with
  | some (a, n) => s.remoteSpot t .load a n
  | none => false

/-- Whether the header of an expand chunk comes from a remote module, or a part of it. -/
def State.remoteHeader (s : State) (t : Transfer) (c : Nat) : Bool :=
  match s.chunkSource t c with
  | some (a, _) => t.expand && s.remoteSpot t .load a 64
  | none => false

/-- A transfer whose chunk `c` the transport gave up on: a chunk of a remote module is bad, and with `header` its header has not arrived
either (R251, R349). -/
def State.giveUp (s : State) (t : Transfer) (c : Nat) (header : Bool) : Transfer :=
  if t.pending.contains c && (s.remoteSource t c || s.remoteSpot t .store (t.dst + BitVec.ofNat 64 (c * t.cs)) (t.chunkLen c)) then
    { t with gaveUp := c :: t.gaveUp, noHeader := if header && s.remoteHeader t c then c :: t.noHeader else t.noHeader }
  else t

/-- The transport gives up on a packet of chunk `chunk` of transfer `item`; `control` says that the packet held the chunk's header. -/
def execTransportGiveUp (s : State) : Out :=
  .next { s with transfers := s.transfers.map (fun t => if t.key == s.args.item then s.giveUp t s.args.chunk s.args.control else t) }

end Sys2Proof.Machine
end

