-- ==== Sys2Proof/Machine/Matrix.lean ====
section
/-! DEFINITION. Accumulator tiles and the matrix mode (R202 to R224). -/

namespace Sys2Proof.Machine

/-! ### Tiles -/

/-- The elements of a tile. -/
def MatState.acc (m : MatState) (tile : Bool) : Sparse Int := if tile then m.acc1 else m.acc0

/-- Elements of a tile replaced: it is no longer clear, and it is dirty (R203, R223). -/
def MatState.fill (m : MatState) (tile : Bool) (xs : Sparse Int) : MatState :=
  if tile then { m with acc1 := xs, nz1 := true, dirty := m.dirty ||| 2 } else { m with acc0 := xs, nz0 := true, dirty := m.dirty ||| 1 }

/-- A tile zeroed: clear, its AOVF bit 0, present and dirty (R203, R205, R223). -/
def MatState.clear (m : MatState) (tile : Bool) : MatState :=
  if tile then
    { m with acc1 := [], nz1 := false, aovf := m.aovf &&& 1, present := m.present ||| 2, dirty := m.dirty ||| 2 }
  else { m with acc0 := [], nz0 := false, aovf := m.aovf &&& 2, present := m.present ||| 1, dirty := m.dirty ||| 1 }

/-- X(t, i, j). -/
def MatState.x (m : MatState) (tile : Bool) (i j : Nat) : Int := Sparse.get 0 (m.acc tile) (256 * i + j)

/-- The anchor of a tile as a number. -/
def MatState.anchorInt (m : MatState) (tile : Bool) : Int := (m.anchor tile).toInt

/-- Check 4 of every matrix function: matrix mode (R206, R209). -/
def State.matrixIf (s : State) (ok : Bool) : Option Trap := s.legalIf (s.hart.mat.m && ok)

/-! ### Modes (R207, R208) -/

/-- Rows asked for by `mstart`. -/
def State.startRows (s : State) (rows : BitVec 8) (rs1 : Reg) : Nat := if rs1 = 0#5 then rows.toNat + 1 else (s.getX rs1).toNat

/-- Matrix mode at a shape, VL = MCOLS. -/
def State.shape (s : State) (rows cols : Nat) : State :=
  (s.setMat { s.hart.mat with m := true, rows := rows, cols := cols }).setVec { s.hart.vec with vl := cols, vstart := 0 }

/-- The shape fits the hart's lanes. -/
def State.rowsFit (s : State) (rows : Nat) : Bool := decide (0 < rows) && decide (rows ≤ 8 * s.lanes)

def execMstart (rows cols : BitVec 8) (rs1 : Reg) (s : State) : Out :=
  let r := s.startRows rows rs1
  (check (s.legalIf (s.rowsFit r)) s
    (.done (((s.shape r (cols.toNat + 1)).setMat
      ((({ s.hart.mat with m := true, rows := r, cols := cols.toNat + 1 } : MatState).clear false).clear true)).retire 4))).out

def execMstartKeep (rows cols : BitVec 8) (rs1 : Reg) (s : State) : Out :=
  let r := s.startRows rows rs1
  (check (s.legalIf (s.rowsFit r)) s
    (check (s.absent [] [] [false, true]) s (.done ((s.shape r (cols.toNat + 1)).retire 4)))).out

def execMstop (s : State) : Out :=
  (check (s.legalIf s.hart.mat.m) s
    (.done ((s.setMat ((({ s.hart.mat with m := false } : MatState).clear false).clear true)).retire 4))).out

/-! ### opa (R210 to R213) -/

/-- The rank of an operand's tag (R211). -/
def Tag.rank : Tag → Option Nat
  | .e2m1 => some 4
  | .e4m3 | .e5m2 | .int8 => some 2
  | .bf16 | .fp16 => some 1
  | _ => none

/-- Mop (R212). -/
def State.mop (s : State) (v : Reg) (mod : BitVec 3) (sz : BitVec 2) (n i : Nat) : Value := s.elem v (modIndex mod sz n i)

/-- A tag with no sidecar names none. -/
def TagEntry.sideOk (t : TagEntry) : Bool := !t.s || t.tag.hasSidecar

/-- Adds each rounded product of a row and a column; whether one saturated. -/
def sumProducts (anchor : Int) (neg : Bool) (xs ys : List Value) : Int × Bool :=
  (xs.zip ys).foldl (fun acc p =>
    let q := p.1.mul p.2
    let r := roundToAnchor (if neg then q.neg else q) anchor
    (acc.1 + r.1, acc.2 || r.2)) (0, false)

/-- The elements of a tile that `opa` writes, with what each becomes and whether a product saturated (R213). -/
def State.opaCells (s : State) (a : OpaArgs) (k : Nat) : List (Nat × Int × Bool) :=
  let m := s.hart.mat
  let anchor := m.anchorInt a.tile
  let cols := (maskIndices (s.pred a.pcol.toNat) m.cols).map (fun j =>
    (j, (List.range k).map (fun q => s.mop a.vs2 a.mod2 a.sz2 (k * m.cols) (k * j + q))))
  (maskIndices (s.pred a.prow.toNat) m.rows).flatMap (fun i =>
    let row := (List.range k).map (fun q => s.mop a.vs1 a.mod1 a.sz1 (k * m.rows) (k * i + q))
    cols.map (fun c =>
      let r := sumProducts anchor a.neg row c.2
      (256 * i + c.1, wrap96 (if a.dis then r.1 else m.x a.tile i c.1 + r.1), r.2)))

/-- The tile after `opa` (R213). -/
def State.opaTile (s : State) (a : OpaArgs) (k : Nat) : State :=
  let cells := s.opaCells a k
  let m := s.hart.mat
  let xs := cells.foldl (fun xs c => Sparse.set 0 xs c.1 c.2.1) (m.acc a.tile)
  let full := if cells.any (fun c => c.2.2) then (if a.tile then 2#2 else 1#2) else 0#2
  s.setMat { m.fill a.tile xs with aovf := m.aovf ||| full }

def execOpa (a : OpaArgs) (s : State) : Out :=
  let t1 := s.tagOf a.vs1
  let t2 := s.tagOf a.vs2
  let k := (t1.tag.rank).getD 0
  let legal := t1.tag.rank.isSome && t1.tag.rank == t2.tag.rank && t1.sideOk && t2.sideOk && s.sidecarsValid [a.vs1, a.vs2] &&
    s.vlFits (s.withSidecars [a.vs1, a.vs2]) && s.stripsFit (s.withSidecars [a.vs1]) (k * s.hart.mat.rows) &&
    s.stripsFit (s.withSidecars [a.vs2]) (k * s.hart.mat.cols)
  let bs := s.readBindings (s.withSidecars [a.vs1, a.vs2])
  (check (s.matrixIf legal) s
    (check (s.absent (s.withSidecars [a.vs1, a.vs2]) [a.prow.toNat, a.pcol.toNat] [a.tile]) s
      (match s.takeStrips bs with
        | .error (t, s') => .trap t s'
        | .ok s' => .done (((s'.opaTile a k).popStrips bs).retire 8)))).out

/-! ### resolve and acmp (R215, R216, R218) -/

/-- The index of a row or a column. -/
def State.tileIndex (s : State) (isImm : Bool) (idx : BitVec 8) (rs1 : Reg) : Nat :=
  if isImm then idx.toNat else (s.getX rs1).toNat

/-- Whether the index lies in the shape. -/
def State.indexOk (s : State) (col : Bool) (i : Nat) : Bool := decide (i < (if col then s.hart.mat.cols else s.hart.mat.rows))

/-- The length of a row or of a column. -/
def State.lineLength (s : State) (col : Bool) : Nat := if col then s.hart.mat.rows else s.hart.mat.cols

/-- X of element `e` of a row or a column. -/
def State.lineX (s : State) (tile col : Bool) (index e : Nat) : Int :=
  if col then s.hart.mat.x tile e index else s.hart.mat.x tile index e

/-- `resolve`'s destination, by Place with the line's length in place of VL (R216). -/
def State.resolveLine (s : State) (a : ResolveArgs) (index : Nat) : State :=
  let n := s.lineLength a.col
  let act := s.pred a.pg.toNat
  let es := activeFrom act 0 n
  let g : Gov := ⟨a.pg.toNat, act, a.rm, 8⟩
  if a.fx then s.placeCodes a.vd 0 n act (es.map (fun e => (e, wrapInt 128 (s.lineX a.tile a.col index e))))
  else
    s.placeRounded a.vd 0 n act (es.map (fun e =>
      s.rounded a.vd (s.mode g) a.sat e (fxValue (s.lineX a.tile a.col index e) (s.hart.mat.anchorInt a.tile), 0)))

def execResolve (a : ResolveArgs) (s : State) : Out :=
  let d := s.tagOf a.vd
  let i := s.tileIndex a.isImm a.idx a.rs1
  let legal := s.indexOk a.col i && s.writable (s.withSidecars [a.vd]) && s.vlFits (s.withSidecars [a.vd]) &&
    (if a.fx then d.tag == .fx96 else (d.tag == .fp32 || d.tag == .bf16 || d.tag == .int32) && !d.s)
  (check (s.matrixIf legal) s
    (check (s.absent (s.withSidecars [a.vd]) [a.pg.toNat] [a.tile]) s (.done (((s.resolveLine a i).vstart0).retire 8)))).out

/-- The comparison that a condition code names (R152, R218). -/
def ccOp (cc : BitVec 3) : VOp :=
  match cc.toNat with
  | 0 => .vcmpEq
  | 1 => .vcmpNe
  | 2 => .vcmpLt
  | 3 => .vcmpLe
  | 4 => .vcmpGt
  | _ => .vcmpGe

/-- PDIRTY's bit of a predicate set; p0 has none. -/
def State.markPred (s : State) (p : Nat) : State :=
  if p = 0 then s else s.setVec { s.hart.vec with pdirty := s.hart.vec.pdirty ||| BitVec.ofNat 51 (2 ^ p) }

/-- `acmp`'s destination with the flags of its comparisons (R218). -/
def State.compareLine (s : State) (a : AcmpArgs) (index : Nat) : State :=
  let n := s.lineLength a.col
  let act := s.pred a.pg.toNat
  let rs := (activeFrom act 0 n).map (fun e =>
    (e, opCompare (ccOp a.cc) (fxValue (s.lineX a.tile a.col index e) (s.hart.mat.anchorInt a.tile))
      (if a.zero then .zero false else s.elem a.vs1 e)))
  let new := rs.foldl (fun m p => setBit m p.1 p.2.1) 0
  ((s.placePred a.pd.toNat 0 n act new).raiseAll (rs.map (fun p => (p.1, p.2.2)))).markPred a.pd.toNat

def execAcmp (a : AcmpArgs) (s : State) : Out :=
  let i := s.tileIndex a.isImm a.idx a.rs1
  let reads := if a.zero then [] else [a.vs1]
  let legal := s.indexOk a.col i && s.noFx reads && s.sidecarsValid reads && s.vlFits (s.withSidecars reads) &&
    s.stripsFit (s.withSidecars reads) (s.lineLength a.col)
  let bs := s.readBindings (s.withSidecars reads)
  (check (s.matrixIf legal) s
    (check (s.absent (s.withSidecars reads) [a.pg.toNat, a.pd.toNat] [a.tile]) s
      (match s.takeStrips bs with
        | .error (t, s') => .trap t s'
        | .ok s' => .done ((((s'.compareLine a i).popStrips bs).vstart0).retire 8)))).out

/-! ### Storing and loading tiles (R219, R220) -/

/-- Where a row's bytes land, region by region, or the fault of the lowest region that faults (R175). -/
def State.rowSpots (s : State) (k : Acc) (base : Word) (b i : Nat) : Except Trap (List (Nat × Nat)) :=
  collect ((piecesOf (base + BitVec.ofNat 64 (256 * b * i)) (256 * b)).map (fun p =>
    match s.resolve s.vectorView k p.1 with
    | .error id => .error (.plain id p.1 (accessWord k.code true i))
    | .ok (.remote _ _) => .error (.plain effProtection p.1 (accessWord k.code true i))
    | .ok (.local key) => .ok (key, p.2)))

/-- The memory image of a row: S then C with the split free, or X (R69, R220). -/
def State.rowImage (s : State) (tile fx : Bool) (i : Nat) : List Byte :=
  (List.range 256).flatMap (fun j =>
    let x := s.hart.mat.x tile i j
    if fx then natLe 12 (wrapInt 96 x)
    else
      let c := (Config.carryWord s.ticks (256 * i + j)).toNat
      natLe 12 (wrapInt 96 (x - (c : Int))) ++ natLe 12 c)

/-- Bytes written where a row lands. -/
def State.writeRow (s : State) : List (Nat × Nat) → List Byte → State
  | [], _ => s
  | p :: ps, bs => (s.vectorWrite p.1 (bs.take p.2)).writeRow ps (bs.drop p.2)

/-- The X of an element of a raw image. -/
def rawX (bs : List Byte) (j : Nat) : Int :=
  let e := bs.drop (24 * j)
  wrap96 ((leNat (e.take 12) : Int) + (leNat ((e.drop 12).take 12) : Int))

/-- The pages a row touched. -/
def State.noteRow (s : State) (base : Word) (b i : Nat) : State :=
  (piecesOf (base + BitVec.ofNat 64 (256 * b * i)) (256 * b)).foldl (fun s p => s.noteUse s.vectorView p.1) s

/-- The rows from VSTART on in order: `perform` acts on each that is reached; the lowest that faults stops the rest, but for those
the machine had already performed (R189, R219). A turn that stops between rows leaves VSTART at the next row (R317). -/
def State.byRows (s : State) (k : Acc) (base : Word) (b : Nat) (perform : State → Nat → List (Nat × Nat) → State)
    (finish : State → State) : Result :=
  if base.toNat % 16 ≠ 0 then
    .trap (.plain effMisaligned base (accessWord k.code true 0)) (s.setVec { s.hart.vec with vstart := 0 })
  else
    let rows := ((List.range (8 * s.lanes)).filter (fun i => decide (s.hart.vec.vstart ≤ i))).map (fun i => (i, s.rowSpots k base b i))
    let fault := rows.findSome? (fun p => match p.2 with
      | .error t => some (p.1, t)
      | .ok _ => none)
    let stop := s.hart.vec.vstart + s.stopAfter
    let stops : Bool := 0 < s.stopAfter && s.stopAfter < rows.length && (match fault with
      | none => true
      | some (f, _) => decide (stop ≤ f))
    let reach (i : Nat) : Bool :=
      if stops then decide (i < stop)
      else match fault with
        | none => true
        | some (f, _) => decide (i < f) || Config.performsAbove s.ticks i
    let s1 := rows.foldl (fun s p => match p.2 with
      | .ok spots => if reach p.1 then perform (s.noteRow base b p.1) p.1 spots else s
      | .error _ => s) s
    if stops then .done ((s1.setVec { s1.hart.vec with vstart := stop }).wait .rows)
    else match fault with
    | none => .done ((finish s1).vstart0.retire 8)
    | some (f, t) => .trap { t with pm := 2 ^ f } (s1.setVec { s1.hart.vec with vstart := f })

/-- `accst.raw` and `accst.fx`. -/
def State.storeTile (s : State) (tile fx : Bool) (rs1 : Reg) : Result :=
  check (s.matrixIf true) s
    (check (s.absent [] [] [tile]) s
      (s.byRows .store (s.getX rs1) (if fx then 12 else 24) (fun s i spots => s.writeRow spots (s.rowImage tile fx i)) id))

def execAccstRaw (tile : Bool) (rs1 : Reg) (s : State) : Out := (s.storeTile tile false rs1).out
def execAccstFx (tile : Bool) (rs1 : Reg) (s : State) : Out := (s.storeTile tile true rs1).out

/-- A row loaded: the tile is not clear and is dirty as soon as one row has been (R203). -/
def State.loadRow (tile : Bool) (s : State) (i : Nat) (spots : List (Nat × Nat)) : State :=
  let bs := spots.flatMap (fun p => s.vectorBytes p.1 p.2)
  let s := s.sawVector spots
  let m := s.hart.mat
  s.setMat (m.fill tile ((List.range 256).foldl (fun xs j => Sparse.set 0 xs (256 * i + j) (rawX bs j)) (m.acc tile)))

/-- `accld.raw`: the tile is present once every row is loaded; it does not check presence (R219). -/
def execAccldRaw (tile : Bool) (rs1 : Reg) (s : State) : Out :=
  (check (s.matrixIf true) s
    (s.byRows .load (s.getX rs1) 24 (State.loadRow tile) (fun s =>
      s.setMat { s.hart.mat.fill tile (s.hart.mat.acc tile) with
        present := s.hart.mat.present ||| (if tile then 2 else 1) }))).out

/-! ### acczero and anchor (R221) -/

def execAcczero (tile both : Bool) (s : State) : Out :=
  let m := s.hart.mat
  (check (s.matrixIf true) s
    (.done ((s.setMat (if both then (m.clear false).clear true else m.clear tile)).retire 8))).out

def execAnchor (tile isImm : Bool) (imm : BitVec 8) (rs1 : Reg) (s : State) : Out :=
  let m := s.hart.mat
  let x := s.getX rs1
  let v := if isImm then imm else x.setWidth 8
  let fits := isImm || (decide (-126 ≤ x.toInt) && decide (x.toInt ≤ 127))
  (check (s.matrixIf (fits && s.anchorOk tile v)) s
    (check (s.absent [] [] [tile]) s
      (.done ((s.setMat (if tile then { m with anchor1 := v } else { m with anchor0 := v })).retire 8)))).out

end Sys2Proof.Machine
end

