-- ==== Sys2Proof/Machine/ScalarFp.lean ====
section
/-! DEFINITION. Scalar floating point (R105 to R107). -/

namespace Sys2Proof.Machine

/-- The tag of a scalar format (R105). -/
def fmtTag (fmt : BitVec 2) : Tag := if fmt = 0 then .fp32 else if fmt = 1 then .fp16 else .bf16

/-- Bits of a format. -/
def fmtBits (fmt : BitVec 2) : Nat := 8 * (fmtTag fmt).width

/-- The low bits of x(r) in the format. -/
def State.fpBits (s : State) (fmt : BitVec 2) (r : Reg) : Nat := (s.getX r).toNat % 2 ^ fmtBits fmt

/-- The decoded operand (R61, R105). -/
def State.fpValue (s : State) (fmt : BitVec 2) (r : Reg) : Value := decodeElem (fmtTag fmt) (s.fpBits fmt r)

/-- Rounds a result into the format, with its flags and those the operation adds (R105). -/
def State.fpGive (s : State) (a : FArgs) (y : Value) (extra : Flags) : Out :=
  let r := roundTo (fmtTag a.fmt) (modeOf s.hart.fp.frm a.rm) false false y
  .next (((s.raise (r.flags ||| extra)).give a.rd (BitVec.ofNat 64 r.code)) 4)

/-- The mode of a rounding operation. -/
def State.fpMode (s : State) (a : FArgs) : Mode := modeOf s.hart.fp.frm a.rm

def execFadd (a : FArgs) (s : State) : Out := s.fpGive a ((s.fpValue a.fmt a.rs1).add (s.fpMode a) (s.fpValue a.fmt a.rs2)) 0
def execFsub (a : FArgs) (s : State) : Out := s.fpGive a ((s.fpValue a.fmt a.rs1).sub (s.fpMode a) (s.fpValue a.fmt a.rs2)) 0
def execFmul (a : FArgs) (s : State) : Out := s.fpGive a ((s.fpValue a.fmt a.rs1).mul (s.fpValue a.fmt a.rs2)) 0
def execFdiv (a : FArgs) (s : State) : Out :=
  let q := (s.fpValue a.fmt a.rs1).div (s.fpValue a.fmt a.rs2)
  s.fpGive a q.1 q.2
def execFsqrt (a : FArgs) (s : State) : Out := s.fpGive a (s.fpValue a.fmt a.rs1).sqrt 0

/-- a × b + c with c the old x(rd) (R106). -/
def execFmadd (a : FArgs) (s : State) : Out :=
  s.fpGive a ((s.fpValue a.fmt a.rs1).fma (s.fpMode a) (s.fpValue a.fmt a.rs2) (s.fpValue a.fmt a.rd)) 0

/-- A chosen operand, exact and without flags (R106). -/
def State.fpPick (s : State) (a : FArgs) (y : Value) : Out :=
  .next (s.give a.rd (BitVec.ofNat 64 (roundTo (fmtTag a.fmt) .rne false false y).code) 4)

def execFmin (a : FArgs) (s : State) : Out := s.fpPick a ((s.fpValue a.fmt a.rs1).min (s.fpValue a.fmt a.rs2))
def execFmax (a : FArgs) (s : State) : Out := s.fpPick a ((s.fpValue a.fmt a.rs1).max (s.fpValue a.fmt a.rs2))

/-- The bits of a under a new sign bit (R106). -/
def State.fpSign (s : State) (a : FArgs) (f : Bool → Bool → Bool) : Out :=
  let top := fmtBits a.fmt - 1
  let x := s.fpBits a.fmt a.rs1
  let y := s.fpBits a.fmt a.rs2
  .next (s.give a.rd (BitVec.ofNat 64 (x % 2 ^ top + (if f (x.testBit top) (y.testBit top) then 2 ^ top else 0))) 4)

def execFsignCp (a : FArgs) (s : State) : Out := s.fpSign a (fun _ y => y)
def execFsignNg (a : FArgs) (s : State) : Out := s.fpSign a (fun _ y => !y)
def execFsignXr (a : FArgs) (s : State) : Out := s.fpSign a (fun x y => x != y)

/-- A compare: 0 with a NaN operand, which also sets NV when `nv` (R106). -/
def State.fpCompare (s : State) (a : FArgs) (nv : Bool) (ok : Ordering → Bool) : Out :=
  let x := s.fpValue a.fmt a.rs1
  let y := s.fpValue a.fmt a.rs2
  if x.isNan || y.isNan then .next (((if nv then s.raise flagNV else s).give a.rd 0) 4)
  else .next (s.give a.rd (boolWord (ok (x.cmp y))) 4)

def execFeq (a : FArgs) (s : State) : Out := s.fpCompare a false (fun o => o == .eq)
def execFlt (a : FArgs) (s : State) : Out := s.fpCompare a true (fun o => o == .lt)
def execFle (a : FArgs) (s : State) : Out := s.fpCompare a true (fun o => o != .gt)

/-- The source of `fcvt` named by the rs2 field (R107). -/
def State.fpSource (s : State) (a : FArgs) : Value :=
  if a.rs2 = 4 then decodeElem .int64 (s.getX a.rs1).toNat
  else if a.rs2 = 5 then decodeElem .nat64 (s.getX a.rs1).toNat
  else s.fpValue (a.rs2.setWidth 2) a.rs1

def execFcvt (a : FArgs) (s : State) : Out := s.fpGive a (s.fpSource a) 0

/-- Conversion into a 64-bit integer tag by R64 (R107). -/
def State.fpToInt (s : State) (a : FArgs) (t : Tag) (sat : Bool) : Out :=
  let r := roundTo t (s.fpMode a) sat false (s.fpValue a.fmt a.rs1)
  .next ((s.raise r.flags).give a.rd (BitVec.ofNat 64 r.code) 4)

def execFcvtInt64 (a : FArgs) (s : State) : Out := s.fpToInt a .int64 false
def execFcvtInt64Sat (a : FArgs) (s : State) : Out := s.fpToInt a .int64 true
def execFcvtNat64 (a : FArgs) (s : State) : Out := s.fpToInt a .nat64 false
def execFcvtNat64Sat (a : FArgs) (s : State) : Out := s.fpToInt a .nat64 true

end Sys2Proof.Machine
end

