-- ==== Sys2Proof/Machine/ScalarMemory.lean ====
section
/-! DEFINITION. Scalar loads and stores, atomics, ordered accesses, fences, prefetch and translation invalidation (R102 to
R104, R191 to R199, R234 to R236), with the compressed load and store (R44). -/

namespace Sys2Proof.Machine

/-! ### Loads and stores -/

/-- The value of a load of `n` bytes: sign-extended, or zero-extended (R102). -/
def loadedWord (n : Nat) (sx : Bool) (v : Nat) : Word := if sx then intWord (signed (8 * n) v) else BitVec.ofNat 64 v

/-- A load of `n` bytes in an instruction of `len` bytes (R102). A loose turn holds it, unless its bytes were read early (R231). -/
def State.loadInto (s : State) (rd : Reg) (a : Word) (n : Nat) (sx : Bool) (len : Nat) : Result :=
  match s.scalarSpot .load a n with
  | .error t => .trap t s
  | .ok key =>
    let s1 := (s.finishLoads (fun l => l.meets false key n)).noteUse s.scalarView a
    if s.loose ∧ key < 2 ^ 61 ∧ (s1.earlyBytes false key n).isNone then .done ((s1.holdLoad (.scalar rd key n sx)).retire len)
    else .done ((s1.sawScalar key n).give rd (loadedWord n sx (leNat (s1.scalarBytes key n))) len)

/-- A store of the low `n` bytes of x(rs) (R103). -/
def State.storeFrom (s : State) (rs : Reg) (a : Word) (n : Nat) (len : Nat) : Result :=
  match s.storeNat a n (s.getX rs).toNat with
  | .error t => .trap t s
  | .ok s' => .done (s'.retire len)

def execLb (rd rs1 : Reg) (off : BitVec 13) (s : State) : Out := (s.loadInto rd (s.getX rs1 + sext off) 1 true 4).out
def execLh (rd rs1 : Reg) (off : BitVec 13) (s : State) : Out := (s.loadInto rd (s.getX rs1 + sext off) 2 true 4).out
def execLw (rd rs1 : Reg) (off : BitVec 13) (s : State) : Out := (s.loadInto rd (s.getX rs1 + sext off) 4 true 4).out
def execLd (rd rs1 : Reg) (off : BitVec 13) (s : State) : Out := (s.loadInto rd (s.getX rs1 + sext off) 8 false 4).out
def execLbu (rd rs1 : Reg) (off : BitVec 13) (s : State) : Out := (s.loadInto rd (s.getX rs1 + sext off) 1 false 4).out
def execLhu (rd rs1 : Reg) (off : BitVec 13) (s : State) : Out := (s.loadInto rd (s.getX rs1 + sext off) 2 false 4).out
def execLwu (rd rs1 : Reg) (off : BitVec 13) (s : State) : Out := (s.loadInto rd (s.getX rs1 + sext off) 4 false 4).out
def execSb (rs rs1 : Reg) (off : BitVec 13) (s : State) : Out := (s.storeFrom rs (s.getX rs1 + sext off) 1 4).out
def execSh (rs rs1 : Reg) (off : BitVec 13) (s : State) : Out := (s.storeFrom rs (s.getX rs1 + sext off) 2 4).out
def execSw (rs rs1 : Reg) (off : BitVec 13) (s : State) : Out := (s.storeFrom rs (s.getX rs1 + sext off) 4 4).out
def execSd (rs rs1 : Reg) (off : BitVec 13) (s : State) : Out := (s.storeFrom rs (s.getX rs1 + sext off) 8 4).out

/-- `ld rd, 8·off4(rs1)` (R44). -/
def execCLd (r rs1 : BitVec 3) (off : BitVec 4) (s : State) : Out :=
  (s.loadInto (creg r) (s.getX (creg rs1) + BitVec.ofNat 64 (8 * off.toNat)) 8 false 2).out

/-- `sd rs2, 8·off4(rs1)` (R44). -/
def execCSd (r rs1 : BitVec 3) (off : BitVec 4) (s : State) : Out :=
  (s.storeFrom (creg r) (s.getX (creg rs1) + BitVec.ofNat 64 (8 * off.toNat)) 8 2).out

/-! ### Atomics and ordered accesses -/

/-- Bytes of a type: `.w` and `.f` 4, `.d` 8 (R191). -/
def amoBytes (ty : BitVec 2) : Nat := if ty = 1 then 8 else 4

/-- Value returned in x(rd) (R192). -/
def amoReturn (ty : BitVec 2) (v : Nat) : Word := loadedWord (amoBytes ty) (ty == 0) v

/-- Whether an ordering value has acquire or release semantics (R234). -/
def ordAcquire (ord : BitVec 2) : Bool := ord.getLsbD 0
def ordRelease (ord : BitVec 2) : Bool := ord.getLsbD 1

/-- What precedes an access with release semantics: at hart scope earlier loads have read and the other stream sees the earlier stores; at a wider one every earlier
access is performed, and at module or system scope every earlier store of the die reaches its home (R228, R234; entry 38). -/
def State.beforeAccess (s : State) (ord : BitVec 2) (scope : BitVec 3) : State :=
  if !ordRelease ord then s
  else if scope = 0 then
    let s1 := s.finishLoads (fun _ => true)
    s1.setOrder (s1.hart.order.share (fun _ => true))
  else if 4 ≤ scope.toNat then s.settle.drain s.dieOf
  else s.settle

/-- What follows an access with acquire semantics: nothing that a later load returns was read before it (R234, R235, R242). -/
def State.afterAccess (s : State) (ord : BitVec 2) : State := if ordAcquire ord then s.acquire else s

/-- Where an ordered access lands, or its trap: alignment, then translation (R193). -/
def State.amoSpot (s : State) (k : Acc) (a : AmoArgs) (n : Nat) : Except Trap Nat := s.scalarSpot k (s.getX a.rs1) n

/-- The stores on their way to a byte's home arrive there. -/
def State.drainHome (s : State) (key : Nat) : State := if key < 2 ^ 52 then s.drainTo s.dieOf (homeOf key) else s

/-- One indivisible read and write of `n` bytes at their home: `f` gives the new value and what the register side becomes (R193). -/
def State.amo (s : State) (a : AmoArgs) (n : Nat) (f : State → Nat → Nat × State) : Result :=
  match s.amoSpot .atomic a n with
  | .error t => .trap t s
  | .ok key =>
    let s1 := ((s.beforeAccess a.ord a.scope).makeWay false key n).drainHome key
    let r := f ((s1.noteUse s.scalarView (s.getX a.rs1)).sawScalar key n) (leNat (s1.bytesAt s.dieOf key n))
    let s2 := (r.2.writeOwn key (natLe n r.1)).drainHome key
    .done ((s2.afterAccess a.ord).retire 4)

/-- A form that returns nothing (R192). -/
def State.amoPlain (s : State) (a : AmoArgs) (f : Nat → Nat → Nat) : Result :=
  let n := amoBytes a.ty
  s.amo a n (fun s old => (f old ((s.getX a.rs2).toNat % 2 ^ (8 * n)), s))

/-- A returning form; DetViolation under DET (R194). -/
def State.amoReturning (s : State) (a : AmoArgs) (f : State → Nat → Nat × State) : Result :=
  if s.hart.priv.det then .trap s.detViolation s
  else s.amo a (amoBytes a.ty) (fun s old => let r := f s old; (r.1, r.2.setX a.rd (amoReturn a.ty old)))

/-- b at the width of ty. -/
def State.amoOperand (s : State) (a : AmoArgs) : Nat := (s.getX a.rs2).toNat % 2 ^ (8 * amoBytes a.ty)

/-- Signed order of values of `n` bytes. -/
def signedLt (n x y : Nat) : Bool := decide (signed (8 * n) x < signed (8 * n) y)

def execAmoadd (a : AmoArgs) (s : State) : Out := (s.amoPlain a (fun m b => m + b)).out
def execAmoand (a : AmoArgs) (s : State) : Out := (s.amoPlain a (fun m b => m &&& b)).out
def execAmoor (a : AmoArgs) (s : State) : Out := (s.amoPlain a (fun m b => m ||| b)).out
def execAmoxor (a : AmoArgs) (s : State) : Out := (s.amoPlain a (fun m b => m ^^^ b)).out
def execAmomin (a : AmoArgs) (s : State) : Out := (s.amoPlain a (fun m b => if signedLt (amoBytes a.ty) b m then b else m)).out
def execAmomax (a : AmoArgs) (s : State) : Out := (s.amoPlain a (fun m b => if signedLt (amoBytes a.ty) m b then b else m)).out
def execAmominu (a : AmoArgs) (s : State) : Out := (s.amoPlain a (fun m b => min m b)).out
def execAmomaxu (a : AmoArgs) (s : State) : Out := (s.amoPlain a (fun m b => max m b)).out

/-- The 16-byte fx96 image: X + sext(b), bits 127:96 copies of bit 95 (R192). -/
def execAmofx (a : AmoArgs) (s : State) : Out :=
  (s.amo a 16 (fun s m => (wrapInt 128 (wrap96 ((m : Int) + (s.getX a.rs2).toInt)), s))).out

def execAmoswap (a : AmoArgs) (s : State) : Out := (s.amoReturning a (fun s _ => (s.amoOperand a, s))).out

/-- Compares with x(rd) at the width (R192). -/
def execAmocas (a : AmoArgs) (s : State) : Out :=
  (s.amoReturning a (fun s m =>
    (if m = (s.getX a.rd).toNat % 2 ^ (8 * amoBytes a.ty) then s.amoOperand a else m, s))).out

/-- Integer sum, or the fp32 sum rounded by FRM with its flags (R192). -/
def execAmofadd (a : AmoArgs) (s : State) : Out :=
  (s.amoReturning a (fun s m =>
    if a.ty = 2 then
      let mode := modeOf s.hart.fp.frm 0
      let r := roundTo .fp32 mode false false ((decodeElem .fp32 m).add mode (decodeElem .fp32 (s.amoOperand a)))
      (r.code, s.raise r.flags)
    else (m + s.amoOperand a, s))).out

/-- Load with acquire: a store of the hart's own that it reads is performed, and at module scope it is home (R192, R228). -/
def execLda (a : AmoArgs) (s : State) : Out :=
  (match s.amoSpot .load a (amoBytes a.ty) with
    | .error t => Result.trap t s
    | .ok key =>
      let n := amoBytes a.ty
      let s1 := s.makeWay false key n
      let s2 := if 4 ≤ a.scope.toNat then s1.drainHome key else s1
      let v := leNat (s2.bytesAt s.dieOf key n)
      let s3 := ((s2.noteUse s.scalarView (s.getX a.rs1)).sawScalar key n).afterAccess a.ord
      Result.done (s3.give a.rd (amoReturn a.ty v) 4)).out

/-- Store with release (R192, R234); a loose turn holds it, to be performed after every earlier access. -/
def execStr (a : AmoArgs) (s : State) : Out :=
  (match s.amoSpot .store a (amoBytes a.ty) with
    | .error t => Result.trap t s
    | .ok key =>
      let s1 := s.noteUse s.scalarView (s.getX a.rs1)
      let bs := natLe (amoBytes a.ty) (s.amoOperand a)
      if s.loose && ordRelease a.ord && a.scope != 0 then Result.done ((s1.holdRelease a.scope key bs).retire 4)
      else Result.done (((s1.beforeAccess a.ord a.scope).scalarWrite key bs).retire 4)).out

/-! ### Fences, prefetch, translation invalidation -/

/-- Every earlier scalar access before every later vector access of the hart, for the hart alone (R196). -/
def execFenceSv (s : State) : Out :=
  let s1 := s.finishLoads HeldLoad.isScalar
  .next ((s1.setOrder ((s1.hart.order.share (fun h => !h.vec)).fresh (fun e => e.vec))).retire 4)

/-- Every earlier vector access before every later scalar access of the hart, for the hart alone (R196). -/
def execFenceVs (s : State) : Out :=
  let s1 := s.finishLoads (fun l => !l.isScalar)
  .next ((s1.setOrder ((s1.hart.order.share (fun h => h.vec)).fresh (fun e => !e.vec))).retire 4)

/-- Whether a set of a scoped fence has the pair rr, rw, wr or ww (R195). -/
def pairRr (set : BitVec 4) : Bool := set.getLsbD 3
def pairRw (set : BitVec 4) : Bool := set.getLsbD 2
def pairWr (set : BitVec 4) : Bool := set.getLsbD 1
def pairWw (set : BitVec 4) : Bool := set.getLsbD 0

/-- A fence at hart scope: earlier loads have read, both streams see the earlier stores or those that a load has read, and nothing that a
later load returns was read before (R228, R231, R236). -/
def State.fenceHart (s : State) (set : BitVec 4) : State :=
  let s1 := if pairRr set || pairRw set then s.finishLoads (fun _ => true) else s
  let o := s1.hart.order.share (fun h => pairWr set || pairWw set || ((pairRr set || pairRw set) && (h.readS || h.readV)))
  s1.setOrder (if pairRr set || pairWr set then o.fresh (fun _ => true) else o)

/-- A fence at a wider scope: loads have read, and the stores that loads have read, or all of them, are performed before later loads;
later stores come after earlier ones (R228, R236). -/
def State.fenceWide (s : State) (set : BitVec 4) : State :=
  let s1 := if pairRr set || pairRw set then (s.finishLoads (fun _ => true)).landWhere (fun h => h.readS || h.readV) else s
  let s2 := if pairWr set then s1.landWhere (fun _ => true) else s1
  let o := s2.hart.order
  let o1 := if pairRr set || pairWr set then o.acquire else o
  s2.setOrder (if pairWw set then { o1 with epoch := o1.epoch + 1 } else o1)

/-- A scoped fence; at module and system scope the stores of the die, among them the hart's earlier stores and those that earlier loads
read, reach their homes (R197, R228, R236; entry 38). -/
def execFence (set : BitVec 4) (scope : BitVec 3) (s : State) : Out :=
  if scope = 0 then .next ((s.fenceHart set).retire 4)
  else
    let s1 := s.fenceWide set
    let s2 := if 4 ≤ scope.toNat then (if pairWw set then s1.landWhere (fun _ => true) else s1).drain s.dieOf else s1
    .next (s2.retire 4)

/-- A hint: no value, ordering or fault (R198). -/
def execPrefetch (_rs1 _rs2 : Reg) (s : State) : Out := .next (s.retire 4)

/-- An operation done for another hart, which keeps its place. -/
def State.forHart (s : State) (h : Hart) (f : State → State) : State :=
  let t := f { s with hart := h }
  { t with hart := s.hart, others := t.others.map (fun o => if o.cond != .vacant && o.key == h.key then t.hart else o) }

/-- The other harts of the hart's die that hold accesses back, which keep the translations they were given. -/
def State.holders (s : State) : List Hart :=
  s.others.filter (fun h => h.cond != .vacant && h.id.core / 8 == s.dieOf && (!h.order.stores.isEmpty || !h.order.loads.isEmpty))

/-- Whether one of them still waits for an older instruction that can fault (R136). -/
def State.holdersWait (s : State) : Bool := s.holders.any (fun h => s.waits.any (fun p => p.active h.key && p.what.canFault))

/-- What they hold back is performed (R199). -/
def State.settleDie (s : State) : State := s.holders.foldl (fun s h => s.forHart h (fun s => s.noting s.settle)) s

/-- Removes the die's translations of the hart's context for the region of x(rs1), or all with rs1 = x0, once every access that was given
one of them is performed (R199). -/
def execTlbinv (rs1 : Reg) (s : State) : Out :=
  (check s.needSup s
    (let region := (s.getX rs1).toNat / 2 ^ 16
     .done (if s.holdersWait then s.wait .queue
      else (s.ordered.settleDie.onDie s.dieOf (fun d =>
        { d with tlb := d.tlb.filter (fun t => !(t.ctx == s.hart.id.ctx && (rs1 == 0 || t.region == region))) })).retire 4))).out

end Sys2Proof.Machine
end

