-- ==== Sys2Proof/Machine/Trust.lean ====
section
/-! DEFINITION. RSASSA-PSS verification with RSA-3072 and SHA-256, as the firmware trust names it (R355). The scheme itself is the
published one; the manual names it and gives its parameters. PRESUMED, entry 30. -/

namespace Sys2Proof.Machine

/-- x^(2^k) modulo n. -/
def powSquare (n : Nat) : Nat → Nat → Nat
  | 0, x => x % n
  | k + 1, x => powSquare n k (x * x % n)

/-- x^65537 modulo n. -/
def rsaPublic (n x : Nat) : Nat := powSquare n 16 x * x % n

/-- A big-endian number. -/
def beNat (bs : List Byte) : Nat := leNat bs.reverse

/-- `blocks` digests of the mask generation function MGF1 over SHA-256. -/
def mgf1 (seed : List Byte) (blocks : Nat) : List Byte := (List.range blocks).flatMap (fun i => sha256 (seed ++ natBe 4 i))

/-- Whether an encoded message of 384 bytes is the encoding of a digest, with a 32-byte salt. -/
def pssOk (em digest : List Byte) : Bool :=
  let masked := em.take 351
  let h := (em.drop 351).take 32
  let db := (masked.zip (mgf1 h 11)).map (fun p => p.1 ^^^ p.2)
  let first := (db.head?.getD 0) &&& 0x7F
  let salt := db.drop 319
  (em.getD 383 0) == 0xBC && decide ((masked.head?.getD 0).toNat < 0x80) && first == 0 && ((db.drop 1).take 317).all (fun b => b == 0) &&
    db.getD 318 0 == 1 && sha256 (List.replicate 8 0 ++ digest ++ salt) == h

/-- Whether a signature of 384 bytes verifies over a message under a public modulus. -/
def signatureOk (modulus : Nat) (sig msg : List Byte) : Bool :=
  let x := beNat sig
  decide (x < modulus) && pssOk (natBe 384 (rsaPublic modulus x)) (sha256 msg)

end Sys2Proof.Machine
end

