-- ==== Sys2Proof/Machine/Start.lean ====
section
/-! DEFINITION. Staged start, the base-mode mailbox, firmware slots, errors, links, heat and power (R353 to R364), and the arrival of
stores at their home (R237). -/

namespace Sys2Proof.Machine

/-! ### Module reset (R353, R364) -/

/-- What a module reset leaves: the flash, the selected slot, the fuses and the lasting log entries. Everything else is as after
reset; memory reads as unlisted (entry 2). -/
def State.moduleReset (s : State) (stage : Stage) : State :=
  { State.reset with
    nextKey := s.nextKey, ticks := s.ticks, agenda := s.agenda, args := s.args,
    mem := s.mem.filter (fun p => decide (2 ^ 63 ≤ p.1)),
    module := { Module.reset with stage := stage, selected := s.module.selected, failA := s.module.failA, failB := s.module.failB,
                                  svn := s.module.svn, lasting := s.module.lasting } }

/-- Power-good: start begins with reset held (R353). With power good already, nothing new begins. -/
def execPowerGood (s : State) : Out := .next (if s.module.stage = .off then s.moduleReset .held else s)

/-- The main input is lost: the module answers on no port (R362). -/
def execMainInputOff (s : State) : Out := .next (s.moduleReset .off)

/-- Stage 0: base mode; stage 1 will follow (R353). -/
def execBaseMode (s : State) : Out :=
  .next (if s.module.stage = .held then { s with module := { s.module with stage := .base, starting := true } } else s)

/-! ### Firmware slots (R355 to R357) -/

/-- Bytes of a slot's flash. -/
def State.flashBytes (s : State) (slot off n : Nat) : List Byte := Sparse.getList 0 s.mem (Space.flash slot off) n

/-- Whether nothing is in a slot's flash but what erased flash reads as (entry 2). -/
def State.slotErased (s : State) (slot : Nat) : Bool :=
  !s.mem.any (fun p => decide (Space.flash slot 0 ≤ p.1) && decide (p.1 < Space.flash slot 0 + 2 ^ 26))

/-- Whether the digest of a key is one of the fused ones and not revoked. -/
def keyFused (digest : List Byte) : Bool := (List.range 4).any (fun i => (Config.fusedKeyHash i).toNat == leNat digest && !Config.keyRevoked i)

/-- Body length of a slot. -/
def State.slotLen (s : State) (slot : Nat) : Nat := leNat (s.flashBytes slot 16 8)

/-- Security version of a slot. -/
def State.slotSvn (s : State) (slot : Nat) : Nat := leNat (s.flashBytes slot 8 8)

/-- The code that the verification of a slot gives; zero when it is accepted (R355, R357). -/
def State.slotCode (s : State) (slot : Nat) : Nat :=
  if s.slotErased slot then 1
  else if leNat (s.flashBytes slot 0 4) ≠ 0x4D465843 ∨ 2 ^ 26 - 1024 < s.slotLen slot then 2
  else
    let key := s.flashBytes slot 64 384
    if !keyFused (sha256 key) then 3
    else if !signatureOk (leNat key) (s.flashBytes slot 448 384) (s.flashBytes slot 0 448 ++ s.flashBytes slot 1024 (s.slotLen slot)) then 4
    else if s.slotSvn slot < s.module.svn then 5
    else 0

/-- A slot's failure code recorded. -/
def Module.setFail (m : Module) (slot code : Nat) : Module := if slot = 0 then { m with failA := code } else { m with failB := code }

/-- A slot tried: accepted, it runs and may raise the counter. -/
def State.trySlot (s : State) (slot : Nat) : State :=
  let code := s.slotCode slot
  let m := s.module.setFail slot code
  if code = 0 then
    { s with module := { m with stage := .verified, running := some slot, svn := max m.svn (s.slotSvn slot) } }
  else { s with module := m }

/-- Stage 1: the selected slot, then the other; with both failing the module stays in base mode (R355, R357). -/
def execFirmwareVerify (s : State) : Out :=
  .next (if s.module.stage = .base && s.module.starting then
    let first := s.module.selected
    let s1 := s.trySlot first
    let s2 := if s1.module.stage = .base then s1.trySlot (1 - first) else s1
    { s2 with module := { s2.module with starting := false, resuming := s2.module.resuming && s2.module.stage == .verified } }
  else s)

/-- Stage 2: training and self-test, `good` or failed; a failure leaves the module in base mode with code 0x06 (R353, R356), and one during
RESUME is kept for the restart (R364). No slot runs after a failure, as after a shutdown: DESIGN CHOICE, entry 33. -/
def execMemoryTraining (s : State) : Out :=
  .next (if s.module.stage = .verified then
    if s.args.good then { s with module := { s.module with stage := .full, trained := true, resuming := false } }
    else { s with module := { (s.module.setFail (s.module.running.getD 0) 6) with
             stage := .base, running := none, stageTwoFailed := s.module.resuming, resuming := false } }
  else s)

/-! ### The mailbox (R354) -/

/-- Request dword `i`. -/
def State.requestDword (s : State) (i : Nat) : Nat := leNat ((s.module.request.drop (8 * i)).take 8)

/-- A mailbox step answers the unanswered request of its OP; with none it changes nothing. -/
def State.mailboxStep (s : State) (op : Nat) (act : State) : Out :=
  .next (if s.module.stage.answers && !s.module.request.isEmpty && s.requestDword 0 % 2 ^ 8 == op then act else s)

/-- Bytes into the identity area of die 0. -/
def State.setIdentity (s : State) (bs : List Byte) : State := s.setMem (Sparse.setList 0 s.mem (Space.control 0 0x84000) (bs.take 0x4000))

/-- IDENT. -/
def execIdent (s : State) : Out :=
  s.mailboxStep 1 ((s.setIdentity Config.certificateChain).respond 0 [Config.certificateChain.length])

/-- A slot erased. -/
def State.eraseSlot (s : State) (slot : Nat) : State :=
  s.setMem (s.mem.filter (fun p => !(decide (Space.flash slot 0 ≤ p.1) && decide (p.1 < Space.flash slot 0 + 2 ^ 26))))

/-- UPLOAD of staging bytes into a slot. -/
def State.upload (s : State) (slot off n : Nat) : State :=
  if 1 < slot ∨ 65536 < n ∨ 2 ^ 26 < off + n then s.respond (-1) []
  else if s.module.running = some slot then s.respond (-2) []
  else
    let bs := Sparse.getList 0 s.mem (Space.control 0 0x90000) n
    let s1 := if off = 0 then s.eraseSlot slot else s
    (s1.setMem (Sparse.setList 0 s1.mem (Space.flash slot off) bs)).respond 0 []

def execUpload (s : State) : Out := s.mailboxStep 2 (s.upload (s.requestDword 1) (s.requestDword 2) (s.requestDword 3))

/-- SELECT. -/
def execSelect (s : State) : Out :=
  s.mailboxStep 3 (if 1 < s.requestDword 1 then s.respond (-1) []
    else ({ s with module := { s.module with selected := s.requestDword 1 } } : State).respond 0 [])

/-- RESET: a module reset; start begins again (R354, R364). -/
def execReset (s : State) : Out := s.mailboxStep 4 (s.moduleReset .held)

/-- Number of a stage. -/
def Stage.number : Stage → Nat
  | .off | .held | .base => 0
  | .verified => 1
  | .full => 2

/-- STATUS. -/
def execStatus (s : State) : Out :=
  s.mailboxStep 5 (s.respond 0 [s.module.stage.number, s.module.selected, s.module.failA, s.module.failB, s.module.svn])

/-- The header and body of the accepted slot. -/
def State.runningImage (s : State) : List Byte :=
  match s.module.running with
  | some slot => s.flashBytes slot 0 (1024 + s.slotLen slot)
  | none => []

/-- ATTEST: the report for the nonce at an address of the staging area (R354, R358). -/
def State.attest (s : State) (a : Nat) : State :=
  if a < 0x90000 ∨ 0xA0000 < a + 32 then s.respond (-1) []
  else
    let nonce := Sparse.getList 0 s.mem (Space.control 0 a) 32
    let report := Config.attestationReport nonce s.runningImage ((s.module.running.map s.slotSvn).getD 0) s.module.svn 4
    (s.setIdentity report).respond 0 [report.length]

def execAttest (s : State) : Out := s.mailboxStep 6 (s.attest (s.requestDword 1))

/-- Whether a compute junction reads 95 °C or more; temperatures count sixteenths of a degree (R354, R363). -/
def State.tooHot (s : State) : Bool := s.dies.toList.any (fun d => decide ((95 * 16 : Int) ≤ d.junction.toInt))

/-- RESUME: stages 1 and 2 follow without a module reset; after a stage 2 that failed during RESUME the restart is a module reset
(R354, R364). -/
def State.resumeModule (s : State) : State :=
  if !s.module.shutdown then s.respond (-2) []
  else if s.tooHot then s.respond (-3) []
  else if s.module.stage ≠ .base then s.respond 0 []
  else if s.module.stageTwoFailed then s.moduleReset .held
  else ({ s with module := { s.module with starting := true, resuming := true } } : State).respond 0 []

def execResumeRequest (s : State) : Out := s.mailboxStep 7 s.resumeModule

/-! ### The error log (R361) -/

/-- CLASS codes. -/
def classCorrected : Nat := 0
def classTransient : Nat := 1
def classLasting : Nat := 2
def classShutdown : Nat := 3

/-- The bytes of an entry of one event. -/
def State.logEntry (s : State) (serial cls unit addr : Nat) : List Byte :=
  natLe 8 (serial * 4 + cls) ++ natLe 8 (2 ^ 32 + unit) ++ natLe 8 addr ++ natLe 8 s.now

/-- An entry in the log of a die, with the module's time, and in flash when it is lasting. -/
def State.log (s : State) (d cls unit addr : Nat) : State :=
  let s := s.passTime
  let serial := (s.die d).logSerial + 1
  let bs := s.logEntry serial cls unit addr
  let s1 := s.onDie d (fun x => { x with logSerial := serial })
  let s2 := s1.setMem (Sparse.setList 0 s1.mem (Space.control (d % 4) (0x100000 + 32 * ((serial - 1) % 4096))) bs)
  if cls = classLasting then { s2 with module := { s2.module with lasting := s2.module.lasting ++ [bs] } } else s2

/-! ### Errors and links (R359, R360) -/

/-- A corrected single-bit error of unit `unit` at `addr` of die `die`. -/
def execSingleBitError (s : State) : Out :=
  .next (if s.module.stage.answers then s.log s.args.die classCorrected s.args.unit.toNat s.args.addr.toNat else s)

/-- The units whose errors lie at a physical address. -/
def hasPhysical (unit : BitVec 8) : Bool := unit == 1 || unit == 2 || unit == 3

/-- A block retired: every access to it reports from then on. -/
def State.retireBlock (s : State) (pa : Nat) : State :=
  { s with module := { s.module with retiredBlocks :=
      if s.module.retiredBlocks.contains (pa / 2 ^ 16) then s.module.retiredBlocks else pa / 2 ^ 16 :: s.module.retiredBlocks } }

/-- Whether a key lies in a Tarn or a scalar data memory: the SRAM of the compute dies (R359). -/
def inCoreSram (key : Nat) : Bool :=
  (decide (Space.tarn 0 0 ≤ key) && decide (key < Space.tarn 32 0)) || (decide (Space.sdm 0 0 ≤ key) && decide (key < Space.sdm 32 0))

/-- An uncorrectable read of unit `unit` at `addr`; `good` when the retry reads clean. In the SRAM of a compute die `addr` is the byte's key:
it has no physical address, and what the log holds for it is a free value (entry 34). -/
def execUncorrectableRead (s : State) : Out :=
  let key := s.args.addr.toNat
  let shown := if hasPhysical s.args.unit then key else (Config.freeWord s.ticks 0).toNat
  .next (if !s.module.stage.answers then s
    else if s.args.good then s.log s.args.die classTransient s.args.unit.toNat shown
    else
      let s1 := s.log s.args.die classLasting s.args.unit.toNat shown
      if hasPhysical s.args.unit || (s.args.unit == 4 && inCoreSram key) then s1.retireBlock key else s1)

/-- One failed retry: after 16 in a row the width halves, and at quarter width the link goes down. -/
def Link.fail (l : Link) : Link := if l.failures < 15 then { l with failures := l.failures + 1 } else { l with quarters := l.quarters / 2, failures := 0 }

/-- A retry of a flit between dies `die` and `item`; `good` when it succeeds. -/
def execLinkFlitRetry (s : State) : Out :=
  let a := min (s.args.die % 4) (s.args.item % 4)
  let b := max (s.args.die % 4) (s.args.item % 4)
  match s.module.links.find? (fun l => l.d1 == a && l.d2 == b) with
  | none => .next s
  | some l =>
    if l.quarters = 0 ∨ !s.module.stage.answers then .next s
    else
      let k := if s.args.good then { l with failures := 0 } else l.fail
      let s1 := { s with module := { s.module with links := s.module.links.map (fun o => if o.d1 == a && o.d2 == b then k else o) } }
      .next (if s.args.good then s1.log a classTransient 5 (4 * a + b)
        else if k.quarters = 0 then s1.log a classLasting 5 (4 * a + b) else s1)

/-! ### Heat (R12, R363, R364) -/

/-- The core clock after a junction temperature, in sixteenths of a degree. -/
def Clock.after (c : Clock) (t : Int) : Clock :=
  if t < 95 * 16 then .full
  else if 103 * 16 ≤ t then .slow
  else if 100 * 16 ≤ t then (if c = .slow then .slow else .throttled)
  else c

/-- Every queue of a die disabled, HEAD and TAIL as they stand. -/
def State.disableQueues (s : State) (d : Nat) : State :=
  (List.range 4096).foldl (fun (s : State) (q : Nat) => if s.queueEnabled d q then s.disableQueue d q else s) s

/-- The unfinished commands of a die marked failed. -/
def State.failCommands (s : State) (d : Nat) : State :=
  (s.die d).commands.foldl (fun (s : State) (c : Command) => s.journalPhase d c.seq .failed failShutdown) s

/-- A stored block whose copy was stopped: each byte as the cut has it, or as it stood, which nothing states (entry 10). -/
def State.stoppedCopy (s : State) (p : Nat × Image) : Image :=
  Sparse.setList 0 [] 0 (((Sparse.getList 0 p.2 0 4096).zipIdx).map (fun (q : Byte × Nat) =>
    if Config.badChunkByteWritten s.ticks (4096 * p.1 + q.2) then q.1 else Config.freeByte s.ticks (4096 * p.1 + q.2)))

/-- The stored blocks that a stream was still copying. -/
def Stream.copying (t : Stream) : List Nat :=
  match t.cairnAt t.lpos with
  | some c => t.copies.filterMap (fun b => c.blocks[b]?)
  | none => []

/-- A stream left swapped out; one that was never bound has nothing to restore. -/
def Stream.stop (t : Stream) : Stream :=
  { t with bound := 0, swapped := !t.cairns.isEmpty, pages := [], copies := [], restore := none }

/-- A die after a shutdown. Stores of the lost harts that are still on their way to another die stay so, and may arrive later: the spec is silent;
DESIGN CHOICE, entry 33. -/
def Die.stop (d : Die) : Die :=
  { d with pend := [], blocked := [], slots := [], commands := [], request := none, declined := [], tlb := [] }

/-- Thermal shutdown: every hart, transfer and binding is lost, memory is kept, unfinished commands fail, with their entries whole before base mode
serves a read, queues are disabled, and the module returns to base mode (R364). No slot then runs, so that UPLOAD to either is accepted, which the
spec does not say (R354): DESIGN CHOICE, entry 33. -/
def State.thermalShutdown (s : State) : State :=
  let copying := s.streams.flatMap Stream.copying
  let blocks := s.cairnBlocks.map (fun p => if copying.contains p.1 then (p.1, s.stoppedCopy p) else p)
  let s1 := [0, 1, 2, 3].foldl (fun (s : State) (d : Nat) => (((s.failCommands d).seal d).disableQueues d).onDie d Die.stop) { s with loose := false }
  { s1 with hart := .vacant, others := [], waits := [], loose := s.loose, gangs := [], jobs := [], transfers := [], streams := s1.streams.map Stream.stop,
            cairnBlocks := blocks, stale := [],
            module := { s1.module with stage := .base, shutdown := true, starting := false, running := none } }

/-- A sample of die `die`: junction and layers; refresh, clock and shutdown follow (R363). -/
def execThermalSample (s : State) : Out :=
  let (j, l0, l1) := s.args.temps
  let hot (t : BitVec 16) : Bool := decide ((85 * 16 : Int) < t.toInt)
  let s1 := s.onDie s.args.die (fun d =>
    { d with junction := j, layer0 := l0, layer1 := l1, refresh0 := hot l0, refresh1 := hot l1, clock := d.clock.after j.toInt })
  .next (if !s.module.stage.answers then s
    else if (105 * 16 : Int) ≤ j.toInt then s1.thermalShutdown.log s.args.die classShutdown 6 (Config.freeWord s.ticks 0).toNat
    else s1)

/-! ### Stores on their way (R237) -/

/-- The first store of a list for a home, and the others. -/
def splitStore (home : Nat) : List OutStore → Option (OutStore × List OutStore)
  | [] => none
  | o :: rest => if homeOf o.pa = home then some (o, rest) else (splitStore home rest).map (fun r => (r.1, o :: r.2))

/-- The oldest store of die `die` for home die `item` arrives and takes its place in the coherence order; over a link that is down none does
(R360). -/
def execStoreReachesHome (s : State) : Out :=
  match splitStore s.args.item (s.die s.args.die).outbound with
  | none => .next s
  | some (o, rest) => .next (if !s.linkUp (s.args.die % 4) (homeOf o.pa) then s else (s.onDie s.args.die (fun d => { d with outbound := rest })).writeHome o.pa o.bytes)

end Sys2Proof.Machine
end

