-- ==== Sys2Proof/Machine/Fetch.lean ====
section
/-! DEFINITION. Fetching the parcels of an instruction (R25, R28, R29). -/

namespace Sys2Proof.Machine

/-- Whether a store made while a job ran touches a 64-byte fetch block; records hold the next key at the store. -/
def staleIn (job block : Nat) (r : Nat × Nat × List Byte) : Bool :=
  decide (job < r.1) && decide (r.2.1 < 64 * (block + 1)) && decide (64 * block < r.2.1 + r.2.2.length)

/-- A byte as instruction fetch reads it: each fetch block as it stands, or as it stood before some of the latest stores of the
job (R29, entry 23). -/
def State.fetchedByte (s : State) (key : Nat) : Byte :=
  match s.stale.filter (staleIn s.hart.id.job (key / 64)) with
  | [] => s.byteAt s.dieOf key
  | found =>
    (found.take (Config.fetchVersion s.ticks (key / 64))).foldl
      (fun b r => if r.2.1 ≤ key then (r.2.2[key - r.2.1]?).getD b else b) (s.byteAt s.dieOf key)

/-- One parcel, or the effect and the address of its failed fetch (R28). -/
def State.fetchParcel (s : State) (a : Word) : Except (BitVec 16 × Word) Parcel :=
  match s.resolve s.vectorView .fetch a with
  | .error e => .error (e, a)
  | .ok (.local key) => .ok (parcelOf (s.fetchedByte key) (s.fetchedByte (key + 1)))
  | .ok (.remote _ _) => .error (effProtection, a)

/-- Every parcel of the instruction at an address: its words, zero where it has none, and its length (R25, R28). -/
def State.fetchCode (s : State) (a : Word) : Except (BitVec 16 × Word) (IWord × IWord × Nat) :=
  match s.fetchParcel a with
  | .error e => .error e
  | .ok p0 =>
    let n := lengthOf p0
    if n = 2 then .ok (wordOf p0 0, 0, 2)
    else
      match s.fetchParcel (a + 2) with
      | .error e => .error e
      | .ok p1 =>
        if n = 4 then .ok (wordOf p0 p1, 0, 4)
        else
          match s.fetchParcel (a + 4) with
          | .error e => .error e
          | .ok p2 =>
            match s.fetchParcel (a + 6) with
            | .error e => .error e
            | .ok p3 => .ok (wordOf p0 p1, wordOf p2 p3, 8)

end Sys2Proof.Machine
end

