-- ==== Sys2Proof/Machine/VectorForms.lean ====
section
/-! DEFINITION. The instructions of majors 0x19 to 0x28: the 32-bit vector operations, predicate logic, predicate to scalar, the
immediate splat and complement pairs (R147 to R168). -/

namespace Sys2Proof.Machine

/-! ### Vector operations (R147 to R163) -/

def execVadd (a : VArgs) (s : State) : Out := (s.vector .vadd a (s.gov a.pg)).out
def execVsub (a : VArgs) (s : State) : Out := (s.vector .vsub a (s.gov a.pg)).out
def execVaddSat (a : VArgs) (s : State) : Out := (s.vector .vaddSat a (s.gov a.pg)).out
def execVsubSat (a : VArgs) (s : State) : Out := (s.vector .vsubSat a (s.gov a.pg)).out
def execVmul (a : VArgs) (s : State) : Out := (s.vector .vmul a (s.gov a.pg)).out
def execVdiv (a : VArgs) (s : State) : Out := (s.vector .vdiv a (s.gov a.pg)).out
def execVmin (a : VArgs) (s : State) : Out := (s.vector .vmin a (s.gov a.pg)).out
def execVmax (a : VArgs) (s : State) : Out := (s.vector .vmax a (s.gov a.pg)).out
def execVfma (a : VArgs) (s : State) : Out := (s.vector .vfma a (s.gov a.pg)).out
def execVfms (a : VArgs) (s : State) : Out := (s.vector .vfms a (s.gov a.pg)).out
def execVfnma (a : VArgs) (s : State) : Out := (s.vector .vfnma a (s.gov a.pg)).out
def execVfnms (a : VArgs) (s : State) : Out := (s.vector .vfnms a (s.gov a.pg)).out
def execVand (a : VArgs) (s : State) : Out := (s.vector .vand a (s.gov a.pg)).out
def execVor (a : VArgs) (s : State) : Out := (s.vector .vor a (s.gov a.pg)).out
def execVxor (a : VArgs) (s : State) : Out := (s.vector .vxor a (s.gov a.pg)).out
def execVandn (a : VArgs) (s : State) : Out := (s.vector .vandn a (s.gov a.pg)).out
def execVsll (a : VArgs) (s : State) : Out := (s.vector .vsll a (s.gov a.pg)).out
def execVsrl (a : VArgs) (s : State) : Out := (s.vector .vsrl a (s.gov a.pg)).out
def execVsra (a : VArgs) (s : State) : Out := (s.vector .vsra a (s.gov a.pg)).out
def execVrol (a : VArgs) (s : State) : Out := (s.vector .vrol a (s.gov a.pg)).out
def execVneg (a : VArgs) (s : State) : Out := (s.vector .vneg a (s.gov a.pg)).out
def execVabs (a : VArgs) (s : State) : Out := (s.vector .vabs a (s.gov a.pg)).out
def execVsqrt (a : VArgs) (s : State) : Out := (s.vector .vsqrt a (s.gov a.pg)).out
def execVrcp (a : VArgs) (s : State) : Out := (s.vector .vrcp a (s.gov a.pg)).out
def execVrsqrt (a : VArgs) (s : State) : Out := (s.vector .vrsqrt a (s.gov a.pg)).out
def execVfloor (a : VArgs) (s : State) : Out := (s.vector .vfloor a (s.gov a.pg)).out
def execVceil (a : VArgs) (s : State) : Out := (s.vector .vceil a (s.gov a.pg)).out
def execVtrunc (a : VArgs) (s : State) : Out := (s.vector .vtrunc a (s.gov a.pg)).out
def execVrint (a : VArgs) (s : State) : Out := (s.vector .vrint a (s.gov a.pg)).out
def execVnot (a : VArgs) (s : State) : Out := (s.vector .vnot a (s.gov a.pg)).out
def execVclz (a : VArgs) (s : State) : Out := (s.vector .vclz a (s.gov a.pg)).out
def execVctz (a : VArgs) (s : State) : Out := (s.vector .vctz a (s.gov a.pg)).out
def execVpopc (a : VArgs) (s : State) : Out := (s.vector .vpopc a (s.gov a.pg)).out
def execVidx (a : VArgs) (s : State) : Out := (s.vector .vidx a (s.gov a.pg)).out
def execVcmpEq (a : VArgs) (s : State) : Out := (s.vector .vcmpEq a (s.gov a.pg)).out
def execVcmpNe (a : VArgs) (s : State) : Out := (s.vector .vcmpNe a (s.gov a.pg)).out
def execVcmpLt (a : VArgs) (s : State) : Out := (s.vector .vcmpLt a (s.gov a.pg)).out
def execVcmpLe (a : VArgs) (s : State) : Out := (s.vector .vcmpLe a (s.gov a.pg)).out
def execVcmpGt (a : VArgs) (s : State) : Out := (s.vector .vcmpGt a (s.gov a.pg)).out
def execVcmpGe (a : VArgs) (s : State) : Out := (s.vector .vcmpGe a (s.gov a.pg)).out
def execVcmpUno (a : VArgs) (s : State) : Out := (s.vector .vcmpUno a (s.gov a.pg)).out
def execVcmpOrd (a : VArgs) (s : State) : Out := (s.vector .vcmpOrd a (s.gov a.pg)).out
def execVcvt (a : VArgs) (s : State) : Out := (s.vector .vcvt a (s.gov a.pg)).out
def execVcvtSat (a : VArgs) (s : State) : Out := (s.vector .vcvtSat a (s.gov a.pg)).out
def execVcvtBlk (a : VArgs) (s : State) : Out := (s.vector .vcvtBlk a (s.gov a.pg)).out
def execVsel (a : VArgs) (s : State) : Out := (s.vector .vsel a (s.gov a.pg)).out
def execVsplat (a : VArgs) (s : State) : Out := (s.vector .vsplat a (s.gov a.pg)).out
def execVext (a : VArgs) (s : State) : Out := (s.vector .vext a (s.gov a.pg)).out
def execVins (a : VArgs) (s : State) : Out := (s.vector .vins a (s.gov a.pg)).out
def execVperm (a : VArgs) (s : State) : Out := (s.vector .vperm a (s.gov a.pg)).out
def execVslup (a : VArgs) (s : State) : Out := (s.vector .vslup a (s.gov a.pg)).out
def execVsldn (a : VArgs) (s : State) : Out := (s.vector .vsldn a (s.gov a.pg)).out
def execVcompress (a : VArgs) (s : State) : Out := (s.vector .vcompress a (s.gov a.pg)).out
def execVredsum (a : VArgs) (s : State) : Out := (s.vector .vredsum a (s.gov a.pg)).out
def execVredsumO (a : VArgs) (s : State) : Out := (s.vector .vredsumO a (s.gov a.pg)).out
def execVredmin (a : VArgs) (s : State) : Out := (s.vector .vredmin a (s.gov a.pg)).out
def execVredmax (a : VArgs) (s : State) : Out := (s.vector .vredmax a (s.gov a.pg)).out
def execVscan (a : VArgs) (s : State) : Out := (s.vector .vscan a (s.gov a.pg)).out
def execVscanLin (a : VArgs) (s : State) : Out := (s.vector .vscanLin a (s.gov a.pg)).out
def execVrenorm (a : VArgs) (s : State) : Out := (s.vector .vrenorm a (s.gov a.pg)).out
def execVrng (a : VArgs) (s : State) : Out := (s.vector .vrng a (s.gov a.pg)).out
def execVrngF (a : VArgs) (s : State) : Out := (s.vector .vrngF a (s.gov a.pg)).out

/-- The immediate splat: imm22 by SetElem (R155). -/
def execVsplatImm (pre : VectorPrefix) (vs1 : BitVec 5) (vd : Reg) (s : State) : Out :=
  let g := s.govWide pre
  let imm : Int := (pre.immx ++ vs1).toInt
  (check (s.vectorChecks [] [vd] [g.pg] (s.noFx [vd])) s
    (.done ((s.elementwise vd g false (fun _ => (.ofInt imm, 0))).vstart0.retire 8))).out

/-! ### Predicate logic (R167) -/

/-- The predicates that an operation reads. -/
def predReads (op : POp) (a : PArgs) : List Nat :=
  match op with
  | .pand | .por | .pxor | .pandn => [a.ps1.toNat, a.ps2.toNat]
  | .pmov | .pnot | .pbrk | .pbrkb => [a.ps1.toNat]
  | .pset | .pclr => []

/-- The bits that active elements receive. `pbrk` and `pbrkb` look for the lowest active one bit below VL, wherever VSTART stands (R32,
R167). -/
def predBits (op : POp) (act m1 m2 : Mask) (vl : Nat) : Mask :=
  match op with
  | .pand => m1 &&& m2
  | .por => m1 ||| m2
  | .pxor => m1 ^^^ m2
  | .pandn => m1 &&& (m2 ^^^ (m1 ||| m2))
  | .pmov => m1
  | .pnot => (m1 % 2 ^ vl) ^^^ ones vl
  | .pset => ones vl
  | .pclr => 0
  | .pbrk =>
    match (maskIndices act vl).find? (fun e => m1.testBit e) with
    | some e => ones (e + 1)
    | none => ones vl
  | .pbrkb =>
    match (maskIndices act vl).find? (fun e => m1.testBit e) with
    | some e => ones e
    | none => ones vl

/-- An instruction of major 0x27 (R166, R167). -/
def State.predLogic (s : State) (op : POp) (a : PArgs) (g : Gov) : Result :=
  let v := s.hart.vec
  let new := predBits op g.act (s.pred a.ps1.toNat) (s.pred a.ps2.toNat) v.vl
  check (s.absent [] (g.pg :: a.pd.toNat :: predReads op a) []) s
    (.done ((s.placePred a.pd.toNat v.vstart v.vl g.act new).vstart0.retire g.len))

def execPand (a : PArgs) (s : State) : Out := (s.predLogic .pand a (s.gov a.pg)).out
def execPor (a : PArgs) (s : State) : Out := (s.predLogic .por a (s.gov a.pg)).out
def execPxor (a : PArgs) (s : State) : Out := (s.predLogic .pxor a (s.gov a.pg)).out
def execPandn (a : PArgs) (s : State) : Out := (s.predLogic .pandn a (s.gov a.pg)).out
def execPmov (a : PArgs) (s : State) : Out := (s.predLogic .pmov a (s.gov a.pg)).out
def execPnot (a : PArgs) (s : State) : Out := (s.predLogic .pnot a (s.gov a.pg)).out
def execPset (a : PArgs) (s : State) : Out := (s.predLogic .pset a (s.gov a.pg)).out
def execPclr (a : PArgs) (s : State) : Out := (s.predLogic .pclr a (s.gov a.pg)).out
def execPbrk (a : PArgs) (s : State) : Out := (s.predLogic .pbrk a (s.gov a.pg)).out
def execPbrkb (a : PArgs) (s : State) : Out := (s.predLogic .pbrkb a (s.gov a.pg)).out

/-! ### Predicate to scalar (R168) -/

/-- The number that an operation gives. -/
def predNumber (op : COp) (m : Mask) (vl : Nat) : Nat :=
  match op with
  | .pcnt => maskCount m vl
  | .pfirst => (maskIndices m vl).head?.getD vl
  | .plast => (maskIndices m vl).getLast?.getD vl

/-- An instruction of major 0x28: every element below VL counts, whatever VSTART holds (R168, R365). -/
def State.predCount (s : State) (op : COp) (a : CArgs) (g : Gov) : Result :=
  check (s.absent [] [g.pg, a.ps1.toNat] []) s
    (.done ((s.setX a.rd (BitVec.ofNat 64 (predNumber op (g.act &&& s.pred a.ps1.toNat) s.hart.vec.vl))).vstart0.retire g.len))

def execPcnt (a : CArgs) (s : State) : Out := (s.predCount .pcnt a (s.gov a.pg)).out
def execPfirst (a : CArgs) (s : State) : Out := (s.predCount .pfirst a (s.gov a.pg)).out
def execPlast (a : CArgs) (s : State) : Out := (s.predCount .plast a (s.gov a.pg)).out

/-! ### Complement pairs (R164, R165) -/

/-- A member of a pair: its operation, operands, rounding field, length and words as fetched. -/
structure Member where
  op : VOp
  a : VArgs
  rm : BitVec 3
  len : Nat
  w : IWord
  u : IWord
  deriving DecidableEq, Repr

/-- Majors 0x19 to 0x1E, `vcvt` and `vcvt.sat` (R165). -/
def pairable (op : VOp) : Bool :=
  match op with
  | .vadd | .vsub | .vaddSat | .vsubSat | .vmul | .vdiv | .vmin | .vmax | .vfma | .vfms | .vfnma | .vfnms | .vand | .vor
  | .vxor | .vandn | .vsll | .vsrl | .vsra | .vrol | .vneg | .vabs | .vsqrt | .vrcp | .vrsqrt | .vfloor | .vceil | .vtrunc
  | .vrint | .vnot | .vclz | .vctz | .vpopc | .vidx | .vcvt | .vcvtSat => true
  | _ => false

/-- The member of a first and second word; none where it is not eligible or fails its encoding checks. -/
def memberOf (w u : IWord) (len : Nat) : Option Member :=
  let pick (b : IWord) (pre : VectorPrefix) (wide : Bool) : Option Member :=
    match decodeVectorBody b with
    | .ok (.vec op a) =>
      if pairable op && a.pg == 0 && VOp.wf op a && (!wide || pre.wfFor (.vec op a)) && pre.pg == 0 then
        some ⟨op, a, pre.rm, len, w, u⟩
      else none
    | _ => none
  if len = 4 then pick w ⟨0, 0, 0⟩ false
  else if len = 8 ∧ fMajor w = 0x35#6 then pick u (fPrefix w) true
  else none

/-- Whether a member stores codes and touches no sidecar (R149 to R151). -/
def rawOp (op : VOp) : Bool :=
  match op with
  | .vand | .vor | .vxor | .vandn | .vsll | .vsrl | .vsra | .vrol | .vnot => true
  | _ => false

/-- What a member writes. Where it rounds, the sidecar that vd names counts as written, as R67 counts it for interlocks, whether or not a
scale is set: DESIGN CHOICE, entry 43. -/
def State.memberWrites (s : State) (m : Member) : List Reg := if rawOp m.op then [m.a.vd] else s.withSidecars [m.a.vd]

/-- The sources whose block scales an operation reads: none where it takes stored codes (R66, R149 to R151). -/
def scaledReads (op : VOp) (a : VArgs) (reads : List Reg) : List Reg :=
  match op with
  | .vand | .vor | .vxor | .vandn | .vnot | .vclz | .vctz | .vpopc => []
  | .vsll | .vsrl | .vsra | .vrol => [a.vs2]
  | _ => reads

/-- Whether the second member reads what the first writes, through a sidecar too (R165); the scale that it rounds by is read (R67). -/
def State.memberHazard (s : State) (m n : Member) : Bool :=
  let regs := (opShape n.op n.a s).reads
  let reads := regs ++ s.sidecars (scaledReads n.op n.a regs) ++
    (if rawOp n.op then [] else (s.sidecars [n.a.vd]).filter (fun r => r == m.a.vd))
  reads.any (fun r => (s.memberWrites m).contains r)

/-- Check 4 of a member (R165). -/
def State.memberLegal (s : State) (m : Member) : Bool :=
  let sh := opShape m.op m.a s
  let all := sh.reads ++ sh.writes
  sh.legal && s.sidecarsValid all && s.vlFits (s.withSidecars all) && s.writable (s.withSidecars sh.writes) &&
    s.stripsFit (s.withSidecars sh.reads) s.hart.vec.vl

/-- IllegalInstruction with the words of the failing member (R43, R165). -/
def illegalMember (w u : IWord) : Trap := .plain effIllegal (w.setWidth 64) (u.setWidth 64)

/-- The words and lengths of the two members that follow the first `len` bytes of a pair (R164). -/
def State.fetchMembers (s : State) (len : Nat) : Except (BitVec 16 × Word) ((IWord × IWord × Nat) × (IWord × IWord × Nat)) :=
  let a1 := s.hart.pc + BitVec.ofNat 64 len
  match s.fetchCode a1 with
  | .error e => .error e
  | .ok c1 =>
    match s.fetchCode (a1 + BitVec.ofNat 64 c1.2.2) with
    | .error e => .error e
    | .ok c2 => .ok (c1, c2)

/-- A pair of fetched members under a predicate and its complement: one instruction at the pair's address (R164, R165). Where the second member
reads the first's destination and the first fails its own checks, the words reported are the second's: the spec does not order the two; DESIGN
CHOICE, entry 43. -/
def State.pairOf (s : State) (g : Gov) (c1 c2 : IWord × IWord × Nat) : Result :=
  match memberOf c1.1 c1.2.1 c1.2.2, memberOf c2.1 c2.2.1 c2.2.2 with
  | none, _ => .trap (illegalMember c1.1 c1.2.1) s
  | some _, none => .trap (illegalMember c2.1 c2.2.1) s
  | some m, some n =>
    if s.memberHazard m n then .trap (illegalMember c2.1 c2.2.1) s
    else if !s.memberLegal m then .trap (illegalMember c1.1 c1.2.1) s
    else if !s.memberLegal n then .trap (illegalMember c2.1 c2.2.1) s
    else
      let reads := (opShape m.op m.a s).reads ++ (opShape n.op n.a s).reads
      check (s.absent (s.withSidecars (reads ++ [m.a.vd, n.a.vd])) [g.pg] []) s
        (let bs := s.readBindings (s.withSidecars reads)
         match s.takeStrips bs with
          | .error (t, s') => .trap t s'
          | .ok s' =>
            let s1 := (opEffect m.op m.a ⟨g.pg, g.act, m.rm, m.len⟩ s').vstart0
            let s2 := (opEffect n.op n.a ⟨g.pg, g.act ^^^ ones s.bits, n.rm, n.len⟩ s1).vstart0
            let len := g.len + m.len + n.len
            let s3 := s2.popStrips bs
            .done (s3.onHart (fun h => (h.count 3).loopTest (h.pc + BitVec.ofNat 64 len) false)))

/-- A pair whose own bytes are `g.len`, its members fetched first (R28, R164). -/
def State.pair (s : State) (g : Gov) : Result :=
  match s.fetchMembers g.len with
  | .error (e, a) => .trap (.plain e a (accessWord Acc.fetch.code false 0)) s
  | .ok (c1, c2) => s.pairOf g c1 c2

def execPair (pg : BitVec 4) (s : State) : Out := (s.pair (s.gov pg)).out

end Sys2Proof.Machine
end

