-- ==== Sys2Proof/Machine/VectorMemory.lean ====
section
/-! DEFINITION. Vector loads and stores: addresses, superseded elements, the three fault classes and replay compares (R179 to
R190, R285). -/

namespace Sys2Proof.Machine

/-- How elements find their addresses (R181). -/
inductive Stride where
  | unit | strided | indexed
  deriving DecidableEq, Repr

/-- A form of majors 0x29 to 0x2C (R179). -/
structure MemForm where
  stride : Stride
  store : Bool
  ordered : Bool
  exact : Bool
  trim : Bool
  deriving DecidableEq, Repr

/-- The form of an operation. -/
def memForm (op : MOp) : MemForm :=
  match op with
  | .vld => ⟨.unit, false, false, false, false⟩
  | .vldO => ⟨.unit, false, true, false, false⟩
  | .vldTr => ⟨.unit, false, false, false, true⟩
  | .vldOTr => ⟨.unit, false, true, false, true⟩
  | .vst => ⟨.unit, true, false, false, false⟩
  | .vstO => ⟨.unit, true, true, false, false⟩
  | .vstX => ⟨.unit, true, false, true, false⟩
  | .vstOX => ⟨.unit, true, true, true, false⟩
  | .vlds => ⟨.strided, false, false, false, false⟩
  | .vldsO => ⟨.strided, false, true, false, false⟩
  | .vldsTr => ⟨.strided, false, false, false, true⟩
  | .vldsOTr => ⟨.strided, false, true, false, true⟩
  | .vsts => ⟨.strided, true, false, false, false⟩
  | .vstsO => ⟨.strided, true, true, false, false⟩
  | .vstsX => ⟨.strided, true, false, true, false⟩
  | .vstsOX => ⟨.strided, true, true, true, false⟩
  | .vgather => ⟨.indexed, false, false, false, false⟩
  | .vgatherO => ⟨.indexed, false, true, false, false⟩
  | .vscatter => ⟨.indexed, true, false, false, false⟩
  | .vscatterO => ⟨.indexed, true, true, false, false⟩
  | .vscatterX => ⟨.indexed, true, false, true, false⟩
  | .vscatterOX => ⟨.indexed, true, true, true, false⟩

/-- Bytes of an element in memory; an e2m1 element is a nibble of one byte (R181). -/
def Tag.memBytes (t : Tag) : Nat := if t = .e2m1 then 1 else t.width

/-- Addr(e) (R181). -/
def State.elemAddr (s : State) (f : MemForm) (a : VArgs) (e : Nat) : Word :=
  let t := (s.tagOf a.vd).tag
  let x := s.getX a.vs1
  match f.stride with
  | .unit => x + BitVec.ofNat 64 (if t = .e2m1 then e / 2 else e * t.width)
  | .strided => x + BitVec.ofNat 64 e * s.getX a.vs2
  | .indexed => x + intWord ((s.opnd2 a e).roundInt .rtz)

/-- Whether a stream the hart is bound to is in replay (R275, R285). -/
def State.inReplay (s : State) : Bool :=
  match s.boundStream with
  | some t => decide (t.lpos < t.ltarget)
  | none => false

/-- Adds to the count of elements that compared equal, saturating (R276, R285). -/
def State.countCompares (s : State) (n : Nat) : State :=
  match s.hart.eng.stream with
  | none => s
  | some id =>
    { s with streams := s.streams.map (fun t => if t.id == id then { t with cmps := min (t.cmps + n) (2 ^ 32 - 1) } else t) }

/-- The stored code of the data register's element. -/
def State.dataCode (s : State) (a : VArgs) (e : Nat) : Nat := s.codeOf a.vd e

/-- What memory holds for an element at a key: its code, or its nibble (R181). -/
def State.memCode (s : State) (a : VArgs) (key e : Nat) : Nat :=
  let t := (s.tagOf a.vd).tag
  let c := leNat (s.vectorBytes key t.memBytes)
  if t = .e2m1 then c / 16 ^ (e % 2) % 16 else c

/-- Where an element's access lands, or its fault, the first in the order of R186; `compare` marks a store in replay mode (R185). -/
def State.elemSpot (s : State) (f : MemForm) (a : VArgs) (compare : Bool) (e : Nat) : Except Trap Nat :=
  let va := s.elemAddr f a e
  let k : Acc := if f.store then .store else .load
  let trap (id : BitVec 16) (acc : Nat) : Trap := .plain id va (accessWord acc true e)
  if va.toNat % (s.tagOf a.vd).tag.memBytes ≠ 0 then .error (trap effMisaligned k.code)
  else
    match s.resolve s.vectorView k va with
    | .error id => .error (trap id k.code)
    | .ok (.remote _ _) => .error (trap effProtection k.code)
    | .ok (.local key) =>
      if compare && s.memCode a key e != s.dataCode a e then .error (trap effReplay 3) else .ok key

/-- The mark that keeps the element accesses of a `.o` form in order (R184). The spec names no scope for that order: the model keeps it at
every scope up to the die, where held stores are performed, and stores that leave the die for different homes arrive as R237 lets them;
DESIGN CHOICE, entry 5. -/
def State.orderedGroup (s : State) (f : MemForm) : Option Nat := if f.ordered then some s.ticks else none

/-- The byte of a nibble store is read before it is written back, after the held vector loads of it (R182, R228, R231). -/
def State.readBack (s : State) (key : Nat) : State × Nat :=
  let s1 := s.finishLoads (fun l => l.meets true key 1)
  (s1.sawVector [(key, 1)], leNat (s1.vectorBytes key 1))

/-- An element stored; an e2m1 nibble is written into its byte (R182). -/
def State.storeElem (s : State) (f : MemForm) (a : VArgs) (key e : Nat) : State :=
  let t := (s.tagOf a.vd).tag
  if t = .e2m1 then
    let r := s.readBack key
    let b := r.2
    let c := s.dataCode a e
    r.1.streamWrite true (s.orderedGroup f) key (natLe 1 (if e % 2 = 0 then b / 16 * 16 + c else c * 16 + b % 16))
  else s.streamWrite true (s.orderedGroup f) key (natLe t.width (s.dataCode a e))

/-- The elements of a store that a higher one with the same address supersedes (R182, R183). -/
def State.supersededIn (s : State) (f : MemForm) (a : VArgs) (live : List Nat) : List Nat :=
  if f.store && f.stride != .unit then
    live.filter (fun e => live.any (fun d => decide (e < d) && s.elemAddr f a d == s.elemAddr f a e))
  else []

/-- What became of an element: its access landed, or it faulted. -/
abbrev Access := Nat × Except Trap Nat

/-- The accesses of elements that are not superseded, in ascending index. -/
def State.accesses (s : State) (f : MemForm) (a : VArgs) (compare : Bool) (live : List Nat) : List Access :=
  let dead := s.supersededIn f a live
  (live.filter (fun e => !dead.contains e)).map (fun e => (e, s.elemSpot f a compare e))

/-- The lowest element that faults. -/
def firstFault (as : List Access) : Option (Nat × Trap) :=
  as.findSome? (fun p => match p.2 with
    | .error t => some (p.1, t)
    | .ok _ => none)

/-- The accesses that landed, with their keys, among those a condition admits. -/
def landed (as : List Access) (ok : Nat → Bool) : List (Nat × Nat) :=
  as.filterMap (fun p => match p.2 with
    | .ok key => if ok p.1 then some (p.1, key) else none
    | .error _ => none)

/-- The pages of elements are used (R175). -/
def State.noteElems (s : State) (f : MemForm) (a : VArgs) (done : List (Nat × Nat)) : State :=
  done.foldl (fun s p => s.noteUse s.vectorView (s.elemAddr f a p.1)) s

/-- The held vector loads that the accesses of a vector load follow have read (R231). -/
def State.earlierRead (s : State) (a : VArgs) (done : List (Nat × Nat)) : State :=
  let n := (s.tagOf a.vd).tag.memBytes
  s.finishLoads (fun l => done.any (fun p => l.meets true p.2 n))

/-- Elements performed on memory: stored, or read; those read in replay are compared and counted. -/
def State.performElems (s : State) (f : MemForm) (a : VArgs) (compare : Bool) (done : List (Nat × Nat)) : State :=
  let s := s.noteElems f a done
  let n := (s.tagOf a.vd).tag.memBytes
  if f.store && !compare then done.foldl (fun s p => s.storeElem f a p.2 p.1) s
  else
    let s1 := (s.earlierRead a done).sawVector (done.map (fun p => (p.2, n)))
    if compare then s1.countCompares done.length else s1

/-- The codes that a load read. -/
def State.loadedCodes (s : State) (a : VArgs) (done : List (Nat × Nat)) : List (Nat × Nat) :=
  done.map (fun p => (p.1, s.memCode a p.2 p.1))

/-- Elements of vd written alone, without mask or tail policy. -/
def State.writeElems (s : State) (vd : Reg) (cs : List (Nat × Nat)) : State :=
  if cs.isEmpty then s else (s.setImage vd (setCodes (s.widthOf vd) (s.image vd) cs)).markDirty vd

/-- Whether a loose turn holds the load of elements; it does unless some bytes were read early (R231). -/
def State.holdsLoad (s : State) (a : VArgs) (done : List (Nat × Nat)) : Bool :=
  s.loose && !done.isEmpty && done.all (fun p => (s.earlyBytes true p.2 (s.tagOf a.vd).tag.memBytes).isNone)

/-- The load of elements whose accesses landed: `place` writes their codes into vd. A held load places its inactive and tail elements now. -/
def State.loadElems (s : State) (f : MemForm) (a : VArgs) (place : State → List (Nat × Nat) → State) (done : List (Nat × Nat)) : State :=
  let t := (s.tagOf a.vd).tag
  if s.holdsLoad a done then
    let s1 := (s.noteElems f a done).earlierRead a done
    ((place s1 []).markDirty a.vd).holdLoad (.vector a.vd (t == .e2m1) t.memBytes done)
  else
    let s1 := s.earlierRead a done
    place (s1.performElems f a false done) (s1.loadedCodes a done)

/-! ### Unit and strided forms (R188, R189) -/

/-- The inactive elements of a load below a fault, which VSTART passes by: zero under MZ (R119, R189). -/
def State.zeroInactive (s : State) (vd : Reg) (act : Mask) (lo hi : Nat) : State :=
  if s.hart.vec.mz then
    s.writeElems vd (((List.range hi).filter (fun e => decide (lo ≤ e) && !act.testBit e)).map (fun e => (e, 0)))
  else s

/-- A restartable or trimmable instruction; `bs` are the bindings it read. With no active element from VSTART on it writes nothing (R190). -/
def State.linearMemory (s : State) (f : MemForm) (a : VArgs) (g : Gov) (bs : List Binding) : Result :=
  let v := s.hart.vec
  let nibble := (s.tagOf a.vd).tag == .e2m1
  let even (k : Nat) : Nat := if nibble then k / 2 * 2 else k
  let live := activeFrom g.act v.vstart v.vl
  let finish (s : State) : Result := .done ((s.popStrips bs).vstart0.retire g.len)
  match live with
  | [] => finish s
  | first :: _ =>
    if nibble && v.vstart % 2 == 1 then
      let k : Acc := if f.store then .store else .load
      .trap { Trap.plain effMisaligned (s.elemAddr f a v.vstart) (accessWord k.code true v.vstart) with pm := 2 ^ v.vstart }
        (s.setVec { v with vstart := even v.vstart })
    else
      let compare := f.exact && s.inReplay
      let as := s.accesses f a compare live
      match firstFault as with
      | none =>
        let done := landed as (fun _ => true)
        finish (if f.store then s.performElems f a compare done
          else s.loadElems f a (fun s cs => s.placeCodes a.vd v.vstart v.vl g.act cs) done)
      | some (k, t) =>
        if f.trim && !s.hart.mat.m && first < k then
          let done := landed as (fun e => decide (e < k))
          let s1 := s.loadElems f a (fun s cs => s.placeCodes a.vd v.vstart k g.act cs) done
          let c := s1.hart.chain
          let s2 := if c.en then s1.setChain { c with pos := c.pos - BitVec.ofNat 63 (v.vl - k) } else s1
          finish (s2.setVec { s2.hart.vec with vl := k })
        else
          let done := landed as (fun e => decide (e < k) || (!f.ordered && decide (k < e) && Config.performsAbove s.ticks e))
          let s0 := if f.store then s else s.earlierRead a done
          let s1 := s0.performElems f a compare done
          let s2 := if f.store then s1 else (s1.writeElems a.vd (s0.loadedCodes a done)).zeroInactive a.vd g.act v.vstart k
          .trap { t with pm := 2 ^ k } (s2.setVec { s2.hart.vec with vstart := even k })

/-! ### Indexed forms (R187) -/

/-- Elements of an indexed instruction performed; `again` marks that inactive and tail elements are left as they are (R187). -/
def State.performIndexed (s : State) (f : MemForm) (a : VArgs) (g : Gov) (again compare : Bool) (done : List (Nat × Nat)) : State :=
  let v := s.hart.vec
  if f.store then s.performElems f a compare done
  else
    s.loadElems f a (fun s cs =>
      if again then s.writeElems a.vd cs
      else if done.isEmpty && !v.mz && !v.ta then s
      else s.placeCodes a.vd v.vstart v.vl g.act cs) done

/-- The elements of a list of accesses, as a mask. -/
def accessMask (as : List Access) : Mask := as.foldl (fun (m : Mask) (p : Access) => m ||| 2 ^ p.1) 0

/-- The accesses before a stop: those that the turn names, from the lowest on under `.o` (R184, R187). -/
def State.beforeStop (s : State) (f : MemForm) (as : List Access) : List Access :=
  if f.ordered then as.takeWhile (fun p => s.stopAfter.testBit p.1) else as.filter (fun p => s.stopAfter.testBit p.1)

/-- An indexed instruction: every element that does not fault is performed, and pf names the others. Under `.o` no element above
the lowest fault is performed (R184). With VL above 4,096 it may stop between element accesses, with the elements still to perform
kept, and whether they compare (R187, R285, R317). -/
def State.indexedMemory (s : State) (f : MemForm) (a : VArgs) (g : Gov) (again compare : Bool) (bs : List Binding) : Result :=
  let v := s.hart.vec
  let live := activeFrom g.act v.vstart v.vl
  let finish (s : State) : Result := .done ((s.popStrips bs).vstart0.retire g.len)
  if live.isEmpty then finish s
  else
    let as := s.accesses f a compare live
    let first := s.beforeStop f as
    if 4096 < v.vl && !first.isEmpty && decide (first.length < as.length) && (firstFault first).isNone then
      let rest := as.filter (fun p => !(first.any (fun q => q.1 == p.1)))
      .done ((s.performIndexed f a g again compare (landed first (fun _ => true))).wait (.elements (accessMask rest) compare))
    else
      match firstFault as with
      | none => finish (s.performIndexed f a g again compare (landed as (fun _ => true)))
      | some (k, t) =>
        let done := landed as (fun e => !f.ordered || decide (e < k))
        let s2 := s.performIndexed f a g again compare done
        let missed := accessMask (as.filter (fun p => !(done.any (fun q => q.1 == p.1))))
        .trap { t with pm := missed, underPf := true } (s2.setVec { s2.hart.vec with pf := missed, vstart := 0 })

/-! ### A vector memory instruction -/

/-- Whether an operation's own checks hold (R34, R180). -/
def State.memLegal (s : State) (f : MemForm) (a : VArgs) : Bool :=
  let t := s.tagOf a.vd
  let i := s.tagOf a.vs2
  (f.stride == .unit || t.tag != .e2m1) && (f.stride != .indexed || (i.tag.isInt && !i.s && s.modFits a))

/-- Checks 4 and 5 of R42 for an instruction of majors 0x29 to 0x2C: as those of any vector instruction, but the sidecars of its registers are
neither read nor written, and so a binding of theirs is no matter (R180, R261, R262). -/
def State.memChecks (s : State) (reads writes : List Reg) (preds : List Nat) (legal : Bool) : Option Trap :=
  let all := reads ++ writes
  if legal && s.sidecarsValid all && s.vlFits (s.withSidecars all) && s.writable writes && s.stripsFit reads s.hart.vec.vl then
    s.absent (s.withSidecars all) preds []
  else some s.illegal

/-- The elements that the hart's interrupted indexed instruction has still to perform, and whether it compares (R285, R317). -/
def State.elementsLeft (s : State) : Option (Mask × Bool) :=
  match s.hart.cond with
  | .waiting (.elements left compare) => some (left, compare)
  | _ => none

/-- What the vector stream has read early is of no use to a `.o` form, whose accesses come in order (R184). -/
def State.inOrder (s : State) (f : MemForm) : State :=
  if f.ordered then s.setOrder { s.hart.order with early := s.hart.order.early.filter (fun e => !e.vec) } else s

/-- The checks of an instruction of majors 0x29 to 0x2C and its accesses (R179 to R190); one that re-executes under pf takes pf in
place of its governing predicate (R187). A store in replay mode compares from its issue on (R285). -/
def State.vectorMemory (s : State) (op : MOp) (a : VArgs) (g : Gov) : Result :=
  let f := memForm op
  let left := s.elementsLeft
  let again := f.stride == .indexed && (left.isSome || s.hart.eff.underPf)
  let g := if again then { g with pg := 48, act := (left.map (fun p => p.1)).getD s.hart.vec.pf } else g
  let compare := (left.map (fun p => p.2)).getD (f.exact && s.inReplay)
  let index := if f.stride = .indexed then [a.vs2] else []
  let reads := if f.store then a.vd :: index else index
  let writes := if f.store then [] else [a.vd]
  check (s.memChecks reads writes [g.pg] (s.memLegal f a)) s
    (let bs := s.readBindings reads
     match (if compare then (s.inOrder f).finishLoads (fun l => !l.isScalar) else s.inOrder f).takeStrips bs with
      | .error (t, s') => .trap t s'
      | .ok s' => if f.stride = .indexed then s'.indexedMemory f a g again compare bs else s'.linearMemory f a g bs)

def execVld (a : VArgs) (s : State) : Out := (s.vectorMemory .vld a (s.gov a.pg)).out
def execVldO (a : VArgs) (s : State) : Out := (s.vectorMemory .vldO a (s.gov a.pg)).out
def execVldTr (a : VArgs) (s : State) : Out := (s.vectorMemory .vldTr a (s.gov a.pg)).out
def execVldOTr (a : VArgs) (s : State) : Out := (s.vectorMemory .vldOTr a (s.gov a.pg)).out
def execVst (a : VArgs) (s : State) : Out := (s.vectorMemory .vst a (s.gov a.pg)).out
def execVstO (a : VArgs) (s : State) : Out := (s.vectorMemory .vstO a (s.gov a.pg)).out
def execVstX (a : VArgs) (s : State) : Out := (s.vectorMemory .vstX a (s.gov a.pg)).out
def execVstOX (a : VArgs) (s : State) : Out := (s.vectorMemory .vstOX a (s.gov a.pg)).out
def execVlds (a : VArgs) (s : State) : Out := (s.vectorMemory .vlds a (s.gov a.pg)).out
def execVldsO (a : VArgs) (s : State) : Out := (s.vectorMemory .vldsO a (s.gov a.pg)).out
def execVldsTr (a : VArgs) (s : State) : Out := (s.vectorMemory .vldsTr a (s.gov a.pg)).out
def execVldsOTr (a : VArgs) (s : State) : Out := (s.vectorMemory .vldsOTr a (s.gov a.pg)).out
def execVsts (a : VArgs) (s : State) : Out := (s.vectorMemory .vsts a (s.gov a.pg)).out
def execVstsO (a : VArgs) (s : State) : Out := (s.vectorMemory .vstsO a (s.gov a.pg)).out
def execVstsX (a : VArgs) (s : State) : Out := (s.vectorMemory .vstsX a (s.gov a.pg)).out
def execVstsOX (a : VArgs) (s : State) : Out := (s.vectorMemory .vstsOX a (s.gov a.pg)).out
def execVgather (a : VArgs) (s : State) : Out := (s.vectorMemory .vgather a (s.gov a.pg)).out
def execVgatherO (a : VArgs) (s : State) : Out := (s.vectorMemory .vgatherO a (s.gov a.pg)).out
def execVscatter (a : VArgs) (s : State) : Out := (s.vectorMemory .vscatter a (s.gov a.pg)).out
def execVscatterO (a : VArgs) (s : State) : Out := (s.vectorMemory .vscatterO a (s.gov a.pg)).out
def execVscatterX (a : VArgs) (s : State) : Out := (s.vectorMemory .vscatterX a (s.gov a.pg)).out
def execVscatterOX (a : VArgs) (s : State) : Out := (s.vectorMemory .vscatterOX a (s.gov a.pg)).out

end Sys2Proof.Machine
end

