-- ==== Sys2Proof/Machine/WideForms.lean ====
section
/-! DEFINITION. The eight-byte forms: a vector instruction under a prefix, and a system instruction with a long immediate
(R36, R37). -/

namespace Sys2Proof.Machine

/-- The meaning of the body of a wide-vector form, governed by its prefix (R36). -/
def State.wideVector (s : State) (g : Gov) : VectorBody → Result
  | .vec op a => s.vector op a g
  | .mem op a => s.vectorMemory op a g
  | .pred op a => s.predLogic op a g
  | .count op a => s.predCount op a g
  | .pair => s.pair g

/-- The meaning of the body of a wide-system form, with its long immediate sign-extended (R37). -/
def State.wideSystem (s : State) (v : Word) : SystemBody → Result
  | .ladv rd => s.ladv rd v 8
  | .lrewind pd rd => s.lrewind pd rd v 8
  | .ltok rd => s.ltok rd v 8
  | .lpin rd => s.lpin rd v 8
  | .lunpin rd => s.lunpin rd v 8
  | .lopen pd rd => s.lopen pd rd v 8
  | .lset rd => s.lset rd v 8
  | .perform rd rs2 => .done (s.perform rd v (s.getX rs2) 8)
  | .vperform pg rd rs2 => s.vperform pg.toNat rd v (s.getX rs2) 8
  | .resume rs1 => s.resume (s.getX rs1) v
  | .abort rs1 => s.abort (s.getX rs1) v
  | .qsig rs2 => s.qsig v (s.getX rs2) 8
  | .qwait rs2 => s.qwait v (s.getX rs2) 8

def execWideVectorForm (pre : VectorPrefix) (body : VectorBody) (s : State) : Out := (s.wideVector (s.govWide pre) body).out

def execWideSystemForm (imm : BitVec 26) (body : SystemBody) (s : State) : Out := (s.wideSystem (imm.signExtend 64) body).out

end Sys2Proof.Machine
end

