-- ==== Sys2Proof/Machine/Dispatch.lean ====
section
/-! DEFINITION. One arm per constructor of `Instr`: the meaning of each step of the machine. -/

namespace Sys2Proof.Machine

/-- The meaning of an instruction or of a step of another agent. -/
def exec (i : Instr) (s : State) : Host.Outcome State Fault Refusal :=
  match i with
  | .cycles rd => Sys2Proof.Machine.execCycles rd s
  | .retired rd => Sys2Proof.Machine.execRetired rd s
  | .add rd rs1 rs2 => Sys2Proof.Machine.execAdd rd rs1 rs2 s
  | .sub rd rs1 rs2 => Sys2Proof.Machine.execSub rd rs1 rs2 s
  | .and rd rs1 rs2 => Sys2Proof.Machine.execAnd rd rs1 rs2 s
  | .or rd rs1 rs2 => Sys2Proof.Machine.execOr rd rs1 rs2 s
  | .xor rd rs1 rs2 => Sys2Proof.Machine.execXor rd rs1 rs2 s
  | .andn rd rs1 rs2 => Sys2Proof.Machine.execAndn rd rs1 rs2 s
  | .sll rd rs1 rs2 => Sys2Proof.Machine.execSll rd rs1 rs2 s
  | .srl rd rs1 rs2 => Sys2Proof.Machine.execSrl rd rs1 rs2 s
  | .sra rd rs1 rs2 => Sys2Proof.Machine.execSra rd rs1 rs2 s
  | .slt rd rs1 rs2 => Sys2Proof.Machine.execSlt rd rs1 rs2 s
  | .sltu rd rs1 rs2 => Sys2Proof.Machine.execSltu rd rs1 rs2 s
  | .min rd rs1 rs2 => Sys2Proof.Machine.execMin rd rs1 rs2 s
  | .max rd rs1 rs2 => Sys2Proof.Machine.execMax rd rs1 rs2 s
  | .minu rd rs1 rs2 => Sys2Proof.Machine.execMinu rd rs1 rs2 s
  | .maxu rd rs1 rs2 => Sys2Proof.Machine.execMaxu rd rs1 rs2 s
  | .mul rd rs1 rs2 => Sys2Proof.Machine.execMul rd rs1 rs2 s
  | .mulhiSs rd rs1 rs2 => Sys2Proof.Machine.execMulhiSs rd rs1 rs2 s
  | .mulhiUu rd rs1 rs2 => Sys2Proof.Machine.execMulhiUu rd rs1 rs2 s
  | .mulhiSu rd rs1 rs2 => Sys2Proof.Machine.execMulhiSu rd rs1 rs2 s
  | .div rd rs1 rs2 => Sys2Proof.Machine.execDiv rd rs1 rs2 s
  | .divu rd rs1 rs2 => Sys2Proof.Machine.execDivu rd rs1 rs2 s
  | .rem rd rs1 rs2 => Sys2Proof.Machine.execRem rd rs1 rs2 s
  | .remu rd rs1 rs2 => Sys2Proof.Machine.execRemu rd rs1 rs2 s
  | .clz rd rs1 => Sys2Proof.Machine.execClz rd rs1 s
  | .ctz rd rs1 => Sys2Proof.Machine.execCtz rd rs1 s
  | .popc rd rs1 => Sys2Proof.Machine.execPopc rd rs1 s
  | .addi rd rs1 imm => Sys2Proof.Machine.execAddi rd rs1 imm s
  | .andi rd rs1 imm => Sys2Proof.Machine.execAndi rd rs1 imm s
  | .ori rd rs1 imm => Sys2Proof.Machine.execOri rd rs1 imm s
  | .xori rd rs1 imm => Sys2Proof.Machine.execXori rd rs1 imm s
  | .slti rd rs1 imm => Sys2Proof.Machine.execSlti rd rs1 imm s
  | .sltiu rd rs1 imm => Sys2Proof.Machine.execSltiu rd rs1 imm s
  | .slli rd rs1 shamt => Sys2Proof.Machine.execSlli rd rs1 shamt s
  | .srli rd rs1 shamt => Sys2Proof.Machine.execSrli rd rs1 shamt s
  | .srai rd rs1 shamt => Sys2Proof.Machine.execSrai rd rs1 shamt s
  | .lis rd imm sh => Sys2Proof.Machine.execLis rd imm sh s
  | .lisK rd imm sh => Sys2Proof.Machine.execLisK rd imm sh s
  | .addpc rd imm => Sys2Proof.Machine.execAddpc rd imm s
  | .jal rd imm => Sys2Proof.Machine.execJal rd imm s
  | .jalr rd rs1 imm => Sys2Proof.Machine.execJalr rd rs1 imm s
  | .beq ra rb imm => Sys2Proof.Machine.execBeq ra rb imm s
  | .bne ra rb imm => Sys2Proof.Machine.execBne ra rb imm s
  | .blt ra rb imm => Sys2Proof.Machine.execBlt ra rb imm s
  | .bge ra rb imm => Sys2Proof.Machine.execBge ra rb imm s
  | .bltu ra rb imm => Sys2Proof.Machine.execBltu ra rb imm s
  | .bgeu ra rb imm => Sys2Proof.Machine.execBgeu ra rb imm s
  | .lb rd rs1 off => Sys2Proof.Machine.execLb rd rs1 off s
  | .lh rd rs1 off => Sys2Proof.Machine.execLh rd rs1 off s
  | .lw rd rs1 off => Sys2Proof.Machine.execLw rd rs1 off s
  | .ld rd rs1 off => Sys2Proof.Machine.execLd rd rs1 off s
  | .lbu rd rs1 off => Sys2Proof.Machine.execLbu rd rs1 off s
  | .lhu rd rs1 off => Sys2Proof.Machine.execLhu rd rs1 off s
  | .lwu rd rs1 off => Sys2Proof.Machine.execLwu rd rs1 off s
  | .sb rs rs1 off => Sys2Proof.Machine.execSb rs rs1 off s
  | .sh rs rs1 off => Sys2Proof.Machine.execSh rs rs1 off s
  | .sw rs rs1 off => Sys2Proof.Machine.execSw rs rs1 off s
  | .sd rs rs1 off => Sys2Proof.Machine.execSd rs rs1 off s
  | .loop k rs1 imm => Sys2Proof.Machine.execLoop k rs1 imm s
  | .crr rd crn => Sys2Proof.Machine.execCrr rd crn s
  | .crw rd crn rs1 => Sys2Proof.Machine.execCrw rd crn rs1 s
  | .crs rd crn rs1 => Sys2Proof.Machine.execCrs rd crn rs1 s
  | .crc rd crn rs1 => Sys2Proof.Machine.execCrc rd crn rs1 s
  | .fadd a => Sys2Proof.Machine.execFadd a s
  | .fsub a => Sys2Proof.Machine.execFsub a s
  | .fmul a => Sys2Proof.Machine.execFmul a s
  | .fdiv a => Sys2Proof.Machine.execFdiv a s
  | .fsqrt a => Sys2Proof.Machine.execFsqrt a s
  | .fmadd a => Sys2Proof.Machine.execFmadd a s
  | .fmin a => Sys2Proof.Machine.execFmin a s
  | .fmax a => Sys2Proof.Machine.execFmax a s
  | .fsignCp a => Sys2Proof.Machine.execFsignCp a s
  | .fsignNg a => Sys2Proof.Machine.execFsignNg a s
  | .fsignXr a => Sys2Proof.Machine.execFsignXr a s
  | .feq a => Sys2Proof.Machine.execFeq a s
  | .flt a => Sys2Proof.Machine.execFlt a s
  | .fle a => Sys2Proof.Machine.execFle a s
  | .fcvt a => Sys2Proof.Machine.execFcvt a s
  | .fcvtInt64 a => Sys2Proof.Machine.execFcvtInt64 a s
  | .fcvtInt64Sat a => Sys2Proof.Machine.execFcvtInt64Sat a s
  | .fcvtNat64 a => Sys2Proof.Machine.execFcvtNat64 a s
  | .fcvtNat64Sat a => Sys2Proof.Machine.execFcvtNat64Sat a s
  | .amoadd a => Sys2Proof.Machine.execAmoadd a s
  | .amoand a => Sys2Proof.Machine.execAmoand a s
  | .amoor a => Sys2Proof.Machine.execAmoor a s
  | .amoxor a => Sys2Proof.Machine.execAmoxor a s
  | .amomin a => Sys2Proof.Machine.execAmomin a s
  | .amomax a => Sys2Proof.Machine.execAmomax a s
  | .amominu a => Sys2Proof.Machine.execAmominu a s
  | .amomaxu a => Sys2Proof.Machine.execAmomaxu a s
  | .amofx a => Sys2Proof.Machine.execAmofx a s
  | .amoswap a => Sys2Proof.Machine.execAmoswap a s
  | .amocas a => Sys2Proof.Machine.execAmocas a s
  | .amofadd a => Sys2Proof.Machine.execAmofadd a s
  | .lda a => Sys2Proof.Machine.execLda a s
  | .str a => Sys2Proof.Machine.execStr a s
  | .fence set scope => Sys2Proof.Machine.execFence set scope s
  | .fenceSv => Sys2Proof.Machine.execFenceSv s
  | .fenceVs => Sys2Proof.Machine.execFenceVs s
  | .prefetch rs1 rs2 => Sys2Proof.Machine.execPrefetch rs1 rs2 s
  | .tlbinv rs1 => Sys2Proof.Machine.execTlbinv rs1 s
  | .setvl rd rs1 wc cap rs2 => Sys2Proof.Machine.execSetvl rd rs1 wc cap rs2 s
  | .setvlG rd rs1 wc cap rs2 => Sys2Proof.Machine.execSetvlG rd rs1 wc cap rs2 s
  | .gangLengthGrant => Sys2Proof.Machine.execGangLengthGrant s
  | .chainGrant => Sys2Proof.Machine.execChainGrant s
  | .vcfg vd tag sc b vsc => Sys2Proof.Machine.execVcfg vd tag sc b vsc s
  | .vretag vd tag sc b vsc => Sys2Proof.Machine.execVretag vd tag sc b vsc s
  | .bar => Sys2Proof.Machine.execBar s
  | .barrierComplete => Sys2Proof.Machine.execBarrierComplete s
  | .hwpub rs1 => Sys2Proof.Machine.execHwpub rs1 s
  | .jnext => Sys2Proof.Machine.execJnext s
  | .yield => Sys2Proof.Machine.execYield s
  | .endHart => Sys2Proof.Machine.execEndHart s
  | .lpartRcl rd rs1 rs2 => Sys2Proof.Machine.execLpartRcl rd rs1 rs2 s
  | .lpartWt rd rs1 => Sys2Proof.Machine.execLpartWt rd rs1 s
  | .lpartWtRelease => Sys2Proof.Machine.execLpartWtRelease s
  | .mstart rows cols rs1 => Sys2Proof.Machine.execMstart rows cols rs1 s
  | .mstartKeep rows cols rs1 => Sys2Proof.Machine.execMstartKeep rows cols rs1 s
  | .mstop => Sys2Proof.Machine.execMstop s
  | .vadd a => Sys2Proof.Machine.execVadd a s
  | .vsub a => Sys2Proof.Machine.execVsub a s
  | .vaddSat a => Sys2Proof.Machine.execVaddSat a s
  | .vsubSat a => Sys2Proof.Machine.execVsubSat a s
  | .vmul a => Sys2Proof.Machine.execVmul a s
  | .vdiv a => Sys2Proof.Machine.execVdiv a s
  | .vmin a => Sys2Proof.Machine.execVmin a s
  | .vmax a => Sys2Proof.Machine.execVmax a s
  | .vfma a => Sys2Proof.Machine.execVfma a s
  | .vfms a => Sys2Proof.Machine.execVfms a s
  | .vfnma a => Sys2Proof.Machine.execVfnma a s
  | .vfnms a => Sys2Proof.Machine.execVfnms a s
  | .vand a => Sys2Proof.Machine.execVand a s
  | .vor a => Sys2Proof.Machine.execVor a s
  | .vxor a => Sys2Proof.Machine.execVxor a s
  | .vandn a => Sys2Proof.Machine.execVandn a s
  | .vsll a => Sys2Proof.Machine.execVsll a s
  | .vsrl a => Sys2Proof.Machine.execVsrl a s
  | .vsra a => Sys2Proof.Machine.execVsra a s
  | .vrol a => Sys2Proof.Machine.execVrol a s
  | .vneg a => Sys2Proof.Machine.execVneg a s
  | .vabs a => Sys2Proof.Machine.execVabs a s
  | .vsqrt a => Sys2Proof.Machine.execVsqrt a s
  | .vrcp a => Sys2Proof.Machine.execVrcp a s
  | .vrsqrt a => Sys2Proof.Machine.execVrsqrt a s
  | .vfloor a => Sys2Proof.Machine.execVfloor a s
  | .vceil a => Sys2Proof.Machine.execVceil a s
  | .vtrunc a => Sys2Proof.Machine.execVtrunc a s
  | .vrint a => Sys2Proof.Machine.execVrint a s
  | .vnot a => Sys2Proof.Machine.execVnot a s
  | .vclz a => Sys2Proof.Machine.execVclz a s
  | .vctz a => Sys2Proof.Machine.execVctz a s
  | .vpopc a => Sys2Proof.Machine.execVpopc a s
  | .vidx a => Sys2Proof.Machine.execVidx a s
  | .vcmpEq a => Sys2Proof.Machine.execVcmpEq a s
  | .vcmpNe a => Sys2Proof.Machine.execVcmpNe a s
  | .vcmpLt a => Sys2Proof.Machine.execVcmpLt a s
  | .vcmpLe a => Sys2Proof.Machine.execVcmpLe a s
  | .vcmpGt a => Sys2Proof.Machine.execVcmpGt a s
  | .vcmpGe a => Sys2Proof.Machine.execVcmpGe a s
  | .vcmpUno a => Sys2Proof.Machine.execVcmpUno a s
  | .vcmpOrd a => Sys2Proof.Machine.execVcmpOrd a s
  | .vcvt a => Sys2Proof.Machine.execVcvt a s
  | .vcvtSat a => Sys2Proof.Machine.execVcvtSat a s
  | .vcvtBlk a => Sys2Proof.Machine.execVcvtBlk a s
  | .vsel a => Sys2Proof.Machine.execVsel a s
  | .vsplat a => Sys2Proof.Machine.execVsplat a s
  | .vsplatImm pre vs1 vd => Sys2Proof.Machine.execVsplatImm pre vs1 vd s
  | .vext a => Sys2Proof.Machine.execVext a s
  | .vins a => Sys2Proof.Machine.execVins a s
  | .vperm a => Sys2Proof.Machine.execVperm a s
  | .vslup a => Sys2Proof.Machine.execVslup a s
  | .vsldn a => Sys2Proof.Machine.execVsldn a s
  | .vcompress a => Sys2Proof.Machine.execVcompress a s
  | .vredsum a => Sys2Proof.Machine.execVredsum a s
  | .vredsumO a => Sys2Proof.Machine.execVredsumO a s
  | .vredmin a => Sys2Proof.Machine.execVredmin a s
  | .vredmax a => Sys2Proof.Machine.execVredmax a s
  | .vscan a => Sys2Proof.Machine.execVscan a s
  | .vscanLin a => Sys2Proof.Machine.execVscanLin a s
  | .vrenorm a => Sys2Proof.Machine.execVrenorm a s
  | .vrng a => Sys2Proof.Machine.execVrng a s
  | .vrngF a => Sys2Proof.Machine.execVrngF a s
  | .pair pg => Sys2Proof.Machine.execPair pg s
  | .pand a => Sys2Proof.Machine.execPand a s
  | .por a => Sys2Proof.Machine.execPor a s
  | .pxor a => Sys2Proof.Machine.execPxor a s
  | .pandn a => Sys2Proof.Machine.execPandn a s
  | .pmov a => Sys2Proof.Machine.execPmov a s
  | .pnot a => Sys2Proof.Machine.execPnot a s
  | .pset a => Sys2Proof.Machine.execPset a s
  | .pclr a => Sys2Proof.Machine.execPclr a s
  | .pbrk a => Sys2Proof.Machine.execPbrk a s
  | .pbrkb a => Sys2Proof.Machine.execPbrkb a s
  | .pcnt a => Sys2Proof.Machine.execPcnt a s
  | .pfirst a => Sys2Proof.Machine.execPfirst a s
  | .plast a => Sys2Proof.Machine.execPlast a s
  | .vld a => Sys2Proof.Machine.execVld a s
  | .vldO a => Sys2Proof.Machine.execVldO a s
  | .vldTr a => Sys2Proof.Machine.execVldTr a s
  | .vldOTr a => Sys2Proof.Machine.execVldOTr a s
  | .vst a => Sys2Proof.Machine.execVst a s
  | .vstO a => Sys2Proof.Machine.execVstO a s
  | .vstX a => Sys2Proof.Machine.execVstX a s
  | .vstOX a => Sys2Proof.Machine.execVstOX a s
  | .vlds a => Sys2Proof.Machine.execVlds a s
  | .vldsO a => Sys2Proof.Machine.execVldsO a s
  | .vldsTr a => Sys2Proof.Machine.execVldsTr a s
  | .vldsOTr a => Sys2Proof.Machine.execVldsOTr a s
  | .vsts a => Sys2Proof.Machine.execVsts a s
  | .vstsO a => Sys2Proof.Machine.execVstsO a s
  | .vstsX a => Sys2Proof.Machine.execVstsX a s
  | .vstsOX a => Sys2Proof.Machine.execVstsOX a s
  | .vgather a => Sys2Proof.Machine.execVgather a s
  | .vgatherO a => Sys2Proof.Machine.execVgatherO a s
  | .vscatter a => Sys2Proof.Machine.execVscatter a s
  | .vscatterO a => Sys2Proof.Machine.execVscatterO a s
  | .vscatterX a => Sys2Proof.Machine.execVscatterX a s
  | .vscatterOX a => Sys2Proof.Machine.execVscatterOX a s
  | .scopy pd rd rs1 rs2 => Sys2Proof.Machine.execScopy pd rd rs1 rs2 s
  | .channelGrant => Sys2Proof.Machine.execChannelGrant s
  | .scopyChunkComplete => Sys2Proof.Machine.execScopyChunkComplete s
  | .sbind vd rs1 => Sys2Proof.Machine.execSbind vd rs1 s
  | .sunbind vd => Sys2Proof.Machine.execSunbind vd s
  | .srearm vd => Sys2Proof.Machine.execSrearm vd s
  | .stripFetch => Sys2Proof.Machine.execStripFetch s
  | .tkput q p => Sys2Proof.Machine.execTkput q p s
  | .tkget q p => Sys2Proof.Machine.execTkget q p s
  | .tokenFifoRelease => Sys2Proof.Machine.execTokenFifoRelease s
  | .qsig rs1 rs2 => Sys2Proof.Machine.execQsig rs1 rs2 s
  | .qwait rs1 rs2 => Sys2Proof.Machine.execQwait rs1 rs2 s
  | .qwaitRelease => Sys2Proof.Machine.execQwaitRelease s
  | .cairnBlockCopy => Sys2Proof.Machine.execCairnBlockCopy s
  | .ladderRestoreChunk => Sys2Proof.Machine.execLadderRestoreChunk s
  | .hpop => Sys2Proof.Machine.execHpop s
  | .preempt => Sys2Proof.Machine.execPreempt s
  | .vspill reg rs1 => Sys2Proof.Machine.execVspill reg rs1 s
  | .vfill reg rs1 => Sys2Proof.Machine.execVfill reg rs1 s
  | .vspillP reg rs1 => Sys2Proof.Machine.execVspillP reg rs1 s
  | .vfillP reg rs1 => Sys2Proof.Machine.execVfillP reg rs1 s
  | .pfset reg => Sys2Proof.Machine.execPfset reg s
  | .evictV rs1 => Sys2Proof.Machine.execEvictV rs1 s
  | .evictP rs1 => Sys2Proof.Machine.execEvictP rs1 s
  | .evictA rs1 => Sys2Proof.Machine.execEvictA rs1 s
  | .opa a => Sys2Proof.Machine.execOpa a s
  | .resolve a => Sys2Proof.Machine.execResolve a s
  | .acmp a => Sys2Proof.Machine.execAcmp a s
  | .accstRaw tile rs1 => Sys2Proof.Machine.execAccstRaw tile rs1 s
  | .accstFx tile rs1 => Sys2Proof.Machine.execAccstFx tile rs1 s
  | .accldRaw tile rs1 => Sys2Proof.Machine.execAccldRaw tile rs1 s
  | .acczero tile both => Sys2Proof.Machine.execAcczero tile both s
  | .anchor tile isImm imm rs1 => Sys2Proof.Machine.execAnchor tile isImm imm rs1 s
  | .wideVectorForm pre body => Sys2Proof.Machine.execWideVectorForm pre body s
  | .wideSystemForm imm body => Sys2Proof.Machine.execWideSystemForm imm body s
  | .cAddi rd imm => Sys2Proof.Machine.execCAddi rd imm s
  | .cMv rd rs => Sys2Proof.Machine.execCMv rd rs s
  | .cAdd rd rs => Sys2Proof.Machine.execCAdd rd rs s
  | .cLd r rs1 off => Sys2Proof.Machine.execCLd r rs1 off s
  | .cSd r rs1 off => Sys2Proof.Machine.execCSd r rs1 off s
  | .cBz rs imm => Sys2Proof.Machine.execCBz rs imm s
  | .cBnz rs imm => Sys2Proof.Machine.execCBnz rs imm s
  | .cJ imm => Sys2Proof.Machine.execCJ imm s
  | .cRet => Sys2Proof.Machine.execCRet s
  | .cEnd => Sys2Proof.Machine.execCEnd s
  | .cYield => Sys2Proof.Machine.execCYield s
  | .placeGang => Sys2Proof.Machine.execPlaceGang s
  | .jobCompletion => Sys2Proof.Machine.execJobCompletion s
  | .spreadSteal => Sys2Proof.Machine.execSpreadSteal s
  | .summitScan => Sys2Proof.Machine.execSummitScan s
  | .declineDelay => Sys2Proof.Machine.execDeclineDelay s
  | .nop => Sys2Proof.Machine.execNop s
  | .job => Sys2Proof.Machine.execJob s
  | .copy => Sys2Proof.Machine.execCopy s
  | .copyComplete => Sys2Proof.Machine.execCopyComplete s
  | .signal => Sys2Proof.Machine.execSignal s
  | .wait => Sys2Proof.Machine.execWait s
  | .fenceCommand => Sys2Proof.Machine.execFenceCommand s
  | .indirect => Sys2Proof.Machine.execIndirect s
  | .createStream => Sys2Proof.Machine.execCreateStream s
  | .destroyStream => Sys2Proof.Machine.execDestroyStream s
  | .cairnStoreSize => Sys2Proof.Machine.execCairnStoreSize s
  | .spillAreas => Sys2Proof.Machine.execSpillAreas s
  | .invalidate => Sys2Proof.Machine.execInvalidate s
  | .allocateSignal => Sys2Proof.Machine.execAllocateSignal s
  | .freeSignal => Sys2Proof.Machine.execFreeSignal s
  | .tailWrite => Sys2Proof.Machine.execTailWrite s
  | .controlRegionWrite => Sys2Proof.Machine.execControlRegionWrite s
  | .rdmaWrite => Sys2Proof.Machine.execRdmaWrite s
  | .rdmaRead => Sys2Proof.Machine.execRdmaRead s
  | .fabricAtomic => Sys2Proof.Machine.execFabricAtomic s
  | .connectionSetup => Sys2Proof.Machine.execConnectionSetup s
  | .transportGiveUp => Sys2Proof.Machine.execTransportGiveUp s
  | .ident => Sys2Proof.Machine.execIdent s
  | .upload => Sys2Proof.Machine.execUpload s
  | .select => Sys2Proof.Machine.execSelect s
  | .reset => Sys2Proof.Machine.execReset s
  | .status => Sys2Proof.Machine.execStatus s
  | .attest => Sys2Proof.Machine.execAttest s
  | .resumeRequest => Sys2Proof.Machine.execResumeRequest s
  | .powerGood => Sys2Proof.Machine.execPowerGood s
  | .baseMode => Sys2Proof.Machine.execBaseMode s
  | .firmwareVerify => Sys2Proof.Machine.execFirmwareVerify s
  | .memoryTraining => Sys2Proof.Machine.execMemoryTraining s
  | .thermalSample => Sys2Proof.Machine.execThermalSample s
  | .singleBitError => Sys2Proof.Machine.execSingleBitError s
  | .uncorrectableRead => Sys2Proof.Machine.execUncorrectableRead s
  | .linkFlitRetry => Sys2Proof.Machine.execLinkFlitRetry s
  | .illegalInstruction => Sys2Proof.Machine.execIllegalInstruction s
  | .instructionFetchFault => Sys2Proof.Machine.execInstructionFetchFault s
  | .storeReachesHome => Sys2Proof.Machine.execStoreReachesHome s
  | .mainInputOff => Sys2Proof.Machine.execMainInputOff s
  | .hpre rd rs1 rs2 => Sys2Proof.Machine.execHpre rd rs1 rs2 s
  | .hpark rd => Sys2Proof.Machine.execHpark rd s
  | .hwake rd rs1 rs2 => Sys2Proof.Machine.execHwake rd rs1 rs2 s
  | .ladv rd rs1 => Sys2Proof.Machine.execLadv rd rs1 s
  | .lrewind pd rd rs1 => Sys2Proof.Machine.execLrewind pd rd rs1 s
  | .ltok rd rs1 => Sys2Proof.Machine.execLtok rd rs1 s
  | .lfork pd rd rs1 => Sys2Proof.Machine.execLfork pd rd rs1 s
  | .lmatch rd rs1 rs2 => Sys2Proof.Machine.execLmatch rd rs1 rs2 s
  | .lpin rd rs1 => Sys2Proof.Machine.execLpin rd rs1 s
  | .lunpin rd rs1 => Sys2Proof.Machine.execLunpin rd rs1 s
  | .lopen pd rd rs1 => Sys2Proof.Machine.execLopen pd rd rs1 s
  | .lclose rd => Sys2Proof.Machine.execLclose rd s
  | .lcloseS rd => Sys2Proof.Machine.execLcloseS rd s
  | .lset rd rs1 => Sys2Proof.Machine.execLset rd rs1 s
  | .perform rd rs1 rs2 => Sys2Proof.Machine.execPerform rd rs1 rs2 s
  | .vperform pg rd rs1 rs2 => Sys2Proof.Machine.execVperform pg rd rs1 rs2 s
  | .hpush rd rs1 rs2 => Sys2Proof.Machine.execHpush rd rs1 rs2 s
  | .resume rs1 rs2 => Sys2Proof.Machine.execResume rs1 rs2 s
  | .abort rs1 rs2 => Sys2Proof.Machine.execAbort rs1 rs2 s
  | .tkeep rs1 rs2 => Sys2Proof.Machine.execTkeep rs1 rs2 s
  | .tdrop rs1 => Sys2Proof.Machine.execTdrop rs1 s

end Sys2Proof.Machine
end

