-- ==== Sys2Proof/Machine/Turn.lean ====
section
/-! DEFINITION. Turns: what a hart fetches and runs, which steps of other agents are due, and which comes next when the agenda does
not say (R25, R28, R41, R43, R317; the order of turns is the model's own, entry 3). -/

namespace Sys2Proof.Machine

/-! ### A hart's turn -/

/-- The meaning of a far instruction: that of its constructor of `Instr`. -/
def execFar (f : FarInstr) (s : State) : Out :=
  match f with
  | .hpre rd rs1 rs2 => execHpre rd rs1 rs2 s
  | .hpark rd => execHpark rd s
  | .hwake rd rs1 rs2 => execHwake rd rs1 rs2 s
  | .ladv rd rs1 => execLadv rd rs1 s
  | .lrewind pd rd rs1 => execLrewind pd rd rs1 s
  | .ltok rd rs1 => execLtok rd rs1 s
  | .lfork pd rd rs1 => execLfork pd rd rs1 s
  | .lmatch rd rs1 rs2 => execLmatch rd rs1 rs2 s
  | .lpin rd rs1 => execLpin rd rs1 s
  | .lunpin rd rs1 => execLunpin rd rs1 s
  | .lopen pd rd rs1 => execLopen pd rd rs1 s
  | .lclose rd => execLclose rd s
  | .lcloseS rd => execLcloseS rd s
  | .lset rd rs1 => execLset rd rs1 s
  | .perform rd rs1 rs2 => execPerform rd rs1 rs2 s
  | .vperform pg rd rs1 rs2 => execVperform pg rd rs1 rs2 s
  | .hpush rd rs1 rs2 => execHpush rd rs1 rs2 s
  | .resume rs1 rs2 => execResume rs1 rs2 s
  | .abort rs1 rs2 => execAbort rs1 rs2 s
  | .tkeep rs1 rs2 => execTkeep rs1 rs2 s
  | .tdrop rs1 => execTdrop rs1 s

/-! ### What an instruction waits for, and what it may pass (R91, R136, R231, R240, R248, R276, R278, R283; entries 5 and 24) -/

/-- The predicate that governs an instruction (R30, R36, R240). -/
def governorOf (w u : IWord) : Option Nat :=
  let m := (fMajor w).toNat
  if 0x19 ≤ m ∧ m ≤ 0x2C then some (fPg w).toNat
  else if m = 0x35 ∨ (m = 0x34 ∧ (fRd w = 1#5 ∨ fRd w = 2#5)) then some (w.extractLsb' 26 6).toNat
  else if m = 0x31 ∧ w.extractLsb' 16 4 = 2#4 then some (w.extractLsb' 20 4).toNat
  else if m = 0x36 ∧ fMajor u = 0x31#6 ∧ u.extractLsb' 16 4 = 2#4 then some (u.extractLsb' 20 4).toNat
  else none

/-- The word that says what an instruction does: the body of a wide form, else its first word (R36, R37). -/
def bodyOf (w u : IWord) : IWord := if fMajor w = 0x35#6 ∨ fMajor w = 0x36#6 then u else w

/-- The register fields of format R and of the forms laid out like it (R30). -/
def regFields (w : IWord) : List Reg := [fRd w, fRs1 w, fRs2 w]

/-- The register x(8 + c) of a 3-bit field (R44). -/
def shortReg (c : BitVec 3) : Reg := 8#5 + c.setWidth 5

/-- The scalar registers that a vector word reads or writes, alone or as the body of a `wide` form, where the immediate splat reads none (R147 to
R182). -/
def vectorNames (b : IWord) (wide : Bool) : List Reg :=
  let fn := (fFn2 b).toNat
  match (fMajor b).toNat with
  | 0x21 =>
    if fn = 1 then (if wide && fRs2 b == 0#5 then [] else [fRs1 b])
    else if fn = 2 then [fRd b, fRs2 b]
    else if fn = 3 then [fRs1 b, fRs2 b]
    else []
  | 0x22 => if fn = 1 ∨ fn = 2 then [fRs2 b] else []
  | 0x24 => if fn ≤ 1 then [fRs2 b] else []
  | 0x25 => [fRs1 b, fRs2 b]
  | 0x28 => [fRd b]
  | 0x29 | 0x2A | 0x2C => [fRs1 b]
  | 0x2B => [fRs1 b, fRs2 b]
  | _ => []

/-- The scalar registers that a word of the scalar majors reads or writes, those named without a field among them (R30, R44, R95 to R107, R131,
R299). -/
def scalarNames (w : IWord) : List Reg :=
  let m := (fMajor w).toNat
  if (2 ≤ m ∧ m ≤ 8) ∨ (0xC ≤ m ∧ m ≤ 0xF) ∨ m = 0x11 then [fRd w, fRs1 w]
  else if 9 ≤ m ∧ m ≤ 0xB then [fRd w]
  else if m = 0x10 then [fRs1 w]
  else if m = 0x17 then (if w.extractLsb' 16 11 = 3#11 then [4#5, 5#5] else regFields w)
  else if m = 0x31 then (if w.extractLsb' 16 4 = 3#4 then 2#5 :: regFields w else regFields w)
  else if m = 0x38 ∨ m = 0x39 ∨ m = 0x3A then [fRd w, fRs1 w]
  else if m = 0x3B ∨ m = 0x3C then [shortReg (w.extractLsb' 7 3), shortReg (w.extractLsb' 4 3)]
  else if m = 0x3D then [shortReg (w.extractLsb' 6 3)]
  else if m = 0x3E then []
  else if m = 0x3F then (if fRd w = 0#5 then [1#5] else [])
  else regFields w

/-- The scalar registers that an instruction may read or write. -/
def namesOf (w u : IWord) : List Reg :=
  let b := bodyOf w u
  let m := (fMajor b).toNat
  if m = 0x16 then []
  else if m = 0x18 ∨ m = 0x32 then [fRs1 b]
  else if 0x19 ≤ m ∧ m ≤ 0x2C then vectorNames b (fMajor w == 0x35#6)
  else if m = 0x34 then (if fRd w = 0#5 ∨ fRd w = 5#5 then [] else [fRs1 u])
  else scalarNames b

/-- Whether a held load may be read after an instruction: one that names neither its scalar destination nor, with its sidecars, its vector
destination, and that neither saves registers nor performs the accesses of its stream. -/
def State.passes (s : State) (w u : IWord) (l : HeldLoad) : Bool :=
  let m := (fMajor w).toNat
  let b := (fMajor (bodyOf w u)).toNat
  match l with
  | .scalar rd _ _ _ => b != 0x31 && !(namesOf w u).contains rd
  | .vector vd _ _ _ =>
    if m ≤ 0x10 ∨ (0x12 ≤ m ∧ m ≤ 0x14) ∨ m = 0x17 ∨ m = 0x27 ∨ m = 0x28 ∨ m = 0x2D ∨ m = 0x2F ∨ m = 0x30 ∨ 0x38 ≤ m then true
    else if m = 0x16 ∨ (0x19 ≤ m ∧ m ≤ 0x25) ∨ (0x29 ≤ m ∧ m ≤ 0x2C) then !(s.withSidecars (regFields w)).contains vd
    else false

/-- Held loads are read before an instruction that may not pass them, and a governor that a transfer reported into acquires its chunks
(R240). -/
def State.readyFor (s : State) (w u : IWord) : State :=
  let s1 := if s.hart.order.loads.isEmpty then s else s.finishLoads (fun l => !s.passes w u l)
  match governorOf w u with
  | some p => if s1.hart.eng.masks.testBit p && s1.pred p != 0 then s1.startAfresh 1 else s1
  | none => s1

/-! ### Instructions of the queues (R91, R136, R141, R232, R244, R267, R278; entry 24) -/

/-- Whether an instruction writes VL at its place in the vector queue: `mstart`, and the trimmable loads (R116, R188, R202). -/
def writesLength (w u : IWord) : Bool :=
  let b := bodyOf w u
  let m := fMajor b
  m == 0x18#6 || (m == 0x29#6 && b.getLsbD 17) || (m == 0x2B#6 && !b.getLsbD 17 && b.getLsbD 4)

/-- Whether an instruction is a complement pair (R164). -/
def isPair (w u : IWord) : Bool := fMajor (bodyOf w u) == 0x26#6

/-- Whether an instruction can wait in a queue while the hart goes on: one of the vector or the ladder queue, and a `scopy` or an `sbind` whose
dispatch waits for an older one (R248, R261). -/
def canWait (w u : IWord) : Bool := inVectorQueue w || isSbind w || isScopy w || (ladderWordOf w u).isSome

/-- The scalar register that an instruction of the vector or the ladder queue writes when it completes (R141, R156, R159, R168, R278, R365). -/
def lateDest (w u : IWord) : Option Reg :=
  let r : Option Reg := match ladderWordOf w u with
    | some l => some (fRd l)
    | none =>
      let b := bodyOf w u
      let m := fMajor b
      if m = 0x28#6 ∨ (m = 0x21#6 ∧ fFn2 b = 2#2) then some (fRd b)
      else if m = 0x24#6 ∧ (fFn2 b = 0#2 ∨ fFn2 b = 1#2) then some (fRs2 b)
      else none
  r.filter (fun r => r != 0#5)

/-- Whether a vector instruction accesses memory: loads and stores, `accst` and `accld`, spills and fills. -/
def accessesMemory (w u : IWord) : Bool :=
  let b := (fMajor (bodyOf w u)).toNat
  (decide (0x29 ≤ b) && decide (b ≤ 0x2C)) || (b == 0x32 && decide ((w.extractLsb' 24 3).toNat < 4)) || (fMajor w == 0x34#6 && (fRd w == 3#5 || fRd w == 4#5))

/-- Whether an instruction of the scalar stream accesses memory: loads, stores, atomics, `lda`, `str`, and the records of `scopy` and `sbind`
(R231, R248, R261). -/
def scalarAccess (w : IWord) : Bool :=
  let m := fMajor w
  m == 0x0E#6 || m == 0x0F#6 || m == 0x13#6 || m == 0x3B#6 || m == 0x3C#6 || isScopy w || isSbind w

/-- Function of a ladder word (R277). -/
def ladderFn (l : IWord) : Nat := (l.extractLsb' 16 5).toNat

/-- Whether an instruction is a ladder fence: `ladv`, `lrewind`, `lfork`, `lmatch`, `lclose.s` (R279). -/
def isLadderFence (w u : IWord) : Bool :=
  match ladderWordOf w u with
  | some l => [1, 2, 4, 5, 0xA].contains (ladderFn l)
  | none => false

/-- Whether a ladder fence holds every later access: `ladv`, `lclose.s` (R279). -/
def holdsAccesses (w u : IWord) : Bool :=
  match ladderWordOf w u with
  | some l => ladderFn l == 1 || ladderFn l == 0xA
  | none => false

/-- Whether an instruction of the vector queue changes what the dispatch of an `sbind` looks at: tags, presence, bindings, VL (R261). -/
def changesBinding (w u : IWord) : Bool :=
  let m := fMajor w
  m == 0x16#6 || m == 0x2E#6 || m == 0x32#6 || writesLength w u

/-- Whether an instruction that waits holds back an instruction that goes through another queue, or that is dispatched by the scalar stream: it
will write a scalar register that the other names (R141, R278), is a vector access that a ladder fence follows, a fence that accesses follow
(R279), or changes what the other's dispatch looks at (R248, R261). -/
def Aside.stops (a : Aside) (w u : IWord) : Bool :=
  match a with
  | .later v x _ =>
    (match lateDest v x with
      | some r => (namesOf w u).contains r
      | none => false) ||
    (isLadderFence w u && accessesMemory v x) || (holdsAccesses v x && (accessesMemory w u || scalarAccess w)) ||
    (isScopy w && fMajor v == 0x32#6) || (isSbind w && changesBinding v x)
  | _ => false

/-- Whether an instruction that waits holds a queue that another goes through. -/
def Aside.ahead (a : Aside) (w u : IWord) : Bool :=
  ((inVectorQueue w || isSbind w || isScopy w) && a.holds 1) ||
    (match ladderWordOf w u with
      | some l => a.holds 3 || (clearsMask l && a.holds 1)
      | none => false)

/-- The control registers that instructions of the vector queue read or write (R91). -/
def vectorControl (n : Nat) : Bool :=
  decide (n ≤ 0x005) || (decide (0x008 ≤ n) && decide (n ≤ 0x015)) || n == 0x034 || n == 0x036 || (decide (0x055 ≤ n) && decide (n ≤ 0x057)) ||
    n == 0x05B || n == 0x064

/-- The control registers that show the bound stream (R276). -/
def ladderControl (n : Nat) : Bool := decide (0x060 ≤ n) && decide (n ≤ 0x064)

/-- Whether an instruction that waits in its queue reads or writes a control register: a `scopy` PDIRTY until its clear, an `sbind` VL, the tags
and VDIRTY (R91, R248, R261, R276). -/
def Aside.usesControl (a : Aside) (n : Nat) : Bool :=
  match a with
  | .fifo _ _ _ => false
  | .copy _ _ _ _ _ _ cleared => n == 0x056 && !cleared
  | .bind _ _ _ => n == 0x002 || (decide (0x008 ≤ n) && decide (n ≤ 0x00F)) || n == 0x055
  | .later w u _ => (match ladderWordOf w u with
    | some l => ladderControl n || (clearsMask l && vectorControl n)
    | none => vectorControl n)

/-- Whether a control-register access to `n` waits for an earlier instruction of a queue (R91). -/
def State.controlHeld (s : State) (n : Nat) : Bool := s.pends.any (fun p => p.what.usesControl n)

/-- Whether an instruction of the hart that a condition admits waits in its queue by its words. -/
def State.anyLater (s : State) (f : IWord → IWord → Bool) : Bool :=
  s.pends.any (fun q => match q.what with
    | .later v x _ => f v x
    | _ => false)

/-- Whether an instruction waits for an older one that waits in its queue: one that stops it (`Aside.stops`), that uses the control register it
accesses (R91), whose accesses it orders (R196, R197), or that changes VL, or still needs the lanes, before it sets VL (R91, R126). -/
def State.standsBack (s : State) (w u : IWord) : Bool :=
  let m := fMajor w
  s.pends.any (fun p => p.what.stops w u) ||
  (m == 0x11#6 && s.controlHeld (w.extractLsb' 16 12).toNat) ||
  (m == 0x14#6 && s.anyLater accessesMemory) ||
  (m == 0x15#6 && ((s.hart.priv.reclaim.isSome && !s.pends.isEmpty) || s.anyLater writesLength))

/-- Whether an instruction touches the hart's registers alone. While nothing but tokens holds its queue it runs at its place, since no one can
tell when it issued and every result is that of program order (R136): DEDUCED, entry 24. -/
def calm (w u : IWord) : Bool :=
  let b := (fMajor (bodyOf w u)).toNat
  b == 0x16 || (decide (0x19 ≤ b) && decide (b ≤ 0x28)) || (fMajor w == 0x34#6 && !accessesMemory w u)

/-- Whether the vector queue holds an instruction back. -/
def State.vectorHeld (s : State) (w u : IWord) : Bool :=
  if calm w u && s.hart.eng.bindings.isEmpty then
    s.pends.any (fun p => p.what.holds 1 && (match p.what with
      | .fifo _ _ _ => false
      | _ => true))
  else s.queueHeld 1 || (accessesMemory w u && s.exposed)

/-- Whether an instruction waits behind one that waits in its queue; a vector access also waits while any older instruction can still fault
(R136). The dispatch of a `scopy` or an `sbind` is the scalar stream's own, and does not. -/
def State.heldBack (s : State) (w u : IWord) : Bool :=
  (inVectorQueue w && s.vectorHeld w u) ||
    (match ladderWordOf w u with
      | some l => s.queueHeld 3 || (clearsMask l && s.queueHeld 1)
      | none => false)

/-- What was decoded runs; words that decode to nothing raise IllegalInstruction (R41). -/
def run (d : Decoded) (s : State) : Out :=
  match d with
  | .ok (.near i) => exec i s
  | .ok (.far f) => execFar f s
  | .error _ => exec .illegalInstruction s

/-- Whether an instruction that is to wait in its queue can still fault (R136): every one but a ladder instruction that raises no effect, as those
that report into a predicate do not once it is found present (R277 to R291). -/
def State.mayFault (s : State) (w u : IWord) : Bool :=
  match decodeCode w u, ladderWordOf w u with
  | .ok _, some l =>
    let fn := ladderFn l
    fn == 1 || fn == 5 ||
      (clearsMask l && ((s.absent [] [(l.extractLsb' 21 6).toNat] []).isSome || s.anyLater (fun v _ => fMajor v == 0x32#6)))
  | _, _ => true

/-- Where the record of a `scopy` or an `sbind` lies, and its dwords. -/
def State.recordOf (s : State) (w : IWord) : Word × Nat := if isScopy w then (s.getX (fRs2 w), 4) else (s.getX (fRs1 w), 8)

/-- The dwords of a record as a waiting instruction keeps them, and back. -/
def keepDwords (ds : List Word) : List (IWord × IWord × Nat) := ds.map (fun d => (d.extractLsb' 0 32, d.extractLsb' 32 32, 0))
def keptDwords (ms : List (IWord × IWord × Nat)) : List Word := ms.map (fun m => m.2.1 ++ m.1)

/-- The instruction at the pc waits in its queue: a pair with its members as they are fetched now, a `scopy` or an `sbind` with its record as the
scalar stream reads it now, where no access of it faults (R248, R261). Where it can fault and no other that can does, what the hart has held
back goes before it. A pair whose members cannot be fetched waits with the scalar stream. -/
def State.defer (s : State) (w u : IWord) : State :=
  let len := if 0x34 ≤ (fMajor w).toNat then 8 else 4
  let faults := s.mayFault w u
  let s1 := if s.exposed || !faults then s else s.noting s.settle
  if isPair w u then
    match s.fetchMembers len with
    | .ok (a, b) => s1.setAside s1.hart (.later w u faults) (len + a.2.2 + b.2.2) [a, b]
    | .error _ => s.wait .queue
  else if isScopy w || isSbind w then
    let r := s.recordOf w
    match s1.loadRecord r.1 r.2 with
    | .ok ds => (s1.noteRecord r.1 r.2).setAside s1.hart (.later w u faults) len (keepDwords ds)
    | .error _ => s1.setAside s1.hart (.later w u faults) len
  else s1.setAside s1.hart (.later w u faults) len

/-- An instruction goes on later: in its queue, or with the whole scalar stream. -/
def State.putOff (s : State) (w u : IWord) : State := if canWait w u then s.defer w u else s.wait .queue

/-- Whether what an instruction did may be done only by the hart's oldest: it took an effect, resumed or ended a token, gave up lanes, or is over
(R136, R318). -/
def State.needsOldest (s t : State) : Bool :=
  t.hart.eff.tokens != s.hart.eff.tokens || t.hart.id != s.hart.id ||
    (match t.hart.cond with
      | .halted _ _ | .parked _ | .vacant => true
      | _ => false)

/-- What follows from an instruction's answer: it waits in its queue for an engine (R245, R283), or, where older instructions still wait, for
them; else it has run, and what it did outside the hart cannot be undone. -/
def State.answered (s : State) (w u : IWord) (out : Out) : Out :=
  match out with
  | .next t =>
    if t.hart.cond = .waiting .engine then .next (s.putOff w u)
    else if s.pends.isEmpty then out
    else if s.needsOldest t || !s.mayAct t s.exposed then .next (s.putOff w u)
    else .next (s.noting t)
  | _ => out

/-- An instruction younger than one that can still fault holds its stores back (R136). -/
def State.ahead (s : State) : State := if s.exposed then { s with loose := true } else s

/-- Whether an instruction, once fetched, can raise no effect: integer arithmetic, branches and jumps. -/
def cannotFault (w : IWord) : Bool :=
  let m := (fMajor w).toNat
  (decide (1 ≤ m) && decide (m ≤ 0xD)) || m == 0x38 || m == 0x39 || m == 0x3A || m == 0x3D || m == 0x3E || (m == 0x3F && fRd w == 0#5)

/-- After an instruction that could fault, what the vector stream had read before it for younger ones is of no use: they access nothing while it
can (R136). -/
def spent (w : IWord) (out : Out) : Out :=
  match out with
  | .next t => .next (if cannotFault w then t else t.startAfresh 1)
  | _ => out

/-- The instruction of two words runs, unless it waits for older ones. -/
def State.attempt (s : State) (w u : IWord) : Out :=
  spent w (match decodeCode w u with
    | .ok c =>
      if s.standsBack w u || s.heldBack w u then .next (s.putOff w u)
      else s.answered w u (run (.ok c) (s.ahead.readyFor w u))
    | .error e => s.answered w u (run (.error e) (s.ahead.readyFor w u)))

/-! ### Instructions that go on late -/

/-- The hart's accesses as a waiting instruction finds them: what is younger is not there yet (R231, R234, R279). -/
def OrderState.older (o : OrderState) (p : Pend) : OrderState :=
  { o with stores := o.stores.filter (fun h => decide (h.age < p.age)), loads := o.loads.filter (fun l => decide (l.1 < p.age)),
           epoch := p.before.order.epoch }

/-- The hart's accesses after a waiting instruction, with the younger ones; what the vector stream has read early is of no use (R136). -/
def OrderState.rejoin (o done : OrderState) (p : Pend) : OrderState :=
  { stores := done.stores ++ o.stores.filter (fun h => decide (p.age ≤ h.age)), loads := done.loads ++ o.loads.filter (fun l => decide (p.age ≤ l.1)),
    early := done.early.filter (fun e => !e.vec), epoch := o.epoch }

/-- The hart as an instruction that waited finds it: its scalar registers, place, length and privilege are those of its dispatch, and pf governs it
where it re-executes under pf (R187, R331). -/
def Hart.recall (h : Hart) (p : Pend) (w u : IWord) : Hart :=
  { h with cond := p.before.cond, pc := p.before.pc, x := p.before.x, iw0 := w, iw1 := u, fp := { h.fp with fflags := 0 },
           vec := { h.vec with vl := p.before.vec.vl }, priv := { h.priv with sup := p.before.priv.sup },
           eff := { h.eff with underPf := p.before.eff.underPf, hold := false }, order := h.order.older p }

/-- What an instruction that waited leaves in the hart, from `start` to `done`: the scalar register it wrote, its flags, VL and INDEX where it
changed them, and the state of its queue. -/
def Hart.absorb (h start done : Hart) (a : Aside) : Hart :=
  let x := Vector.ofFn (fun (r : Fin 32) => if done.x[r] = start.x[r] then h.x[r] else done.x[r])
  let h1 := { h with x := x, retired := h.retired + (done.retired - start.retired), fp := { h.fp with fflags := h.fp.fflags ||| done.fp.fflags },
                     chain := if done.chain = start.chain then h.chain else done.chain }
  let bound := { h1.eng with bindings := done.eng.bindings, sfKind := done.eng.sfKind, sfReg := done.eng.sfReg, sfStrip := done.eng.sfStrip }
  let vl := if done.vec.vl = start.vec.vl then h.vec.vl else done.vec.vl
  let h2 := if a.holds 1 then { h1 with vec := { done.vec with vl := vl }, mat := done.mat, eng := bound } else h1
  if a.holds 3 then { h2 with eng := { h2.eng with stream := done.eng.stream } } else h2

/-- The hart back at its oldest waiting instruction, which takes an effect: younger ones leave nothing (R136). -/
def State.undo (s : State) (p : Pend) : State := ({ s with hart := p.before } : State).setPends []

/-- The waiting instruction `p` of two words runs: a pair with the members that it was fetched with, a `scopy` or an `sbind` with the record that
it has read. -/
def State.runPend (s : State) (p : Pend) (w u : IWord) : Out :=
  let s := s.readyFor w u
  match decodeCode w u, p.members with
  | .ok (.near (.pair pg)), [a, b] => (s.pairOf (s.gov pg) a b).out
  | .ok (.near (.wideVectorForm pre .pair)), [a, b] => (s.pairOf (s.govWide pre) a b).out
  | .ok (.near (.scopy pd rd rs1 _)), d :: ds =>
    (check (s.absent [] [pd.toNat] []) s (s.copyWith pd (s.getX rd) (s.getX rs1) (keptDwords (d :: ds)))).out
  | .ok (.near (.sbind vd _)), d :: ds => (s.bindChecked vd (s.bindWith vd (keptDwords (d :: ds)))).out
  | d, _ => run d s

/-- The waiting instruction at index `k` as it runs, if nothing older holds its queue or stops it, and no older one that can fault keeps it from
memory; it finds the hart's older accesses alone, and one that would take an effect runs only as the oldest, and then at its own place. A `scopy`
or an `sbind` may then wait on, dispatched. -/
def State.tryLater (s : State) (k : Nat) : Option State :=
  match s.pends[k]? with
  | none => none
  | some p =>
    match p.what with
    | .later w u _ =>
      let before := s.pends.take k
      let faulty := before.any (fun q => q.what.canFault)
      if before.any (fun q => q.what.ahead w u || q.what.stops w u) || (accessesMemory w u && faulty) then none
      else
        let start := s.hart.recall p w u
        let s1 : State := ({ s with hart := start, loose := false, stopAfter := 0 } : State).setPends before
        match s1.runPend p w u with
        | .next t =>
          if s1.needsOldest t then (if k = 0 then some (s.undo p) else none)
          else match t.hart.cond with
            | .waiting _ => none
            | _ =>
              if !s1.mayAct t faulty then none
              else
                let onHart (h : Hart) : Hart := h.absorb start t.hart p.what
                let left := (t.pends.drop k).map (fun q => { p with what := q.what, members := [] })
                some (s.goneOn { t with hart := { onHart s.hart with order := s.hart.order.rejoin t.hart.order p }, loose := s.loose,
                                        stopAfter := s.stopAfter } k onHart left)
        | _ => none
    | _ => none

/-- The first waiting instruction that can run does, as a turn of its hart. -/
def State.runLater (s : State) : Option State := (List.range s.pends.length).findSome? s.tryLater

/-- The hart with the words of the instruction at its pc, whose pages it has used (R43, R175). -/
def State.fetched (s : State) (w u : IWord) (n : Nat) : State :=
  let s1 := s.notePieces s.vectorView s.hart.pc n
  { s1 with hart := { s1.hart with iw0 := w, iw1 := u } }

/-- A running hart fetches the instruction at its pc and runs it, or takes the fault of its fetch, once nothing older waits (R28, R136). -/
def State.issue (s : State) : Out :=
  match s.fetchCode s.hart.pc with
  | .error (e, a) =>
    if s.pends.isEmpty then exec .instructionFetchFault { s with args := { s.args with effect := e, addr := a } } else .next s
  | .ok (w, u, n) => (s.fetched w u n).attempt w u

/-- A halted hart ends once its transfers are over (R304). -/
def State.reap (s : State) : State := if s.hasTransfers s.hart.key then s else s.finish

/-! ### Steps of other agents that are due -/

/-- Operands that name a die and an item. -/
def dieItem (die item : Nat) : EventArgs := { EventArgs.none with die := die, item := item }

/-- Chunks of transfers, and of restores and block copies of streams. -/
def State.dueEngines (s : State) : List (Instr × EventArgs) :=
  s.transfers.flatMap (fun t => (t.pending.take 1).map (fun c => (.scopyChunkComplete, { EventArgs.none with item := t.key, chunk := c }))) ++
  s.streams.flatMap (fun t =>
    (t.copies.take 1).map (fun b => (.cairnBlockCopy, { EventArgs.none with item := t.id, chunk := b })) ++
    (match t.restore with
      | some r => (r.chunks.take 1).map (fun c => (.ladderRestoreChunk, { EventArgs.none with item := t.id, chunk := c, good := true }))
      | none => []))

/-- Strips of bindings. -/
def State.dueStrips (s : State) : List (Instr × EventArgs) :=
  s.harts.flatMap (fun h => (h.eng.bindings.filter (fun b => b.nextStrip.isSome)).map (fun b =>
    (.stripFetch, { EventArgs.none with hart := h.key, reg := b.reg })))

/-- The step of a command. -/
def Command.due (c : Command) (die : Nat) : List (Instr × EventArgs) :=
  let a := dieItem die c.seq
  if unitInd c.unit then (if c.left.isEmpty then [] else [(.indirect, a)])
  else if c.phase = .started then (if c.op = 2 then [(.copyComplete, a)] else [])
  else
    match c.op with
    | 0 => [(.nop, a)]
    | 1 => [(.job, a)]
    | 2 => [(.copy, a)]
    | 3 => [(.signal, a)]
    | 4 => [(.wait, a)]
    | 6 => [(.fenceCommand, a)]
    | _ =>
      match unitDword c.unit 1 with
      | 1 => [(.createStream, a)]
      | 2 => [(.destroyStream, a)]
      | 3 => [(.cairnStoreSize, a)]
      | 4 => [(.spillAreas, a)]
      | 5 => [(.invalidate, a)]
      | 6 => [(.allocateSignal, a)]
      | _ => [(.freeSignal, a)]

/-- Stores on their way, scans, commands, placements and declines of a die. -/
def State.dueDie (s : State) (die : Nat) : List (Instr × EventArgs) :=
  let d := s.die die
  ((d.outbound.filter (fun o => s.linkUp die (homeOf o.pa))).take 1).map (fun o => (.storeReachesHome, dieItem die (homeOf o.pa))) ++
  (if s.module.stage = .full then [(.summitScan, dieItem die 0)] else []) ++
  d.commands.flatMap (fun c => c.due die) ++
  (if (s.waitingGangs die).isEmpty then [] else [(.placeGang, dieItem die 0)]) ++
  d.declined.map (fun j => (.declineDelay, dieItem die j))

/-- Jobs whose gangs have all ended. -/
def State.dueJobs (s : State) : List (Instr × EventArgs) :=
  (s.jobs.filter (fun j => s.jobEnded j)).map (fun j => (.jobCompletion, dieItem j.die j.key))

/-- The answer to a mailbox request, and the stages of start. -/
def State.dueModule (s : State) : List (Instr × EventArgs) :=
  (if s.module.request.isEmpty then []
   else match s.requestDword 0 % 2 ^ 8 with
    | 1 => [(.ident, .none)]
    | 2 => [(.upload, .none)]
    | 3 => [(.select, .none)]
    | 4 => [(.reset, .none)]
    | 5 => [(.status, .none)]
    | 6 => [(.attest, .none)]
    | _ => [(.resumeRequest, .none)]) ++
  (match s.module.stage with
    | .held => [(.baseMode, .none)]
    | .base => if s.module.starting then [(.firmwareVerify, .none)] else []
    | .verified => [(.memoryTraining, { EventArgs.none with good := true })]
    | .off | .full => [])

/-- Every step of another agent that is due. -/
def State.due (s : State) : List (Instr × EventArgs) :=
  s.dueModule ++ s.dueEngines ++ s.dueStrips ++ [0, 1, 2, 3].flatMap s.dueDie ++ s.dueJobs

/-- The next hart has the turn; a vacant record goes. -/
def State.rotate (s : State) : State :=
  match s.others with
  | [] => s
  | h :: rest => { s with hart := h, others := if s.hart.cond = .vacant then rest else rest ++ [s.hart] }

/-- A step of another agent, in turn among those that are due, with the turn passed on (entry 3). -/
def State.background (s : State) : Out :=
  let l := s.due
  match l[s.ticks / 16 % l.length]? with
  | none => .next s.rotate
  | some (i, a) => exec i { s.rotate with args := a }

/-- Before a hart's turn, its accesses are performed in program order, but in a loose turn or past an instruction that can still fault; and what
waits in its queues goes on. -/
def State.prepare (s : State) : State := (if s.loose || s.exposed then s else s.noting s.ordered).progress

/-- The turn of a hart that is prepared: a pending pre-emption first (R317); then an instruction that waited and can run; then the next, where a
waiting one is tried again with the words it was fetched as. -/
def State.act (s : State) : Out :=
  if s.hart.preemptible then exec .preempt { s with args := { s.args with hart := s.hart.key } }
  else
    match s.hart.cond with
    | .running => (match s.runLater with
      | some t => .next t
      | none => s.issue)
    | .waiting _ => (match s.runLater with
      | some t => .next t
      | none => s.attempt s.hart.iw0 s.hart.iw1)
    | .halted _ _ => .next s.reap
    | .parked _ | .vacant => s.background

/-- The turn of the current hart. -/
def State.turn (s : State) : Out := s.prepare.act

/-! ### The agenda -/

/-- Whether a constructor is a step of an agent other than a hart's own instruction stream. -/
def isEvent (i : Instr) : Bool :=
  match i with
  | .gangLengthGrant | .chainGrant | .barrierComplete | .lpartWtRelease | .channelGrant | .scopyChunkComplete | .stripFetch
  | .tokenFifoRelease | .qwaitRelease | .cairnBlockCopy | .ladderRestoreChunk | .preempt | .placeGang | .jobCompletion | .spreadSteal
  | .summitScan | .declineDelay | .nop | .job | .copy | .copyComplete | .signal | .wait | .fenceCommand | .indirect | .createStream
  | .destroyStream | .cairnStoreSize | .spillAreas | .invalidate | .allocateSignal | .freeSignal | .tailWrite | .controlRegionWrite
  | .rdmaWrite | .rdmaRead | .fabricAtomic | .connectionSetup | .transportGiveUp | .ident | .upload | .select | .reset | .status
  | .attest | .resumeRequest | .powerGood | .baseMode | .firmwareVerify | .memoryTraining | .thermalSample | .singleBitError
  | .uncorrectableRead | .linkFlitRetry | .storeReachesHome | .mainInputOff => true
  | _ => false

/-- A turn of the agenda. -/
def State.take (s : State) (t : Turn) : Out :=
  match t with
  | .hart k =>
    match s.focus k with
    | some s1 => s1.turn
    | none => .fault (.noSuchHart k)
  | .part k n =>
    match s.focus k with
    | some s1 => { s1 with stopAfter := n }.turn
    | none => .fault (.noSuchHart k)
  | .loose k =>
    match s.focus k with
    | some s1 => { s1 with loose := true }.turn
    | none => .fault (.noSuchHart k)
  | .early k vec a n =>
    match s.focus k with
    | some s1 => .next (s1.readEarly vec a n)
    | none => .fault (.noSuchHart k)
  | .store k i =>
    match s.focus k with
    | some s1 => .next (s1.noting (s1.landHeld i))
    | none => .fault (.noSuchHart k)
  | .load k i =>
    match s.focus k with
    | some s1 => .next (s1.readHeld i)
    | none => .fault (.noSuchHart k)
  | .grab item a n => .next (s.grab item a n)
  | .piece item c o n => .next (s.piece item c o n)
  | .unsealed i a => if isEvent i then exec i { s with args := a, loose := true } else .refused .notAnEvent
  | .seal d => .next (s.seal d)
  | .event i a => if isEvent i then exec i { s with args := a } else .refused .notAnEvent

/-- Journal entries that are changing hold their SEQ again (R347, entry 40). -/
def State.sealAll (s : State) : State :=
  [0, 1, 2, 3].foldl (fun (s : State) (d : Nat) => if (s.die d).unsealed.isEmpty then s else s.seal d) s

/-- Without an agenda the current hart has the turn, and another agent every sixteenth (entry 3). -/
def State.default (s : State) : Out :=
  let s := s.sealAll
  if s.ticks % 16 = 0 then s.background else s.turn

/-- The steps are counted; an instruction runs whole, and a hart's accesses in program order, unless the agenda says otherwise. -/
def State.tick (s : State) : State := { s with ticks := s.ticks + 1, stopAfter := 0, loose := false }

/-- The next turn: the head of the agenda, or the default. -/
def State.next (s : State) : Out :=
  match s.agenda with
  | [] => s.tick.default
  | t :: rest => ({ s.tick with agenda := rest } : State).take t

end Sys2Proof.Machine
end

