-- ==== Sys2Proof/Machine/Load.lean ====
section
/-! DEFINITION. Placing bytes where the next step fetches: at the pc of a running hart, or at the entry of a hart that is put in place
for them (entry 31). -/

namespace Sys2Proof.Machine

/-! ### At the pc of a running hart -/

/-- Where a parcel at an address is fetched from. -/
def State.fetchSpot (s : State) (a : Word) : Option Nat :=
  match s.resolve s.vectorView .fetch a with
  | .ok (.local key) => some key
  | _ => none

/-- The places of four parcels from the pc. -/
def State.fetchSpots (s : State) : List (Option Nat) := [0, 2, 4, 6].map (fun i => s.fetchSpot (s.hart.pc + i))

/-- Bytes put at places, two by two. -/
def putParcels (m : Image) : List (Option Nat) → List Byte → Image
  | some key :: spots, b0 :: b1 :: bs => putParcels (Sparse.setList 0 m key [b0, b1]) spots bs
  | _, _ => m

/-- Nothing stands between the current hart and its fetch: no other turn, no pending pre-emption, no older bytes on their way, and no earlier
instruction that waits in a queue. -/
def State.quiet (s : State) : State :=
  let s1 := ({ s with agenda := [], ticks := if (s.ticks + 1) % 16 = 0 then s.ticks + 1 else s.ticks } : State).ordered
  let s2 := { (s1.drain s.dieOf).onDie s.dieOf (fun d => { d with tlb := [] }) with stale := [] }
  (s2.setEff { s2.hart.eff with ppend := false }).setPends []

/-! ### A hart put in place -/

/-- Its card: one gang of one 4-lane hart. -/
def loadCard : Card :=
  { addr := 0, entry := 0x10000, args := 0, trips := 1, minchunk := 1, grain := 1, gangs := 1, slots := [], spread := false, det := false,
    lanes := 4, harts := 1, sv := false, signal := 0, sigval := 0 }

/-- Its job, with its one chunk dealt. -/
def loadJob (key : Nat) : Job :=
  { key := key, die := 0, queue := 0, seq := 0, prio := 0, ctx := 1, root := 0x100000, supent := 0, card := loadCard,
    shares := [⟨0, 1, 1, [], false, 0⟩], steals := 0, tarnCores := [0], failed := none }

/-- Its gang. -/
def loadGang (key : Nat) : Gang := { key := key + 1, job := key, gen := 0, arrived := 0, issued := [], chunks := [], ended := [] }

/-- The hart on the lowest lanes of core 0, as the front end starts it. -/
def loadHart (key : Nat) : Hart :=
  startedHart (loadJob key)
    { core := 0, slot := 0, rank := 0, nh := 1, gang := 0, first := 0, lanes := 4, ctx := 1, root := 0x100000, gangKey := key + 1, job := key }
    (0, 8) (0, 1)

/-- Tables that map the 64 KiB region of its entry to PA 0x10000, for every access at user privilege. -/
def loadTables (m : Image) : Image :=
  let put (m : Image) (pa v : Nat) : Image := Sparse.setList 0 m pa (natLe 8 v)
  put (put (put (put m 0x100000 0x201001) 0x201000 0x202001) 0x202000 0x203001) 0x203008 0x1003D

/-- The module in stage 2 with that hart's turn, and bytes at its entry. -/
def State.loaded (s : State) (bs : List Byte) : State :=
  let key := s.nextKey
  let rest := (if s.hart.cond = .vacant then s.others else s.hart :: s.others).filter (fun h => h.cond != .vacant && h.key != 0)
  let s1 := { s with agenda := [], stale := [], ticks := if (s.ticks + 1) % 16 = 0 then s.ticks + 1 else s.ticks }
  let s2 := (s1.drain 0).onDie 0 (fun d => { d with tlb := [] })
  { s2 with hart := loadHart key, others := rest, gangs := s2.gangs ++ [loadGang key], jobs := s2.jobs ++ [loadJob key], nextKey := key + 2,
            module := { s2.module with stage := .full, trained := true, retiredBlocks := [] },
            mem := Sparse.setList 0 (loadTables s2.mem) 0x10000 bs }

/-- Eight bytes placed where the next step fetches. -/
def State.place (s : State) (bs : List Byte) : State :=
  let q := s.quiet
  if s.hart.cond = .running ∧ q.fetchSpots.all Option.isSome then q.setMem (putParcels q.mem q.fetchSpots bs) else s.loaded bs

end Sys2Proof.Machine
end

