-- ==== Sys2Proof/Machine/Step.lean ====
section
/-! DEFINITION. The step of the machine, and a word placed where it fetches. -/

namespace Sys2Proof.Machine

/-- One step: a hart's instruction, or a step of another agent. -/
def step (s : State) : Host.Outcome State Fault Refusal := s.next

/-- An instruction's bits, numbered as the opcode table numbers them, where the next step fetches. -/
def State.withFetchWord (s : State) (nbits w : Nat) : State := s.place (tableBytes nbits w)

end Sys2Proof.Machine
end

