-- ==== Sys2Proof/Safety.lean ====
section
/-! DEFINITION. The terms in which claims speak of the machine: the invariant, how an instruction completes, and what it leaves alone. -/

namespace Sys2Proof.Machine

/-- A hart's register images and tiles are in their canonical form, every VTAGS entry is one that `vcfg` may write (R134, R140), MCOLS
is at most 256 (R202), the core is one of the module's 32 (R10), and HSP is a multiple of 32 (R295). -/
structure Hart.Tidy (h : Hart) : Prop where
  regs : ∀ r : Reg, Sparse.wf 0#8 (h.vec.regs[r.toNat]'(r.isLt)) = true
  acc0 : Sparse.wf (0 : Int) h.mat.acc0 = true
  acc1 : Sparse.wf (0 : Int) h.mat.acc1 = true
  cols : h.mat.cols ≤ 256
  core : h.id.core < 32
  hsp : h.eff.hsp.toNat % 32 = 0
  tags : ∀ r : Reg, (let t := h.vec.tags[r.toNat]'(r.isLt); tagEntryWf r t.tag.code t.s t.b t.vsc) = true

/-- The invariant of every state: memory and every hart's registers are in their canonical form, and so are those that a
waiting instruction found. -/
structure State.Inv (s : State) : Prop where
  mem : Memory.wf s.mem = true
  hart : s.hart.Tidy
  others : ∀ h ∈ s.others, h.Tidy
  waits : ∀ p ∈ s.waits, p.before.Tidy

/-! ### Completion -/

/-- An instruction whose next address is `target` has retired (R99, R110): the hart runs, has counted one instruction more, and its pc
and loop levels are what the loop test makes of that address; `taken` marks a taken transfer of control. -/
def Left (s t : State) (target : Word) (taken : Bool) : Prop :=
  t.hart.cond = .running ∧ t.hart.retired = s.hart.retired + 1 ∧ t.hart.pc = (s.hart.loopTest target taken).pc ∧
  t.hart.loop0 = (s.hart.loopTest target taken).loop0 ∧ t.hart.loop1 = (s.hart.loopTest target taken).loop1

/-- An instruction of `len` bytes that falls through has retired. -/
def Retired (s t : State) (len : Nat) : Prop := Left s t (s.hart.pc + BitVec.ofNat 64 len) false

/-! ### Frames -/

/-- Parts of the state that an instruction may change. -/
inductive Part where
  | id | fp | vec | mat | chain | priv | eff | eng | order | others | gangs | jobs | transfers | streams | cairns | nextKey | dies | tlb
  | module | mem | stale | waits
  deriving DecidableEq, Repr

/-- What a retiring instruction leaves alone: every register but those of `rs`, and every part but those of `c`. A retirement ends a
re-execution under pf and lets a pre-emption be recognised again (R187, R318), and no more of the effect state. -/
structure Untouched (c : List Part) (rs : List Reg) (s t : State) : Prop where
  regs : ∀ r, r ∉ rs → t.getX r = s.getX r
  id : .id ∉ c → t.hart.id = s.hart.id
  fp : .fp ∉ c → t.hart.fp = s.hart.fp
  vec : .vec ∉ c → t.hart.vec = s.hart.vec
  mat : .mat ∉ c → t.hart.mat = s.hart.mat
  chain : .chain ∉ c → t.hart.chain = s.hart.chain
  priv : .priv ∉ c → t.hart.priv = s.hart.priv
  eff : .eff ∉ c → t.hart.eff = { s.hart.eff with underPf := false, hold := false }
  eng : .eng ∉ c → t.hart.eng = s.hart.eng
  order : .order ∉ c → t.hart.order = s.hart.order
  iw0 : t.hart.iw0 = s.hart.iw0
  iw1 : t.hart.iw1 = s.hart.iw1
  others : .others ∉ c → t.others = s.others
  gangs : .gangs ∉ c → t.gangs = s.gangs
  jobs : .jobs ∉ c → t.jobs = s.jobs
  transfers : .transfers ∉ c → t.transfers = s.transfers
  streams : .streams ∉ c → t.streams = s.streams
  cairns : .cairns ∉ c → t.cairnBlocks = s.cairnBlocks
  nextKey : .nextKey ∉ c → t.nextKey = s.nextKey
  dies : .dies ∉ c → ∀ d, { t.die d with tlb := (s.die d).tlb } = s.die d
  tlb : .tlb ∉ c → ∀ d, (t.die d).tlb = (s.die d).tlb
  module : .module ∉ c → t.module = s.module
  mem : .mem ∉ c → t.mem = s.mem
  stale : .stale ∉ c → t.stale = s.stale
  waits : .waits ∉ c → t.waits = s.waits
  ticks : t.ticks = s.ticks
  agenda : t.agenda = s.agenda
  args : t.args = s.args
  stopAfter : t.stopAfter = s.stopAfter
  loose : t.loose = s.loose

/-- Every byte reads as before, but those whose key satisfies `p`. -/
def SameBytes (p : Nat → Prop) (s t : State) : Prop := ∀ die key, ¬ p key → t.byteAt die key = s.byteAt die key

/-- No byte is excepted. -/
def Nowhere : Nat → Prop := fun _ => False

/-! ### Results -/

/-- The instruction retires with x(rd) := v and changes nothing else; x0 takes no value (R87). -/
def Gives (i : Instr) (s : State) (len : Nat) (rd : Reg) (v : Word) : Prop :=
  ∃ t, exec i s = .next t ∧ Retired s t len ∧ t.getX rd = (if rd = 0#5 then 0 else v) ∧ Untouched [] [rd] s t ∧ SameBytes Nowhere s t

/-- The instruction passes control to `target` with x(rd) := v and changes nothing else. -/
def Goes (i : Instr) (s : State) (target : Word) (taken : Bool) (rd : Reg) (v : Word) : Prop :=
  ∃ t, exec i s = .next t ∧ Left s t target taken ∧ t.getX rd = (if rd = 0#5 then 0 else v) ∧ Untouched [] [rd] s t ∧ SameBytes Nowhere s t

/-- The instruction takes the effect, in the state it found (R301 to R307). -/
def Traps (i : Instr) (s : State) (t : Trap) : Prop := exec i s = .next (s.deliver t)

/-- The hart's accesses are performed in program order: it holds none back, has read nothing early, and its turn is no loose one. -/
def Calm (s : State) : Prop := s.hart.order = .start ∧ s.loose = false

/-- Nothing is on its way: the hart's accesses are performed in program order, and no store waits for its home. -/
def Settled (s : State) : Prop := Calm s ∧ ∀ d, (s.die d).outbound = []

/-- A byte's key lies in no spill slot of a frame that a hart holds (R296). -/
def Shown (s : State) (key : Nat) : Prop := key < 2 ^ 61 ∨ 2 ^ 61 + 2 ^ 23 ≤ key ∨ ∀ h ∈ s.harts, h.eff.depth = 0

/-- The keys of `n` bytes. -/
def Span (key n : Nat) : Nat → Prop := fun k => key ≤ k ∧ k < key + n

/-- The instruction retires, changing at most the parts `c` and the registers `rs`, and no byte outside those of `p`. -/
def Completes (i : Instr) (s : State) (len : Nat) (c : List Part) (rs : List Reg) (p : Nat → Prop) (post : State → Prop) : Prop :=
  ∃ t, exec i s = .next t ∧ Retired s t len ∧ Untouched c rs s t ∧ SameBytes p s t ∧ post t

/-- The parts that a write of control register `n` may change. -/
def controlPart (n : Nat) : List Part :=
  if n = 0x000 ∨ n = 0x001 ∨ n = 0x005 then [.fp]
  else if n = 0x002 ∨ n = 0x003 ∨ n = 0x004 ∨ (0x008 ≤ n ∧ n ≤ 0x00F) ∨ n = 0x055 ∨ n = 0x056 then [.vec]
  else if (0x010 ≤ n ∧ n ≤ 0x015) ∨ n = 0x057 then [.mat]
  else if 0x034 ≤ n ∧ n ≤ 0x036 then [.chain]
  else if 0x040 ≤ n ∧ n ≤ 0x042 then [.priv]
  else if 0x050 ≤ n ∧ n ≤ 0x054 then [.eff]
  else if n = 0x05B then [.eng] else []

/-- Bytes of the scalar data memories. -/
def ScalarData : Nat → Prop := fun key => 2 ^ 61 ≤ key ∧ key < 2 ^ 61 + 2 ^ 23

/-! ### Effects -/

/-- The hart has entered the handler of frame `k`, which is `f`, through token record `i` (R302, R303): the record and x8 to x11 hold the
token, the effect, its argument and its extra word, and no other register changes. -/
structure Entered (s t : State) (i k : Nat) (f : Frame) (tr : Trap) (kind : BitVec 2) (vec : Bool) (resume : ResumeKind) : Prop where
  cond : t.hart.cond = .running
  pc : t.hart.pc = f.target
  priv : t.hart.priv = { s.hart.priv with sup := f.priv }
  x8 : t.getX 8 = ((s.hart.eff.tokens[i]?.getD .unused).gen + 1) ++ BitVec.ofNat 32 i
  x9 : t.getX 9 = tr.id.setWidth 64
  x10 : t.getX 10 = tr.arg
  x11 : t.getX 11 = tr.extra
  regs : ∀ r : Reg, r ∉ [8#5, 9#5, 10#5, 11#5] → t.getX r = s.getX r
  epc : t.hart.eff.epc = s.hart.pc &&& 0x00FFFFFFFFFFFFFE
  ecause : t.hart.eff.ecause = BitVec.ofBool vec ++ BitVec.ofBool s.hart.priv.sup ++ kind ++ 0#4 ++ tr.id
  eval : t.hart.eff.eval = tr.arg
  srch : t.hart.eff.srch = f.link.toNat
  depth : t.hart.eff.depth = s.hart.eff.depth
  frames : t.hart.eff.frames = s.hart.eff.frames
  vector : t.hart.vec = { s.hart.vec with pe := tr.pm }
  rest : t.hart.id = s.hart.id ∧ t.hart.fp = s.hart.fp ∧ t.hart.mat = s.hart.mat ∧ t.hart.chain = s.hart.chain ∧ t.hart.eng = s.hart.eng ∧
    t.hart.retired = s.hart.retired ∧ t.hart.loop0 = s.hart.loop0 ∧ t.hart.loop1 = s.hart.loop1
  token : ∃ o, t.hart.eff.tokens[i]? = some o ∧ o.kind = .oneShot ∧ o.gen = (s.hart.eff.tokens[i]?.getD .unused).gen + 1 ∧
    o.epc = s.hart.pc &&& 0x00FFFFFFFFFFFFFE ∧ o.frame = k ∧ o.serial = f.serial ∧ o.depth = s.hart.eff.depth ∧ o.srch = s.hart.eff.srch ∧
    o.sup = s.hart.priv.sup ∧ o.resume = resume
  others : ∀ j, j ≠ i → t.hart.eff.tokens[j]? = s.hart.eff.tokens[j]?
  record : Sparse.getList 0 t.mem (s.recordKey i 0) 80 = wordLe 8 (s.hart.pc &&& 0x00FFFFFFFFFFFFFE) ++
    wordLe 8 ((BitVec.ofBool vec ++ BitVec.ofBool s.hart.priv.sup ++ kind ++ 0#4 ++ tr.id).setWidth 64) ++ wordLe 8 tr.arg ++ wordLe 8 tr.extra ++
    wordLe 8 (s.getX 8) ++ wordLe 8 (s.getX 9) ++ wordLe 8 (s.getX 10) ++ wordLe 8 (s.getX 11) ++ natLe 8 s.hart.vec.vl ++ natLe 8 s.hart.vec.vstart
  bytes : ∀ key, ¬ Span (s.recordKey i 0) 128 key → Sparse.get 0 t.mem key = Sparse.get 0 s.mem key
  world : t.others = s.others ∧ t.gangs = s.gangs ∧ t.jobs = s.jobs ∧ t.transfers = s.transfers ∧ t.streams = s.streams ∧ t.dies = s.dies ∧
    t.module = s.module
  waits : t.waits = (s.withdrawPends i).waits

/-- An effect of an id finds frame `k`, which is `f`, and token record `i` is free for it, in no retired block (R293, R301, R302, R359). -/
def Handled (s : State) (id : BitVec 16) (i k : Nat) (f : Frame) : Prop :=
  s.search (fun f => f.matches id s.hart.priv.sup) 256 s.hart.eff.srch = .frame k f ∧ s.freeToken (List.range 63) = some i ∧
    s.retiredAt (s.recordKey i 0) = false

/-! ### Vector results -/

/-- Element `e` is performed: at or above VSTART, below VL and active. -/
def Hit (s : State) (act : Mask) (e : Nat) : Prop := s.hart.vec.vstart ≤ e ∧ e < s.hart.vec.vl ∧ act.testBit e = true

/-- Some element of an instruction is active below `hi`, and `lo` is below it: Place acts (R119). -/
def Acts (lo hi : Nat) (act : Mask) : Prop := lo < hi ∧ ∃ e < hi, act.testBit e = true

/-- The destination of a vector instruction by Place (R119), `code e` for each active element from `lo` to `hi`. -/
structure Placed (u t : State) (vd : Reg) (lo hi : Nat) (act : Mask) (code : Nat → Nat) : Prop where
  active : ∀ e, lo ≤ e → e < hi → act.testBit e = true → codeAt (t.image vd) (u.widthOf vd) e = code e % 256 ^ u.widthOf vd
  inactive : Acts lo hi act → ∀ e, lo ≤ e → e < hi → act.testBit e = false →
    codeAt (t.image vd) (u.widthOf vd) e = if u.hart.vec.mz then 0 else codeAt (u.image vd) (u.widthOf vd) e
  below : ∀ e, e < lo → e < hi → codeAt (t.image vd) (u.widthOf vd) e = codeAt (u.image vd) (u.widthOf vd) e
  tail : Acts lo hi act → ∀ e, hi ≤ e →
    codeAt (t.image vd) (u.widthOf vd) e = if u.hart.vec.ta then 0 else codeAt (u.image vd) (u.widthOf vd) e
  idle : ¬ Acts lo hi act → t.image vd = u.image vd
  dirty : Acts lo hi act → t.hart.vec.dirty.getLsbD vd.toNat = true

/-- The destination predicate of an instruction by Place (R119). -/
structure PlacedBits (u t : State) (n lo hi : Nat) (act : Mask) (bit : Nat → Bool) : Prop where
  active : ∀ e, lo ≤ e → e < hi → act.testBit e = true → (t.pred n).testBit e = bit e
  inactive : Acts lo hi act → ∀ e, lo ≤ e → e < hi → act.testBit e = false →
    (t.pred n).testBit e = (!u.hart.vec.mz && (u.pred n).testBit e)
  below : ∀ e, e < lo → e < hi → (t.pred n).testBit e = (u.pred n).testBit e
  tail : Acts lo hi act → ∀ e, hi ≤ e → (t.pred n).testBit e = (!u.hart.vec.ta && (u.pred n).testBit e)
  idle : ¬ Acts lo hi act → t.pred n = u.pred n

/-- FFLAGS gathers the flags of the active elements, and XMASK marks those that XCLS selects (R73, R143). -/
structure Flagged (u t : State) (lo hi : Nat) (act : Mask) (fl : Nat → Flags) : Prop where
  fflags : ∀ k, t.hart.fp.fflags.getLsbD k = true ↔
    (u.hart.fp.fflags.getLsbD k = true ∨ ∃ e, lo ≤ e ∧ e < hi ∧ act.testBit e = true ∧ (fl e).getLsbD k = true)
  xmask : ∀ e, t.hart.vec.xmask.testBit e = true ↔
    (u.hart.vec.xmask.testBit e = true ∨ (lo ≤ e ∧ e < hi ∧ act.testBit e = true ∧ fl e &&& u.hart.fp.xcls ≠ 0))

/-- The registers but `vd`, and the sidecar it names, keep their contents, and so do the predicates. -/
structure OthersKept (u t : State) (vd : Reg) : Prop where
  images : ∀ q, q ≠ vd → ((u.tagOf vd).s = true → q ≠ (u.tagOf vd).vsc) → t.image q = u.image q
  preds : t.hart.vec.preds = u.hart.vec.preds

/-- A destination of rounded elements: `r e` is what active element `e` rounds to; a poisoned element makes its block scale 0xFF (R67,
R68, R80). -/
structure Rounds (u t : State) (vd : Reg) (lo hi : Nat) (act : Mask) (r : Nat → Rounded) : Prop where
  place : Placed u t vd lo hi act (fun e => (r e).code)
  flags : Flagged u t lo hi act (fun e => (r e).flags)
  poisoned : (u.tagOf vd).s = true → ∀ e, lo ≤ e → e < hi → act.testBit e = true → (r e).poison = true →
    codeAt (t.image (u.tagOf vd).vsc) 1 (e / (u.tagOf vd).block) = 255
  scales : (u.tagOf vd).s = true → ∀ b,
    (∀ e, lo ≤ e → e < hi → act.testBit e = true → (r e).poison = true → e / (u.tagOf vd).block ≠ b) →
    codeAt (t.image (u.tagOf vd).vsc) 1 b = codeAt (u.image (u.tagOf vd).vsc) 1 b
  kept : OthersKept u t vd

/-- A vector operation passes its checks, and `u` is the state with the head strips of bound sources in place (R42, R262). -/
def Admitted (s u : State) (op : VOp) (a : VArgs) (g : Gov) : Prop :=
  s.vectorChecks (opShape op a s).reads (opShape op a s).writes (g.pg :: (opShape op a s).preds) (opShape op a s).legal = none ∧
  s.takeStrips (s.readBindings (s.withSidecars (opShape op a s).reads)) = .ok u

/-- A vector instruction retires: VSTART is zero, a bound source has moved on, and nothing else changes but the registers `rs` and what
`post` says. -/
def Vectored (i : Instr) (s : State) (len : Nat) (rs : List Reg) (post : State → Prop) : Prop :=
  ∃ t, exec i s = .next t ∧ Retired s t len ∧ Untouched [.vec, .fp, .eng] rs s t ∧ SameBytes Nowhere s t ∧
    t.hart.vec.vstart = 0 ∧ t.hart.vec.vl = s.hart.vec.vl ∧ t.hart.vec.mz = s.hart.vec.mz ∧ t.hart.vec.ta = s.hart.vec.ta ∧
    t.hart.vec.tags = s.hart.vec.tags ∧ t.hart.vec.pf = s.hart.vec.pf ∧ t.hart.vec.pe = s.hart.vec.pe ∧
    t.hart.vec.present = s.hart.vec.present ∧ t.hart.fp.frm = s.hart.fp.frm ∧ t.hart.fp.xcls = s.hart.fp.xcls ∧
    (s.hart.eng.bindings = [] → t.hart.eng = s.hart.eng) ∧ post t

/-- Instruction `i` performs operation `op` under `g`: as a 32-bit form, or under a wide-vector prefix (R36). -/
def VecForm (s : State) (i : Instr) (op : VOp) (a : VArgs) (g : Gov) : Prop :=
  (i = op.instr a ∧ g = s.gov a.pg) ∨ ∃ pre, i = .wideVectorForm pre (.vec op a) ∧ g = s.govWide pre

/-- As `VecForm`, of a vector load or store. -/
def MemFormOf (s : State) (i : Instr) (op : MOp) (a : VArgs) (g : Gov) : Prop :=
  (i = op.instr a ∧ g = s.gov a.pg) ∨ ∃ pre, i = .wideVectorForm pre (.mem op a) ∧ g = s.govWide pre

/-- As `VecForm`, of a predicate-logic instruction. -/
def PredForm (s : State) (i : Instr) (op : POp) (a : PArgs) (g : Gov) : Prop :=
  (i = op.instr a ∧ g = s.gov a.pg) ∨ ∃ pre, i = .wideVectorForm pre (.pred op a) ∧ g = s.govWide pre

/-- As `VecForm`, of a predicate-to-scalar instruction. -/
def CountForm (s : State) (i : Instr) (op : COp) (a : CArgs) (g : Gov) : Prop :=
  (i = op.instr a ∧ g = s.gov a.pg) ∨ ∃ pre, i = .wideVectorForm pre (.count op a) ∧ g = s.govWide pre

/-- Instruction `i` of `len` bytes has the value `v` for its operand: from a register, or from its long immediate (R37). -/
def SysForm (s : State) (i short : Instr) (body : SystemBody) (rs1 : Reg) (v : Word) (len : Nat) : Prop :=
  (i = short ∧ v = s.getX rs1 ∧ len = 4) ∨ ∃ imm, i = .wideSystemForm imm body ∧ v = imm.signExtend 64 ∧ len = 8

/-! ### Commands -/

/-- Command `c` of the step's die is the one that the step names: accepted, no indirect command, and of operation `op`. -/
def Picked (s : State) (op : Nat) (c : Command) : Prop :=
  s.findCommand s.argDie s.args.item = some c ∧ c.phase = .accepted ∧ unitInd c.unit = false ∧ c.op = op

/-- A command is over (R347, R368): it is no longer the die's, its queue is not BLOCKED by it, and the entry it owns holds its STATE and
its FAIL. No hart, job or transfer changes, and no byte but of the journal and those of `p`; time passes. -/
structure Finished (s t : State) (c : Command) (state fail : Nat) (p : Nat → Prop) : Prop where
  gone : t.findCommand s.argDie c.seq = none
  unblocked : c.queue ∉ (t.die s.argDie).blocked
  entry : c.parent = none → s.getDword (journalKey s.argDie c.seq) = c.seq →
    t.getDword (journalKey s.argDie c.seq + 8) / 2 ^ 62 = state ∧
    t.getDword (journalKey s.argDie c.seq + 8) / 2 ^ 32 % 2 ^ 8 =
      (if fail = 0 then s.getDword (journalKey s.argDie c.seq + 8) / 2 ^ 32 % 2 ^ 8 else fail)
  harts : t.hart = s.hart ∧ t.others = s.others
  rest : t.jobs = s.jobs ∧ t.gangs = s.gangs ∧ t.transfers = s.transfers ∧ t.streams = s.streams ∧
    { t.module with nanos := s.module.nanos } = s.module
  bytes : ∀ key, inJournal key = false → ¬ p key → Sparse.get 0 t.mem key = Sparse.get 0 s.mem key

/-- The step ends with the command finished. -/
def Ends (i : Instr) (s : State) (c : Command) (state fail : Nat) : Prop := ∃ t, exec i s = .next t ∧ Finished s t c state fail Nowhere

/-- A STREAMADMIN command acts, giving state `u`, and answers `r` at the place of its result address (R339, R366). -/
def Answers (i : Instr) (s : State) (c : Command) (r : Int) (u : State) : Prop :=
  ∃ ps, s.frontPlaces (s.queueView s.argDie c.queue) (BitVec.ofNat 64 (unitDword c.unit 4)) 8 = some ps ∧
    exec i s = .next (((u.startCommand s.argDie c).putPlaces (s.queueView s.argDie c.queue) ps
      (wordLe 8 (BitVec.ofInt 64 r))).finishCommand s.argDie c .completed 0)

end Sys2Proof.Machine
end

