-- ==== Sys2Proof/Certificates/Slice0/Obligations.lean ====
section
/-! DEFINITION. The statements for the provers, family by family. -/

open Sys2Proof Sys2Proof.Machine

/-! ### Integer instructions, control transfer and loops -/

/-- R95, over integers: what each register-register instruction writes, and that it changes nothing else.
R95: products and quotients, with the corners of division, and the counts of bits. -/
def Obligations.IntegerResults : Prop :=
  (∀ (s : State) (rd rs1 rs2 : Reg), s.hart.cond ≠ .vacant →
     let a := s.getX rs1
     let b := s.getX rs2
     let sh := b.toNat % 64
     Gives (.add rd rs1 rs2) s 4 rd (BitVec.ofNat 64 (a.toNat + b.toNat)) ∧
     Gives (.sub rd rs1 rs2) s 4 rd (BitVec.ofInt 64 (a.toNat - b.toNat)) ∧
     Gives (.and rd rs1 rs2) s 4 rd (a &&& b) ∧
     Gives (.or rd rs1 rs2) s 4 rd (a ||| b) ∧
     Gives (.xor rd rs1 rs2) s 4 rd (a ^^^ b) ∧
     Gives (.andn rd rs1 rs2) s 4 rd (a &&& ~~~b) ∧
     Gives (.sll rd rs1 rs2) s 4 rd (BitVec.ofNat 64 (a.toNat * 2 ^ sh)) ∧
     Gives (.srl rd rs1 rs2) s 4 rd (BitVec.ofNat 64 (a.toNat / 2 ^ sh)) ∧
     Gives (.sra rd rs1 rs2) s 4 rd (BitVec.ofInt 64 (a.toInt / 2 ^ sh)) ∧
     Gives (.slt rd rs1 rs2) s 4 rd (if a.toInt < b.toInt then 1 else 0) ∧
     Gives (.sltu rd rs1 rs2) s 4 rd (if a.toNat < b.toNat then 1 else 0) ∧
     Gives (.min rd rs1 rs2) s 4 rd (BitVec.ofInt 64 (min a.toInt b.toInt)) ∧
     Gives (.max rd rs1 rs2) s 4 rd (BitVec.ofInt 64 (max a.toInt b.toInt)) ∧
     Gives (.minu rd rs1 rs2) s 4 rd (BitVec.ofNat 64 (min a.toNat b.toNat)) ∧
     Gives (.maxu rd rs1 rs2) s 4 rd (BitVec.ofNat 64 (max a.toNat b.toNat))) ∧
  (∀ (s : State) (rd rs1 rs2 : Reg), s.hart.cond ≠ .vacant →
     let a := s.getX rs1
     let b := s.getX rs2
     let quot : Int := if b = 0 then -1 else if a.toInt = -2 ^ 63 ∧ b.toInt = -1 then -2 ^ 63 else Int.tdiv a.toInt b.toInt
     let quotu : Nat := if b = 0 then 2 ^ 64 - 1 else a.toNat / b.toNat
     Gives (.mul rd rs1 rs2) s 4 rd (BitVec.ofNat 64 (a.toNat * b.toNat % 2 ^ 64)) ∧
     Gives (.mulhiSs rd rs1 rs2) s 4 rd (BitVec.ofInt 64 (a.toInt * b.toInt / 2 ^ 64)) ∧
     Gives (.mulhiUu rd rs1 rs2) s 4 rd (BitVec.ofNat 64 (a.toNat * b.toNat / 2 ^ 64)) ∧
     Gives (.mulhiSu rd rs1 rs2) s 4 rd (BitVec.ofInt 64 (a.toInt * b.toNat / 2 ^ 64)) ∧
     Gives (.div rd rs1 rs2) s 4 rd (BitVec.ofInt 64 quot) ∧
     Gives (.divu rd rs1 rs2) s 4 rd (BitVec.ofNat 64 quotu) ∧
     Gives (.rem rd rs1 rs2) s 4 rd (if b = 0 then a else BitVec.ofInt 64 (a.toInt - b.toInt * quot)) ∧
     Gives (.remu rd rs1 rs2) s 4 rd (if b = 0 then a else BitVec.ofNat 64 (a.toNat % b.toNat)) ∧
     (∃ n, Gives (.clz rd rs1) s 4 rd (BitVec.ofNat 64 n) ∧ n ≤ 64 ∧ (∀ i < 64, 64 - n ≤ i → a.getLsbD i = false) ∧
       (n < 64 → a.getLsbD (63 - n) = true)) ∧
     (∃ n, Gives (.ctz rd rs1) s 4 rd (BitVec.ofNat 64 n) ∧ n ≤ 64 ∧ (∀ i < n, a.getLsbD i = false) ∧
       (n < 64 → a.getLsbD n = true)) ∧
     Gives (.popc rd rs1) s 4 rd (BitVec.ofNat 64 ((List.range 64).filter (fun i => a.getLsbD i)).length))

/-- R96, R97, R99 and R44: immediates, shifts by an immediate, constants, counters, and the compressed forms of them. The count of
core clocks is a free value that never falls (entry 6). -/
def Obligations.ImmediateResults : Prop :=
  ∀ (s : State) (rd rs1 : Reg) (imm : BitVec 16) (n : BitVec 6) (sh : BitVec 2) (imm5 : BitVec 5), s.hart.cond ≠ .vacant →
    let a := s.getX rs1
    Gives (.addi rd rs1 imm) s 4 rd (BitVec.ofInt 64 (a.toNat + imm.toInt)) ∧
    Gives (.andi rd rs1 imm) s 4 rd (a &&& imm.signExtend 64) ∧
    Gives (.ori rd rs1 imm) s 4 rd (a ||| imm.signExtend 64) ∧
    Gives (.xori rd rs1 imm) s 4 rd (a ^^^ imm.signExtend 64) ∧
    Gives (.slti rd rs1 imm) s 4 rd (if a.toInt < imm.toInt then 1 else 0) ∧
    Gives (.sltiu rd rs1 imm) s 4 rd (if a.toNat < (imm.signExtend 64).toNat then 1 else 0) ∧
    Gives (.slli rd rs1 n) s 4 rd (BitVec.ofNat 64 (a.toNat * 2 ^ n.toNat)) ∧
    Gives (.srli rd rs1 n) s 4 rd (BitVec.ofNat 64 (a.toNat / 2 ^ n.toNat)) ∧
    Gives (.srai rd rs1 n) s 4 rd (BitVec.ofInt 64 (a.toInt / 2 ^ n.toNat)) ∧
    Gives (.lis rd imm sh) s 4 rd (BitVec.ofInt 64 (imm.toInt * 2 ^ (16 * sh.toNat))) ∧
    (∃ v, Gives (.lisK rd imm sh) s 4 rd v ∧
      ∀ i < 64, v.getLsbD i = if 16 * sh.toNat ≤ i ∧ i < 16 * sh.toNat + 16 then imm.getLsbD (i - 16 * sh.toNat) else (s.getX rd).getLsbD i) ∧
    Completes (.cycles rd) s 4 [.dies] [rd] Nowhere (fun t =>
      let core := s.hart.id.core % 8
      ∃ m n : Nat, (s.die s.dieOf).cycles[core]? = some m ∧ (t.die s.dieOf).cycles[core]? = some n ∧ m ≤ n ∧
        t.getX rd = (if rd = 0#5 then 0 else BitVec.ofNat 64 n) ∧
        (∀ c, c ≠ core → (t.die s.dieOf).cycles[c]? = (s.die s.dieOf).cycles[c]?) ∧
        (∀ d, { t.die d with cycles := (s.die d).cycles } = s.die d) ∧ ∀ d, d % 4 ≠ s.dieOf % 4 → t.die d = s.die d) ∧
    Gives (.retired rd) s 4 rd s.hart.retired ∧
    Gives (.cAddi rd imm5) s 2 rd (BitVec.ofInt 64 ((s.getX rd).toNat + imm5.toInt)) ∧
    Gives (.cMv rd rs1) s 2 rd a ∧
    Gives (.cAdd rd rs1) s 2 rd (BitVec.ofNat 64 ((s.getX rd).toNat + a.toNat))

/-- R98: the form of `addpc`, its rs1 field zero, and x(rd) := (A + sext(imm16) × 2^16) mod 2^64. With the `addi` of the remainder it
forms every target at a distance of less than 2 GiB, and the remainder lies between −32,768 and 32,767. -/
def Obligations.AddpcResult : Prop :=
  ∀ (s : State) (rd : Reg) (imm : BitVec 16), s.hart.cond ≠ .vacant →
    encode (.addpc rd imm) = some (packI imm 0x0A#6 rd 0, 0) ∧
    Gives (.addpc rd imm) s 4 rd (BitVec.ofInt 64 (s.hart.pc.toNat + imm.toInt * 2 ^ 16)) ∧
    ∀ d : Int, -2 ^ 31 ≤ d → d + 0x8000 < 2 ^ 31 →
      let high := (d + 0x8000) / 2 ^ 16
      let rest := d - high * 2 ^ 16
      rest ≤ 32767 ∧ -32768 ≤ rest ∧ ∃ t u, exec (.addpc rd (BitVec.ofInt 16 high)) s = .next t ∧
        exec (.addi rd rd (BitVec.ofInt 16 rest)) t = .next u ∧ (rd ≠ 0#5 → u.getX rd = BitVec.ofInt 64 (s.hart.pc.toNat + d))

/-- R100, R27, R44: jumps, and the misaligned target that writes nothing; its access word is the model's reading (entry 21).
R101, R44: a branch goes to its target when its condition holds, and falls through when it does not. -/
def Obligations.ControlTransfers : Prop :=
  (∀ (s : State) (rd rs1 : Reg) (imm : BitVec 21) (off : BitVec 16) (near : BitVec 10), s.hart.cond ≠ .vacant →
     Goes (.jal rd imm) s (BitVec.ofInt 64 (s.hart.pc.toNat + 2 * imm.toInt)) true rd (s.hart.pc + 4) ∧
     (let t : Word := BitVec.ofInt 64 ((s.getX rs1).toNat + off.toInt)
      if t.toNat % 2 = 1 then Traps (.jalr rd rs1 off) s ⟨0x0003, t, 0, 0, false⟩
      else Goes (.jalr rd rs1 off) s t true rd (s.hart.pc + 4)) ∧
     Goes (.cJ near) s (BitVec.ofInt 64 (s.hart.pc.toNat + 2 * near.toInt)) true 0 0 ∧
     (if (s.getX 1).toNat % 2 = 1 then Traps .cRet s ⟨0x0003, s.getX 1, 0, 0, false⟩
      else Goes .cRet s (s.getX 1) true 0 0)) ∧
  (∀ (s : State) (ra rb : Reg) (imm : BitVec 13) (rs : BitVec 3) (off : BitVec 6), s.hart.cond ≠ .vacant →
     let a := s.getX ra
     let b := s.getX rb
     let c := s.getX (BitVec.ofNat 5 (8 + rs.toNat))
     let goes (i : Instr) (p : Prop) (d : Int) (len : Nat) : Prop :=
       (p → Goes i s (BitVec.ofInt 64 (s.hart.pc.toNat + 2 * d)) true 0 0) ∧ (¬ p → Gives i s len 0 0)
     goes (.beq ra rb imm) (a = b) imm.toInt 4 ∧
     goes (.bne ra rb imm) (a ≠ b) imm.toInt 4 ∧
     goes (.blt ra rb imm) (a.toInt < b.toInt) imm.toInt 4 ∧
     goes (.bge ra rb imm) (b.toInt ≤ a.toInt) imm.toInt 4 ∧
     goes (.bltu ra rb imm) (a.toNat < b.toNat) imm.toInt 4 ∧
     goes (.bgeu ra rb imm) (b.toNat ≤ a.toNat) imm.toInt 4 ∧
     goes (.cBz rs off) (c = 0) off.toInt 2 ∧
     goes (.cBnz rs off) (c ≠ 0) off.toInt 2)

/-- R109: `loop` loads its level and enters the body, or skips it when the count is zero. That it takes no loop test is the model's
reading (entry 22).
R110: the loop test, level 1 first. A level with CLOSE set ends at a taken transfer or at its end, and does not go back; else an
arrival at the armed end, by falling through or by a taken transfer, goes back while more than one pass is left, arms the end as last
written and leaves level 0 untested; the last pass falls out; a level of count zero is idle. -/
def Obligations.HardwareLoops : Prop :=
  (∀ (s : State) (k : Bool) (rs1 : Reg) (imm : BitVec 16),
     let a := s.hart.pc
     let n := s.getX rs1
     let e := a + BitVec.ofNat 64 (2 * imm.toNat)
     ∃ t, exec (.loop k rs1 imm) s = .next t ∧ t.hart.cond = .running ∧ t.hart.retired = s.hart.retired + 1 ∧
       t.hart.pc = (if n = 0 then e else a + 4) ∧ (t.getLoop k).count = n ∧ (t.getLoop k).close = false ∧
       (a.toNat < 2 ^ 55 → a.toNat % 2 = 0 →
         (t.getLoop k).start = a + 4 ∧ (t.getLoop k).stop = e ∧ (t.getLoop k).armed = e) ∧
       t.getLoop (!k) = s.getLoop (!k) ∧ (∀ r, t.getX r = s.getX r) ∧ t.hart.fp = s.hart.fp ∧ t.hart.vec = s.hart.vec ∧
       t.hart.mat = s.hart.mat ∧ t.mem = s.mem ∧ t.others = s.others ∧ t.dies = s.dies) ∧
  (∀ (h : Hart) (npc : Word) (taken : Bool),
     let back (l : Loop) : Prop := l.close = false ∨ (taken = false ∧ npc ≠ l.armed)
     let returns (l : Loop) : Prop := back l ∧ npc = l.armed ∧ 1 < l.count.toNat
     let passed (l m : Loop) : Prop := m.start = l.start ∧ m.stop = l.stop ∧ m.armed = l.armed ∧
       (l.count = 0 → m = l) ∧
       (l.count ≠ 0 → ¬ back l → m.count = 0 ∧ m.close = false) ∧
       (l.count ≠ 0 → back l → npc = l.armed → m.count = 0 ∧ m.close = l.close) ∧
       (l.count ≠ 0 → back l → npc ≠ l.armed → m = l)
     let t := h.loopTest npc taken
     t = { h with pc := t.pc, loop0 := t.loop0, loop1 := t.loop1 } ∧
     (returns h.loop1 → t.pc = h.loop1.start ∧ t.loop0 = h.loop0 ∧
       t.loop1 = { h.loop1 with count := h.loop1.count - 1, armed := h.loop1.stop }) ∧
     (¬ returns h.loop1 → passed h.loop1 t.loop1) ∧
     (¬ returns h.loop1 → returns h.loop0 → t.pc = h.loop0.start ∧
       t.loop0 = { h.loop0 with count := h.loop0.count - 1, armed := h.loop0.stop }) ∧
     (¬ returns h.loop1 → ¬ returns h.loop0 → t.pc = npc ∧ passed h.loop0 t.loop0)
)

/-! ### Scalar memory -/

/-- R102, R44: a load reads its bytes little-endian where the access lands and extends them into x(rd), or takes the access's trap; of
memory it changes nothing. With the hart's accesses in program order it reads the bytes as the die sees them (R104, R228). -/
def Obligations.LoadResults : Prop :=
  ∀ (s : State) (rd rs1 : Reg) (off : BitVec 13) (r rc : BitVec 3) (off4 : BitVec 4), s.hart.cond ≠ .vacant →
    let load (i : Instr) (dst : Reg) (a : Word) (n len : Nat) (sign : Bool) : Prop :=
      match s.scalarSpot .load a n with
      | .error tr => Traps i s tr
      | .ok key => Calm s → Completes i s len [.tlb] [dst] Nowhere (fun t =>
          ∃ v : Nat, t.getX dst = (if dst = 0#5 then 0 else
              if sign ∧ 2 ^ (8 * n - 1) ≤ v then BitVec.ofInt 64 ((v : Int) - 2 ^ (8 * n)) else BitVec.ofNat 64 v) ∧
            v < 2 ^ (8 * n) ∧ v = leNat (s.bytesAt s.dieOf key n))
    let a := s.getX rs1 + BitVec.ofInt 64 off.toInt
    load (.lb rd rs1 off) rd a 1 4 true ∧
    load (.lh rd rs1 off) rd a 2 4 true ∧
    load (.lw rd rs1 off) rd a 4 4 true ∧
    load (.ld rd rs1 off) rd a 8 4 true ∧
    load (.lbu rd rs1 off) rd a 1 4 false ∧
    load (.lhu rd rs1 off) rd a 2 4 false ∧
    load (.lwu rd rs1 off) rd a 4 4 false ∧
    load (.cLd r rc off4) (BitVec.ofNat 5 (8 + r.toNat))
      (s.getX (BitVec.ofNat 5 (8 + rc.toNat)) + BitVec.ofNat 64 (8 * off4.toNat)) 8 2 true

/-- R103, R44: a store writes the low n bytes of its register where the access lands and no other byte, or takes the access's trap and
writes nothing. With the hart's accesses in program order, and no store of the die under way to the same place, the bytes read back. -/
def Obligations.StoreResults : Prop :=
  ∀ (s : State) (rs rs1 : Reg) (off : BitVec 13) (r rc : BitVec 3) (off4 : BitVec 4), s.hart.cond ≠ .vacant → s.Inv →
    let store (i : Instr) (src : Reg) (a : Word) (n len : Nat) : Prop :=
      match s.scalarSpot .store a n with
      | .error tr => Traps i s tr
      | .ok key => Calm s → Completes i s len [.tlb, .dies, .mem, .streams, .stale] [] (Span key n) (fun t =>
          (∀ j < n, Shown s (key + j)) →
          (homeOf key = s.dieOf → ∀ j < n, outboundByte (s.die s.dieOf).outbound (key + j) = none) →
          t.bytesAt s.dieOf key n = natLe n (s.getX src).toNat)
    let a := s.getX rs1 + BitVec.ofInt 64 off.toInt
    store (.sb rs rs1 off) rs a 1 4 ∧
    store (.sh rs rs1 off) rs a 2 4 ∧
    store (.sw rs rs1 off) rs a 4 4 ∧
    store (.sd rs rs1 off) rs a 8 4 ∧
    store (.cSd r rc off4) (BitVec.ofNat 5 (8 + r.toNat))
      (s.getX (BitVec.ofNat 5 (8 + rc.toNat)) + BitVec.ofNat 64 (8 * off4.toNat)) 8 2

/-- R102, R103, R193: a scalar access whose address is no multiple of its size raises Misaligned with that address and touches nothing;
an aligned one lands only where it does not leave the 64-bit space, in one place for all its bytes.
R92, R169, R174: where an access by its address alone can or cannot land: an address past 2^56 is in no page; the Tarn takes loads and
stores and no fetch; the scalar data window takes scalar accesses inside the hart's partition alone, and vector accesses never. A byte of
either in a retired block raises MemoryUncorrectable (R359). -/
def Obligations.AccessChecks : Prop :=
  (∀ (s : State) (k : Acc) (a : Word) (n : Nat),
     (a.toNat % n ≠ 0 → s.scalarSpot k a n = .error ⟨0x0003, a, BitVec.ofNat 64 (k.code * 2 ^ 62), 0, false⟩) ∧
     (∀ key, s.scalarSpot k a n = .ok key → a.toNat % n = 0 ∧ s.resolve s.scalarView k a = .ok (.local key))) ∧
  (∀ (s : State) (k : Acc) (a : Word),
     let off := a.toNat % 2 ^ 40
     let there (key : Nat) : Except (BitVec 16) Spot := if s.module.retiredBlocks.contains (key / 2 ^ 16) then .error 0x0007 else .ok (.local key)
     (2 ^ 56 ≤ a.toNat → s.resolve s.scalarView k a = .error (if k = .store ∨ k = .atomic then 0x0005 else 0x0004)) ∧
     (a.toNat / 2 ^ 40 = 0x7F → off < 0xF00000 → k ≠ .fetch →
       s.resolve s.scalarView k a = there (2 ^ 60 + s.hart.id.core * 2 ^ 24 + off) ∧
       s.resolve s.vectorView k a = s.resolve s.scalarView k a) ∧
     (a.toNat / 2 ^ 40 = 0x7F → off < 0xF00000 → s.resolve s.vectorView .fetch a = .error 0x0006) ∧
     (a.toNat / 2 ^ 40 = 0x7F → 0x100000000 ≤ off → off < 0x100040000 →
       s.resolve s.vectorView k a = .error 0x0006 ∧
       s.resolve s.scalarView k a =
         (if s.hart.priv.sdbase.toNat * 4096 ≤ off - 0x100000000 ∧ off - 0x100000000 < s.hart.priv.sdlim.toNat * 4096 then
            there (2 ^ 61 + s.hart.id.core * 2 ^ 18 + (off - 0x100000000))
          else .error 0x0006)) ∧
     (a.toNat / 2 ^ 40 = 0x7F → 0xF00000 ≤ off → (off < 0x100000000 ∨ 0x100040000 ≤ off) →
       s.resolve s.scalarView k a = .error 0x0006 ∧ s.resolve s.vectorView k a = .error 0x0006))

/-- R192, R193: an atomic that returns nothing replaces the value at its place by the operation's result, in one step, and changes no
register; or it takes the access's trap. The value is stated for a state in which nothing is on its way.
R192, R194: an atomic that returns a value gives x(rd) what stood there, sign-extended for `.w`, and stores its own; under DET it
raises DetViolation and makes no access. -/
def Obligations.Atomics : Prop :=
  (∀ (s : State) (a : AmoArgs), s.hart.cond ≠ .vacant → s.Inv →
     let addr := s.getX a.rs1
     let atomic (i : Instr) (n : Nat) (f : Nat → Nat → Nat) : Prop :=
       match s.scalarSpot .atomic addr n with
       | .error tr => Traps i s tr
       | .ok key =>
         Calm s → ∃ t, exec i s = .next t ∧ Retired s t 4 ∧ Untouched [.tlb, .dies, .mem, .streams, .stale] [] s t ∧
           (Settled s → (∀ j < n, Shown s (key + j)) → SameBytes (Span key n) s t ∧
             ∀ d, leNat (t.bytesAt d key n) = f (leNat (s.bytesAt s.dieOf key n)) ((s.getX a.rs2).toNat % 2 ^ (8 * n)) % 2 ^ (8 * n))
     let n := if a.ty = 1 then 8 else 4
     let int (v : Nat) : Int := if v < 2 ^ (8 * n - 1) then v else (v : Int) - 2 ^ (8 * n)
     atomic (.amoadd a) n (fun m b => m + b) ∧
     atomic (.amoand a) n (fun m b => m &&& b) ∧
     atomic (.amoor a) n (fun m b => m ||| b) ∧
     atomic (.amoxor a) n (fun m b => m ^^^ b) ∧
     atomic (.amomin a) n (fun m b => if int b < int m then b else m) ∧
     atomic (.amomax a) n (fun m b => if int m < int b then b else m) ∧
     atomic (.amominu a) n (fun m b => if b < m then b else m) ∧
     atomic (.amomaxu a) n (fun m b => if m < b then b else m) ∧
     atomic (.amofx a) 16 (fun m _ =>
       let x := ((m : Int) + (s.getX a.rs2).toInt) % 2 ^ 96
       (if x < 2 ^ 95 then x else x + (2 ^ 128 - 2 ^ 96)).toNat)) ∧
  (∀ (s : State) (a : AmoArgs), s.hart.cond ≠ .vacant → s.Inv →
     let n := if a.ty = 1 then 8 else 4
     let b := (s.getX a.rs2).toNat % 2 ^ (8 * n)
     let atomic (i : Instr) (fp : Bool) (f : Nat → Nat) : Prop :=
       if s.hart.priv.det then Traps i s s.detViolation
       else match s.scalarSpot .atomic (s.getX a.rs1) n with
         | .error tr => Traps i s tr
         | .ok key =>
           Calm s → ∃ t, exec i s = .next t ∧ Retired s t 4 ∧
             Untouched ([.tlb, .dies, .mem, .streams, .stale] ++ if fp then [.fp] else []) [a.rd] s t ∧
             (Settled s → (∀ j < n, Shown s (key + j)) →
               let old := leNat (s.bytesAt s.dieOf key n)
               SameBytes (Span key n) s t ∧ (∀ d, leNat (t.bytesAt d key n) = f old % 2 ^ (8 * n)) ∧
               t.getX a.rd = if a.rd = 0#5 then 0 else
                 if a.ty = 0 ∧ 2 ^ 31 ≤ old then BitVec.ofInt 64 ((old : Int) - 2 ^ 32) else BitVec.ofNat 64 old)
     atomic (.amoswap a) false (fun _ => b) ∧
     atomic (.amocas a) false (fun m => if m = (s.getX a.rd).toNat % 2 ^ (8 * n) then b else m) ∧
     (a.ty ≠ 2 → atomic (.amofadd a) false (fun m => m + b)) ∧
     (a.ty = 2 → atomic (.amofadd a) true (fun m =>
       (roundTo .fp32 (modeOf s.hart.fp.frm 0) false false
         ((decodeElem .fp32 m).add (modeOf s.hart.fp.frm 0) (decodeElem .fp32 b))).code)))

/-- R192, R228, R234, R235: `lda` and `str` load and store as the plain forms do. After an acquire nothing is kept that was read before it. A
release above hart scope has every earlier access of the hart performed; in a turn that may hold accesses back it is itself held. One at hart
scope has every earlier load read, and both streams see the earlier stores. When a `str` releases at module or system scope, no earlier store of its die is still on its way over a link that is up: that
the whole queue goes is the model's choice (entry 38).
R196 to R199, R236: fences and `prefetch` complete; with the hart's accesses in program order they touch no register and nothing that
the hart's die reads. `fence.sv` and `fence.vs` order one stream's accesses before the other's, a scoped fence those of its set. One at
module or system scope leaves no store of the die on its way over a link that is up: that the whole queue goes is the model's choice (entry
38). `tlbinv` is a supervisor's; it waits while another hart of the die holds accesses back that it cannot perform yet (entry 24), then has every
hart of the die perform its accesses, and removes translations.
R136, R228, R230, R231, R234, R236: what a loose turn holds back. A stream finds its own latest store. A held store is not performed while
an older instruction can still fault, nor while an earlier one stands that it must follow: to a byte of its own, of the same stream or read by
a load of its stream, before a fence with ww, or, for a release, any earlier access; else it is. How held accesses take their turns is the
model's form (entries 5 and 24). -/
def Obligations.OrderedAccesses : Prop :=
  (∀ (s : State) (a : AmoArgs), s.hart.cond ≠ .vacant → s.Inv →
     let n := if a.ty = 1 then 8 else 4
     (match s.scalarSpot .load (s.getX a.rs1) n with
      | .error tr => Traps (.lda a) s tr
      | .ok key =>
        ∃ t, exec (.lda a) s = .next t ∧ Retired s t 4 ∧
          (a.ord.getLsbD 0 = true → t.hart.order.early = []) ∧
          (Calm s → Untouched [.tlb, .dies, .mem, .streams] [a.rd] s t) ∧
          (Settled s → SameBytes Nowhere s t ∧ (let v := leNat (s.bytesAt s.dieOf key n)
             t.getX a.rd = if a.rd = 0#5 then 0 else
               if a.ty = 0 ∧ 2 ^ 31 ≤ v then BitVec.ofInt 64 ((v : Int) - 2 ^ 32) else BitVec.ofNat 64 v))) ∧
     (match s.scalarSpot .store (s.getX a.rs1) n with
      | .error tr => Traps (.str a) s tr
      | .ok key =>
        let bytes := natLe n ((s.getX a.rs2).toNat % 2 ^ (8 * n))
        ∃ t, exec (.str a) s = .next t ∧ Retired s t 4 ∧
          (a.ord.getLsbD 1 = true → a.scope ≠ 0#3 → s.loose = false → t.hart.order.stores = [] ∧ t.hart.order.loads = []) ∧
          (a.ord.getLsbD 1 = true → a.scope ≠ 0#3 → s.loose = true → ∃ h, t.hart.order.stores.getLast? = some h ∧
             h.rel = some a.scope ∧ h.key = key ∧ h.bytes = bytes) ∧
          (a.ord.getLsbD 1 = true → a.scope = 0#3 → t.hart.order.loads = [] ∧ ∀ h ∈ t.hart.order.stores.dropLast, h.both = true) ∧
          (Calm s → Untouched [.tlb, .dies, .mem, .streams, .stale] [] s t ∧ (a.ord.getLsbD 1 = true → 4 ≤ a.scope.toNat →
             ((t.die s.dieOf).outbound.filter (fun o => s.linkUp s.dieOf (homeOf o.pa))).length ≤ 1)) ∧
          (Settled s → (∀ j < n, Shown s (key + j)) → SameBytes (Span key n) s t ∧ t.bytesAt s.dieOf key n = bytes))) ∧
  (∀ (s : State) (set : BitVec 4) (scope : BitVec 3) (rs1 rs2 : Reg), s.hart.cond ≠ .vacant →
     let across (i : Instr) (vec : Bool) : Prop :=
       (∃ t, exec i s = .next t ∧ Retired s t 4 ∧ (∀ l ∈ t.hart.order.loads, l.2.isScalar = vec) ∧
         (∀ h ∈ t.hart.order.stores, h.vec = vec → h.both = true) ∧ ∀ e ∈ t.hart.order.early, e.vec = vec) ∧
       (Calm s → Completes i s 4 [] [] Nowhere (fun _ => True))
     across .fenceSv false ∧ across .fenceVs true ∧
     (∃ t, exec (.fence set scope) s = .next t ∧ Retired s t 4 ∧
       (Calm s → Untouched [.order, .dies, .mem, .streams] [] s t) ∧
       (4 ≤ scope.toNat → ∀ o ∈ (t.die s.dieOf).outbound, s.linkUp s.dieOf (homeOf o.pa) = false) ∧
       (Calm s → scope.toNat < 4 → SameBytes Nowhere s t ∧ t.dies = s.dies ∧ t.streams = s.streams) ∧
       (set.getLsbD 3 = true ∨ set.getLsbD 2 = true → t.hart.order.loads = []) ∧
       (set.getLsbD 3 = true ∨ set.getLsbD 2 = true → ∀ h ∈ t.hart.order.stores, h.readS = true ∨ h.readV = true → scope = 0#3 ∧ h.both = true) ∧
       (set.getLsbD 3 = true ∨ set.getLsbD 1 = true → t.hart.order.early = []) ∧
       (set.getLsbD 1 = true → scope ≠ 0#3 → t.hart.order.stores = []) ∧
       (set.getLsbD 1 = true ∨ set.getLsbD 0 = true → scope = 0#3 → ∀ h ∈ t.hart.order.stores, h.both = true) ∧
       (set.getLsbD 0 = true → scope ≠ 0#3 → t.hart.order.epoch = s.hart.order.epoch + 1)) ∧
     Completes (.prefetch rs1 rs2) s 4 [] [] Nowhere (fun _ => True) ∧
     (if s.hart.priv.sup = false then Traps (.tlbinv rs1) s s.privileged
      else if s.holdersWait then exec (.tlbinv rs1) s = .next { s with hart := { s.hart with cond := .waiting .queue } }
      else ∃ t, exec (.tlbinv rs1) s = .next t ∧ Retired s t 4 ∧ t.hart.order.stores = [] ∧ t.hart.order.loads = [] ∧ t.holders = [] ∧
        (∀ e ∈ (t.die s.dieOf).tlb, e ∈ (s.die s.dieOf).tlb ∧
          (e.ctx = s.hart.id.ctx → rs1 ≠ 0#5 ∧ e.region ≠ (s.getX rs1).toNat / 2 ^ 16)) ∧
        (Calm s → s.holders = [] → Untouched [.tlb] [] s t ∧ SameBytes Nowhere s t))) ∧
  (∀ (s : State) (hs : List HeldStore) (h : HeldStore),
     (s.hart.order.stores = hs ++ [h] → s.foundBytes h.vec h.key h.bytes.length = h.bytes) ∧
     (∀ i, s.hart.order.stores[i]? = some h →
       (s.exposed = true ∨ h.rel.isSome = true ∧ (0 < i ∨ s.hart.order.loads ≠ []) → s.landHeld i = s) ∧
       (∀ j g, j < i → s.hart.order.stores[j]? = some g →
         ((∃ k, Span g.key g.bytes.length k ∧ Span h.key h.bytes.length k) ∧ (g.vec = h.vec ∨ g.readBy h.vec = true)) ∨ g.epoch < h.epoch → s.landHeld i = s) ∧
       (s.exposed = false → (∀ g ∈ s.hart.order.stores.take i, g.precedes h = false) → h.rel = none →
         (s.landHeld i).hart.order.stores = s.hart.order.stores.eraseIdx i)) ∧
     ∀ i rest, s.agenda = .store s.hart.key i :: rest → s.hart.cond ≠ .vacant →
       (let u : State := { s.tick with agenda := rest }
        step s = .next (u.noting (u.landHeld i)))
)

/-! ### Scalar floating point and control registers -/

/-- R105 to R107: arithmetic and conversions write the rounded result and add its flags, and change nothing else.
R106: choosing, sign and compare operations are exact; only `flt` and `fle` of a NaN add a flag, NV. -/
def Obligations.ScalarFloat : Prop :=
  (∀ (s : State) (a : FArgs), s.hart.cond ≠ .vacant →
     let m := modeOf s.hart.fp.frm a.rm
     let x := s.fpValue a.fmt a.rs1
     let y := s.fpValue a.fmt a.rs2
     let z := s.fpValue a.fmt a.rd
     let gives (i : Instr) (r : Rounded) (extra : Flags) : Prop :=
       Completes i s 4 [.fp] [a.rd] Nowhere (fun t =>
         t.getX a.rd = (if a.rd = 0#5 then 0 else BitVec.ofNat 64 r.code) ∧
         t.hart.fp = { s.hart.fp with fflags := s.hart.fp.fflags ||| r.flags ||| extra })
     let round (v : Value) : Rounded := roundTo (fmtTag a.fmt) m false false v
     gives (.fadd a) (round (x.add m y)) 0 ∧
     gives (.fsub a) (round (x.sub m y)) 0 ∧
     gives (.fmul a) (round (x.mul y)) 0 ∧
     gives (.fdiv a) (round (x.div y).1) (x.div y).2 ∧
     gives (.fsqrt a) (round x.sqrt) 0 ∧
     gives (.fmadd a) (round (x.fma m y z)) 0 ∧
     gives (.fcvt a) (round (if a.rs2 = 4 then decodeElem .int64 (s.getX a.rs1).toNat
       else if a.rs2 = 5 then decodeElem .nat64 (s.getX a.rs1).toNat else s.fpValue (a.rs2.setWidth 2) a.rs1)) 0 ∧
     gives (.fcvtInt64 a) (roundTo .int64 m false false x) 0 ∧
     gives (.fcvtInt64Sat a) (roundTo .int64 m true false x) 0 ∧
     gives (.fcvtNat64 a) (roundTo .nat64 m false false x) 0 ∧
     gives (.fcvtNat64Sat a) (roundTo .nat64 m true false x) 0) ∧
  (∀ (s : State) (a : FArgs), s.hart.cond ≠ .vacant →
     let x := s.fpValue a.fmt a.rs1
     let y := s.fpValue a.fmt a.rs2
     let w := if a.fmt = 0 then 32 else 16
     let p := (s.getX a.rs1).toNat % 2 ^ w
     let q := (s.getX a.rs2).toNat % 2 ^ w
     let nan := x.isNan || y.isNan
     let signed (neg : Bool) : Word := BitVec.ofNat 64 (p % 2 ^ (w - 1) + if neg then 2 ^ (w - 1) else 0)
     let compares (i : Instr) (ok : Bool) : Prop :=
       Completes i s 4 [.fp] [a.rd] Nowhere (fun t =>
         t.getX a.rd = (if a.rd ≠ 0#5 ∧ nan = false ∧ ok then 1 else 0) ∧
         t.hart.fp = { s.hart.fp with fflags := s.hart.fp.fflags ||| if nan then flagNV else 0 })
     Gives (.fsignCp a) s 4 a.rd (signed (q.testBit (w - 1))) ∧
     Gives (.fsignNg a) s 4 a.rd (signed (!q.testBit (w - 1))) ∧
     Gives (.fsignXr a) s 4 a.rd (signed (p.testBit (w - 1) != q.testBit (w - 1))) ∧
     Gives (.fmin a) s 4 a.rd (BitVec.ofNat 64 (roundTo (fmtTag a.fmt) .rne false false (x.min y)).code) ∧
     Gives (.fmax a) s 4 a.rd (BitVec.ofNat 64 (roundTo (fmtTag a.fmt) .rne false false (x.max y)).code) ∧
     Gives (.feq a) s 4 a.rd (if nan = false ∧ x.cmp y = .eq then 1 else 0) ∧
     compares (.flt a) (x.cmp y == .lt) ∧
     compares (.fle a) (x.cmp y != .gt))

/-- R89 to R91, R5: reading an assigned control register gives its value and writes nothing else; supervisor registers raise Privileged at
user privilege. `crs` and `crc` with x0 are reads.
R89 to R91, R1, R5: a write of an assigned control register is refused with Privileged or IllegalInstruction, or it sets the register
to the value, gives its old value to x(rd), and changes no other register. `crw` writes x(rs1); `crs` and `crc` with a register set and
clear the bits of x(rs1). A read-only register takes no write; FFLAGS and XCLS take six bits, FRM a mode from 1 to 4, VL at most MVL(1) and none in
matrix mode, VSTART 18 bits. -/
def Obligations.ControlRegisters : Prop :=
  (∀ (s : State) (rd : Reg) (crn : BitVec 12), s.hart.cond ≠ .vacant → crnAssigned crn = true →
     (if crSupervisor crn.toNat && !s.hart.priv.sup then
        Traps (.crr rd crn) s s.privileged ∧ Traps (.crs rd crn 0) s s.privileged ∧ Traps (.crc rd crn 0) s s.privileged
      else
        Gives (.crr rd crn) s 4 rd (s.crRead crn.toNat) ∧ Gives (.crs rd crn 0) s 4 rd (s.crRead crn.toNat) ∧
        Gives (.crc rd crn 0) s 4 rd (s.crRead crn.toNat)) ∧
     Gives (.crr rd 0x000) s 4 rd (s.hart.fp.fflags.setWidth 64) ∧
     Gives (.crr rd 0x001) s 4 rd (s.hart.fp.frm.setWidth 64) ∧
     Gives (.crr rd 0x002) s 4 rd (BitVec.ofNat 64 s.hart.vec.vl) ∧
     Gives (.crr rd 0x003) s 4 rd (BitVec.ofNat 64 s.hart.vec.vstart) ∧
     Gives (.crr rd 0x020) s 4 rd s.hart.loop0.count ∧
     Gives (.crr rd 0x026) s 4 rd s.hart.loop1.stop ∧
     Gives (.crr rd 0x030) s 4 rd (BitVec.ofNat 64 (s.hart.id.core * 2 ^ 16 + s.hart.id.slot * 2 ^ 8 + s.hart.id.rank)) ∧
     Gives (.crr rd 0x058) s 4 rd s.hart.eff.epc ∧
     Gives (.crr rd 0x05A) s 4 rd s.hart.eff.eval) ∧
  (∀ (s : State) (rd rs1 : Reg) (crn : BitVec 12), s.hart.cond ≠ .vacant → s.Inv → crnAssigned crn = true →
     let n := crn.toNat
     let old := s.crRead n
     let refused (v : Word) : Prop := crReadOnly n = true ∨ v &&& ~~~(crBits n) ≠ 0 ∨ s.crLegal n v = false
     let writes (i : Instr) (v : Word) : Prop :=
       if crSupervisorWrite n = true ∧ s.hart.priv.sup = false then Traps i s s.privileged
       else if refused v then Traps i s s.illegal
       else ∃ t, exec i s = .next t ∧ Retired (s.crSet n v) t 4 ∧ Untouched (controlPart n) [rd] s t ∧
         SameBytes (if n = 0x041 ∨ n = 0x042 ∨ n = 0x050 then ScalarData else Nowhere) s t ∧ t.getX rd = (if rd = 0#5 then 0 else old) ∧
         (s.crSet n v).crRead n = v ∧ ((n < 0x020 ∨ 0x028 < n) → t.crRead n = v)
     (∀ v, (n = 0x000 ∨ n = 0x005 → (refused v ↔ 64 ≤ v.toNat)) ∧ (n = 0x001 → (refused v ↔ v = 0 ∨ 4 < v.toNat)) ∧
       (n = 0x002 → (refused v ↔ s.hart.mat.m = true ∨ 4096 * s.hart.id.lanes < v.toNat ∨ 2 ^ 18 ≤ v.toNat)) ∧
       (n = 0x003 → (refused v ↔ 2 ^ 18 ≤ v.toNat)) ∧
       (n ∈ [0x010, 0x011, 0x012, 0x030, 0x031, 0x032, 0x033, 0x058, 0x059, 0x05A, 0x060, 0x061, 0x062, 0x063, 0x064] → refused v)) ∧
     writes (.crw rd crn rs1) (s.getX rs1) ∧
     (rs1 ≠ 0#5 → writes (.crs rd crn rs1) (old ||| s.getX rs1) ∧ writes (.crc rd crn rs1) (old &&& ~~~(s.getX rs1)))
)

/-! ### Vector operations -/

/-- R145, R147, R148: the arithmetic of majors 0x19 to 0x1B rounds the exact result of each active element into vd, and changes nothing
else. The dirty bit of vd is set also where every active element lies below VSTART: entry 44 (DESIGN CHOICE). -/
def Obligations.VectorArithmetic : Prop :=
  ∀ (s u : State) (i : Instr) (op : VOp) (a : VArgs) (g : Gov) (sat : Bool) (f : Mode → Value → Value → Value → Value × Flags),
    s.hart.cond ≠ .vacant → s.Inv → VecForm s i op a g → Admitted s u op a g →
    (op, sat, f) ∈ ([(.vadd, false, fun m x y _ => (x.add m y, 0)), (.vsub, false, fun m x y _ => (x.sub m y, 0)),
      (.vaddSat, true, fun m x y _ => (x.add m y, 0)), (.vsubSat, true, fun m x y _ => (x.sub m y, 0)),
      (.vmul, false, fun _ x y _ => (x.mul y, 0)), (.vdiv, false, fun _ x y _ => x.div y),
      (.vmin, false, fun _ x y _ => (x.min y, 0)), (.vmax, false, fun _ x y _ => (x.max y, 0)),
      (.vfma, false, fun m x y z => (x.fma m y z, 0)), (.vfms, false, fun m x y z => (x.fma m y z.neg, 0)),
      (.vfnma, false, fun m x y z => ((x.mul y).neg.add m z, 0)), (.vfnms, false, fun m x y z => ((x.mul y).neg.add m z.neg, 0))] :
        List (VOp × Bool × (Mode → Value → Value → Value → Value × Flags))) →
    Vectored i s g.len [] (fun t => Rounds u t a.vd s.hart.vec.vstart s.hart.vec.vl g.act (fun e =>
      (u.rounded a.vd (s.mode g) sat e (f (s.mode g) (u.elem a.vs1 e) (u.opnd2 a e) (u.elem a.vd e))).2))

/-- R151, R153, R157, R163: the operations of one source, conversions, counts, indices, the slide down, the permutation and the random
fraction round their element's value into vd. The dirty bit of vd is set also where every active element lies below VSTART: entry 44 (DESIGN CHOICE).
R149, R150, R151, R155, R162: logic, shifts, `vnot`, the splat and the random words store codes, raise no flag and touch no
sidecar. The dirty bit of vd is set also where every active element lies below VSTART: entry 44 (DESIGN CHOICE). -/
def Obligations.VectorFunctions : Prop :=
  (∀ (s u : State) (i : Instr) (op : VOp) (a : VArgs) (g : Gov) (sat : Bool) (f : Mode → Nat → Value → Value × Flags),
     s.hart.cond ≠ .vacant → s.Inv → VecForm s i op a g → Admitted s u op a g →
     let code (e : Nat) : Nat := u.codeOf a.vs1 e
     let n := 8 * u.widthOf a.vs1
     let vl := s.hart.vec.vl
     let k := (s.getX a.vs2).toNat
     (op, sat, f) ∈ ([(.vneg, false, fun _ _ x => (x.neg, 0)), (.vabs, false, fun _ _ x => (x.abs, 0)),
       (.vsqrt, false, fun _ _ x => (x.sqrt, 0)), (.vrcp, false, fun _ _ x => (Value.ofInt 1).div x),
       (.vrsqrt, false, fun _ _ x => x.rsqrt), (.vfloor, false, fun _ _ x => (x.integral .rdn, 0)),
       (.vceil, false, fun _ _ x => (x.integral .rup, 0)), (.vtrunc, false, fun _ _ x => (x.integral .rtz, 0)),
       (.vrint, false, fun m _ x => (x.integral m, 0)), (.vcvt, false, fun _ _ x => (x, 0)), (.vcvtSat, true, fun _ _ x => (x, 0)),
       (.vclz, false, fun _ e _ => (.ofInt (clzNat n (code e) : Nat), 0)), (.vctz, false, fun _ e _ => (.ofInt (ctzNat n (code e) : Nat), 0)),
       (.vpopc, false, fun _ e _ => (.ofInt (popcNat n (code e) : Nat), 0)), (.vidx, false, fun _ e _ => (.ofInt (e : Nat), 0)),
       (.vperm, false, fun _ e _ => (u.permuted a (u.opnd2 a e), 0)),
       (.vsldn, false, fun _ e _ => (if e + k < vl then u.elem a.vs1 (e + k) else .zero false, 0)),
       (.vrngF, false, fun _ e _ => (rngValue (u.tagOf a.vd).tag (s.getX a.vs1) (s.getX a.vs2 + BitVec.ofNat 64 e), 0))] :
         List (VOp × Bool × (Mode → Nat → Value → Value × Flags))) →
     Vectored i s g.len [] (fun t => Rounds u t a.vd s.hart.vec.vstart vl g.act (fun e =>
       (u.rounded a.vd (s.mode g) sat e (f (s.mode g) e (u.elem a.vs1 e))).2))) ∧
  (∀ (s u : State) (i : Instr) (op : VOp) (a : VArgs) (g : Gov) (f : Nat → Nat → Nat → Nat),
     s.hart.cond ≠ .vacant → s.Inv → VecForm s i op a g → Admitted s u op a g →
     let w := u.widthOf a.vd
     let n := 8 * w
     let k (e : Nat) : Nat := shiftAmount n (u.opnd2 a e)
     (op, f) ∈ ([(.vand, fun _ x y => x &&& y), (.vor, fun _ x y => x ||| y), (.vxor, fun _ x y => x ^^^ y),
       (.vandn, fun _ x y => x &&& (y ^^^ (2 ^ n - 1))), (.vsll, fun e x _ => (x * 2 ^ k e) % 2 ^ n), (.vsrl, fun e x _ => x / 2 ^ k e),
       (.vsra, fun e x _ => wrapInt n (signed n x / (2 ^ k e : Nat))), (.vrol, fun e x _ => (x * 2 ^ k e) % 2 ^ n + x / 2 ^ (n - k e)),
       (.vnot, fun _ x _ => x ^^^ (2 ^ n - 1)), (.vsplat, fun _ _ _ => (s.getX a.vs1).toNat),
       (.vrng, fun e _ _ => rngCode w (s.getX a.vs1) (s.getX a.vs2 + BitVec.ofNat 64 e))] : List (VOp × (Nat → Nat → Nat → Nat))) →
     Vectored i s g.len [] (fun t =>
       Placed u t a.vd s.hart.vec.vstart s.hart.vec.vl g.act (fun e => (u.tagOf a.vd).tag.keep (f e (u.codeOf a.vs1 e) (u.code2 a e))) ∧
       (∀ q, q ≠ a.vd → t.image q = u.image q) ∧ t.hart.vec.preds = u.hart.vec.preds ∧ t.hart.vec.xmask = u.hart.vec.xmask ∧
       t.hart.fp = s.hart.fp))

/-- R152: a comparison writes its truth into predicate vd; a NaN compares unequal and unordered, and raises NV in an ordering. -/
def Obligations.VectorComparisons : Prop :=
  ∀ (s u : State) (i : Instr) (op : VOp) (a : VArgs) (g : Gov) (quiet : Bool) (f : Bool → Ordering → Bool),
    s.hart.cond ≠ .vacant → VecForm s i op a g → Admitted s u op a g →
    (op, quiet, f) ∈ ([(.vcmpEq, true, fun nan c => !nan && c == .eq), (.vcmpNe, true, fun nan c => nan || c != .eq),
      (.vcmpLt, false, fun nan c => !nan && c == .lt), (.vcmpLe, false, fun nan c => !nan && c != .gt),
      (.vcmpGt, false, fun nan c => !nan && c == .gt), (.vcmpGe, false, fun nan c => !nan && c != .lt),
      (.vcmpUno, true, fun nan _ => nan), (.vcmpOrd, true, fun nan _ => !nan)] : List (VOp × Bool × (Bool → Ordering → Bool))) →
    let nan (e : Nat) : Bool := (u.elem a.vs1 e).isNan || (u.opnd2 a e).isNan
    let vd := a.vd.toNat
    Vectored i s g.len [] (fun t =>
      (vd ≠ 0 → PlacedBits u t vd s.hart.vec.vstart s.hart.vec.vl g.act (fun e => f (nan e) ((u.elem a.vs1 e).cmp (u.opnd2 a e)))) ∧
      Flagged u t s.hart.vec.vstart s.hart.vec.vl g.act (fun e => if nan e ∧ quiet = false then flagNV else 0) ∧
      (∀ q < 48, q ≠ vd → t.pred q = u.pred q) ∧ t.hart.vec.regs = u.hart.vec.regs)

/-- R155, R156, R157: the selection, the slide up, and the moves between an element and a scalar register. That `vsel` raises no flag for an
element that it takes from vs2 is the model's reading (R74, R155), entry 16 (DEDUCED). The dirty bit of vd is set also where every active element lies below VSTART: entry 44 (DESIGN CHOICE).
R155, R36: the immediate splat sets every active element to its immediate. The dirty bit of vd is set also where every active element lies below VSTART: entry 44 (DESIGN CHOICE). -/
def Obligations.VectorMoves : Prop :=
  (∀ (s u : State) (i : Instr) (op : VOp) (a : VArgs) (g : Gov), s.hart.cond ≠ .vacant → s.Inv → VecForm s i op a g → Admitted s u op a g →
     let v := s.hart.vec
     let k := (s.getX a.vs2).toNat
     (op = .vsel → (s.tagOf a.vd).tag ≠ .fx96 → Vectored i s g.len [] (fun t =>
       Rounds u t a.vd v.vstart v.vl (ones v.vl) (fun e =>
         if g.act.testBit e then (u.rounded a.vd (s.mode g) false e (u.elem a.vs1 e, 0)).2
         else { u.roundElem a.vd e (s.mode g) false (u.opnd2 a e) with flags := 0 }))) ∧
     (op = .vsel → (s.tagOf a.vd).tag = .fx96 → Vectored i s g.len [] (fun t =>
       Placed u t a.vd v.vstart v.vl (ones v.vl) (fun e => if g.act.testBit e then u.codeOf a.vs1 e else u.code2 a e) ∧
       OthersKept u t a.vd ∧ t.hart.fp = s.hart.fp)) ∧
     (op = .vslup → Vectored i s g.len [] (fun t =>
       Rounds u t a.vd (max v.vstart (min k v.vl)) v.vl g.act (fun e =>
         (u.rounded a.vd (s.mode g) false e (u.elem a.vs1 (e - k), 0)).2))) ∧
     (op = .vext → Vectored i s g.len [a.vd] (fun t =>
       let c := u.codeOf a.vs1 k
       let w := u.widthOf a.vs1
       t.getX a.vd = (if a.vd = 0#5 ∨ s.mvl w ≤ k then 0
         else if (u.tagOf a.vs1).tag.isSigned then BitVec.ofInt 64 (signed (8 * w) c) else BitVec.ofNat 64 c) ∧
       t.hart.vec.regs = u.hart.vec.regs ∧ t.hart.vec.preds = u.hart.vec.preds ∧ t.hart.fp = s.hart.fp)) ∧
     (op = .vins → Vectored i s g.len [] (fun t =>
       let w := u.widthOf a.vd
       (k < s.mvl w → codeAt (t.image a.vd) w k = (u.tagOf a.vd).tag.keep (s.getX a.vs1).toNat % 256 ^ w) ∧
       (∀ j, j ≠ k ∨ s.mvl w ≤ k → codeAt (t.image a.vd) w j = codeAt (u.image a.vd) w j) ∧
       (∀ q, q ≠ a.vd → t.image q = u.image q) ∧ t.hart.vec.preds = u.hart.vec.preds ∧ t.hart.fp = s.hart.fp))) ∧
  (∀ (s : State) (pre : VectorPrefix) (vs1 : BitVec 5) (vd : Reg), s.hart.cond ≠ .vacant → s.Inv →
     let g := s.govWide pre
     let imm : Int := pre.immx.toInt * 32 + vs1.toNat
     s.vectorChecks [] [vd] [g.pg] ((s.tagOf vd).tag != .fx96) = none →
     Vectored (.vsplatImm pre vs1 vd) s 8 [] (fun t =>
       Rounds s t vd s.hart.vec.vstart s.hart.vec.vl g.act (fun e => (s.rounded vd (s.mode g) false e (.ofInt imm, 0)).2)))

/-- R157, R158, R161, R154, R365: compression moves the active elements down; a reduction leaves its result in element 0 and zeroes or
keeps the rest; the conversion to blocks writes vd and its sidecar alone and leaves the inactive elements of a block it rescales as they are, and renormalisation vd and its exponents alone. The tail of a reduction with VSTART above 0, and that `vcvt.blk`
sets its scales from every active element, those below VSTART among them, are the model's readings (entry 16).
R83, R84, R159, R160: a scan writes vd and x(rs2); with no active element it writes no element, and the carry passes through, rounded
to vd's tag; the lowest active element of the first group receives the value of the recurrence there. -/
def Obligations.VectorGathersAndScans : Prop :=
  (∀ (s u : State) (i : Instr) (op : VOp) (a : VArgs) (g : Gov), s.hart.cond ≠ .vacant → s.Inv → VecForm s i op a g → Admitted s u op a g →
     let v := s.hart.vec
     let w := u.widthOf a.vd
     let active := (List.range v.vl).filter (fun e => g.act.testBit e)
     let kept (t : State) (qs : List Reg) : Prop := (∀ q, q ∉ qs → t.image q = u.image q) ∧ t.hart.vec.preds = u.hart.vec.preds
     (op = .vcompress → Vectored i s g.len [] (fun t =>
       (v.vstart < v.vl → ∀ j, v.vstart ≤ j → ∀ e, active[j]? = some e →
         codeAt (t.image a.vd) w j = (u.rounded a.vd (s.mode g) false j (u.elem a.vs1 e, 0)).2.code % 256 ^ w) ∧
       (∀ j, j < v.vstart → codeAt (t.image a.vd) w j = codeAt (u.image a.vd) w j) ∧
       (v.vstart < v.vl → ∀ j, v.vstart ≤ j → active.length ≤ j →
         codeAt (t.image a.vd) w j = if v.ta then 0 else codeAt (u.image a.vd) w j) ∧
       (v.vl ≤ v.vstart → t.image a.vd = u.image a.vd) ∧ kept t (u.withSidecars [a.vd]))) ∧
     (∀ ordered f, (op, ordered, f) ∈ ([(.vredsum, false, fun x y => x.add (s.mode g) y), (.vredsumO, true, fun x y => x.add (s.mode g) y),
         (.vredmin, false, Value.min), (.vredmax, false, Value.max)] : List (VOp × Bool × (Value → Value → Value))) →
       let nodes := (List.range v.vl).map (fun e => if g.act.testBit e then some (u.elem a.vs1 e) else none)
       let r := (if ordered then orderedReduce else treeReduce) (u.tagOf a.vd).tag (s.mode g) f nodes (u.opnd2 a 0)
       Vectored i s g.len [] (fun t =>
         (active ≠ [] → v.vstart = 0 → codeAt (t.image a.vd) w 0 = r.1 % 256 ^ w) ∧
         (active ≠ [] → v.vstart < v.vl → t.hart.fp.fflags = s.hart.fp.fflags ||| r.2 ∧
           ∀ j, max 1 v.vstart ≤ j → codeAt (t.image a.vd) w j = if v.ta then 0 else codeAt (u.image a.vd) w j) ∧
         (∀ j, 0 < v.vstart → j < v.vstart → codeAt (t.image a.vd) w j = codeAt (u.image a.vd) w j) ∧
         (active = [] ∨ v.vl ≤ v.vstart → t.image a.vd = u.image a.vd ∧ t.hart.fp = s.hart.fp) ∧ kept t [a.vd])) ∧
     (op = .vcvtBlk → Vectored i s g.len [] (fun t =>
       kept t [a.vd, (u.tagOf a.vd).vsc] ∧ (active = [] ∨ v.vl ≤ v.vstart → t.hart.vec.regs = u.hart.vec.regs) ∧
       (v.vstart < v.vl → ∀ b, (∀ e ∈ active, e / (u.tagOf a.vd).block ≠ b) →
         codeAt (t.image (u.tagOf a.vd).vsc) 1 b = codeAt (u.image (u.tagOf a.vd).vsc) 1 b) ∧
       (∀ e, e < v.vl → g.act.testBit e = false → (∃ d ∈ active, d / (u.tagOf a.vd).block = e / (u.tagOf a.vd).block) →
         codeAt (t.image a.vd) w e = codeAt (u.image a.vd) w e) ∧
       (v.vstart < v.vl → ∀ b, (∃ e ∈ active, e / (u.tagOf a.vd).block = b ∧ (u.elem a.vs1 e).isNan = true) →
         codeAt (t.image (u.tagOf a.vd).vsc) 1 b = 255))) ∧
     (op = .vrenorm → Vectored i s g.len [] (fun t =>
       kept t [a.vd, a.vs1] ∧
       (∀ e, e < v.vl → (e < v.vstart ∨ g.act.testBit e = false) → codeAt (t.image a.vd) w e = codeAt (u.image a.vd) w e) ∧
       (∀ k, (∀ e ∈ active, e / 64 ≠ k) → codeAt (t.image a.vs1) 1 k = codeAt (u.image a.vs1) 1 k)))) ∧
  (∀ (s u : State) (i : Instr) (op : VOp) (a : VArgs) (g : Gov) (lin : Bool), s.hart.cond ≠ .vacant → s.Inv → VecForm s i op a g →
     Admitted s u op a g → (op, lin) ∈ ([(.vscan, false), (.vscanLin, true)] : List (VOp × Bool)) →
     let v := s.hart.vec
     let t0 := (u.tagOf a.vd).tag
     let w := u.widthOf a.vd
     let m := s.mode g
     let out (c : Nat) : Word := if t0.isSigned then BitVec.ofInt 64 (signed (8 * w) c) else BitVec.ofNat 64 c
     let cin := roundTo t0 m false false (decodeElem t0 ((s.getX a.vs2).toNat % 2 ^ (8 * w)))
     let round (x : Value) : Value := decodeElem t0 (roundTo t0 m false false x).code
     let x (e : Nat) : Value := if lin then u.elem a.vs1 e else .ofInt 1
     let y (e : Nat) : Value := if lin then u.elem a.vd e else u.elem a.vs1 e
     Vectored i s g.len [a.vs2] (fun t =>
       (∀ q, q ≠ a.vd → t.image q = u.image q) ∧ t.hart.vec.preds = u.hart.vec.preds ∧
       ((∀ e < v.vl, g.act.testBit e = false) → t.image a.vd = u.image a.vd ∧
         t.getX a.vs2 = if a.vs2 = 0#5 then 0 else out cin.code) ∧
       (∀ e, e < v.vl → e < v.vstart ∨ (g.act.testBit e = false ∧ v.mz = false) →
         codeAt (t.image a.vd) w e = codeAt (u.image a.vd) w e) ∧
       (∀ e < 64, Hit s g.act e → (∀ d < e, g.act.testBit d = false) →
         codeAt (t.image a.vd) w e =
           (roundTo t0 m false false ((round (x e)).fma m (decodeElem t0 cin.code) (round (y e)))).code % 256 ^ w)))

/-- R42, R117, R261, R321: a vector operation that is given a bound destination, an operand that VL does not fit or a tag it does not admit
raises IllegalInstruction; else an absent operand raises VectorFirst.
R42, R322: check 5 passes when every register named is present; else it names the lowest absent vector register, then predicate,
then tile. -/
def Obligations.VectorChecks : Prop :=
  (∀ (s : State) (i : Instr) (op : VOp) (a : VArgs) (g : Gov), VecForm s i op a g →
     let sh := opShape op a s
     (sh.legal = false ∨ (∃ r ∈ sh.writes, (s.bindingOf r).isSome = true) ∨
       (∃ r ∈ sh.reads ++ sh.writes, s.mvl (s.widthOf r) < s.hart.vec.vl) → Traps i s s.illegal) ∧
     (s.vectorChecks sh.reads sh.writes [] sh.legal ≠ some s.illegal →
       ∀ n : Nat, n < 32 → BitVec.ofNat 5 n ∈ s.withSidecars (sh.reads ++ sh.writes) → s.hart.vec.present.getLsbD n = false →
         (∀ k < n, BitVec.ofNat 5 k ∈ s.withSidecars (sh.reads ++ sh.writes) → s.hart.vec.present.getLsbD k = true) →
         Traps i s ⟨0x0008, BitVec.ofNat 64 n, 0, 0, false⟩)) ∧
  (∀ (s : State) (vs : List Reg) (ps : List Nat) (ts : List Bool), (∀ p ∈ ps, p < 51) →
     let gone (p : Nat) : Prop := p ∈ ps ∧ p ≠ 0 ∧ p ≠ 48 ∧ p ≠ 49 ∧ s.hart.vec.ppresent.getLsbD p = false
     let vOk : Prop := ∀ r ∈ vs, s.hart.vec.present.getLsbD r.toNat = true
     let pOk : Prop := ∀ p, ¬ gone p
     let tOk : Prop := ∀ t ∈ ts, s.hart.mat.present.getLsbD t.toNat = true
     (vOk → pOk → tOk → s.absent vs ps ts = none) ∧
     (∀ r ∈ vs, s.hart.vec.present.getLsbD r.toNat = false → (∀ q ∈ vs, q.toNat < r.toNat → s.hart.vec.present.getLsbD q.toNat = true) →
       s.absent vs ps ts = some ⟨0x0008, BitVec.ofNat 64 r.toNat, 0, 0, false⟩) ∧
     (∀ p, vOk → gone p → (∀ q < p, ¬ gone q) → s.absent vs ps ts = some ⟨0x0008, BitVec.ofNat 64 (64 + p), 0, 0, false⟩) ∧
     (∀ t ∈ ts, vOk → pOk → s.hart.mat.present.getLsbD t.toNat = false →
       (∀ q ∈ ts, q.toNat < t.toNat → s.hart.mat.present.getLsbD q.toNat = true) →
       s.absent vs ps ts = some ⟨0x0009, BitVec.ofNat 64 t.toNat, 0, 0, false⟩)
)

/-- R164, R165: a complement pair is one instruction of three retirements; the first member is governed by pg and the second by its
complement, and each leaves in its own destination what it leaves alone. A pair whose second member reads what the first writes
raises IllegalInstruction with the second member's words: that this is tested before the members' own checks, that its words are
reported, and that the sidecar of the first destination counts as its destination though it is not written, are the model's choices,
entry 43 (DESIGN CHOICE). -/
def Obligations.PairResults : Prop :=
  ∀ (s u : State) (i : Instr) (g : Gov) (w1 u1 w2 u2 : IWord) (n1 n2 : Nat) (m n : Member), s.hart.cond ≠ .vacant →
    ((∃ pg, i = .pair pg ∧ g = s.gov pg) ∨ ∃ pre, i = .wideVectorForm pre .pair ∧ g = s.govWide pre) →
    s.fetchCode (s.hart.pc + BitVec.ofNat 64 g.len) = .ok (w1, u1, n1) →
    s.fetchCode (s.hart.pc + BitVec.ofNat 64 g.len + BitVec.ofNat 64 n1) = .ok (w2, u2, n2) →
    memberOf w1 u1 n1 = some m → memberOf w2 u2 n2 = some n →
    (s.memberHazard m n = true → Traps i s ⟨0x0001, w2.setWidth 64, u2.setWidth 64, 0, false⟩) ∧
    (s.memberHazard m n = false → s.memberLegal m = true → s.memberLegal n = true →
      let reads := (opShape m.op m.a s).reads ++ (opShape n.op n.a s).reads
      s.absent (s.withSidecars (reads ++ [m.a.vd, n.a.vd])) [g.pg] [] = none → s.takeStrips (s.readBindings (s.withSidecars reads)) = .ok u →
      let len := g.len + n1 + n2
      let first := (opEffect m.op m.a ⟨g.pg, g.act, m.rm, m.len⟩ u).vstart0
      ∃ t, exec i s = .next t ∧ t.hart.cond = .running ∧ t.hart.retired = s.hart.retired + 3 ∧
        t.hart.pc = (s.hart.loopTest (s.hart.pc + BitVec.ofNat 64 len) false).pc ∧
        Untouched [.vec, .fp, .eng] [] s t ∧ SameBytes Nowhere s t ∧ t.hart.vec.vstart = 0 ∧
        (m.a.vd ∉ s.withSidecars [n.a.vd] → t.image m.a.vd = first.image m.a.vd) ∧
        t.image n.a.vd = (opEffect n.op n.a ⟨g.pg, g.act ^^^ ones s.bits, n.rm, n.len⟩ first).image n.a.vd)

/-! ### Predicates -/

/-- R167, R119: predicate logic writes pd by Place, bit by bit, and nothing else; `pbrk` and `pbrkb` break at the lowest active one bit of
ps1 below VL, wherever VSTART stands (R32).
R168, R365: the count, the lowest and the highest of the one bits of ps1 that are active below VL, whatever VSTART holds; VL where
there is none. -/
def Obligations.Predicates : Prop :=
  (∀ (s : State) (i : Instr) (op : POp) (a : PArgs) (g : Gov), s.hart.cond ≠ .vacant → PredForm s i op a g →
     (a.pd.toNat < 48 ∨ a.pd.toNat = 50) → s.absent [] (g.pg :: a.pd.toNat :: predReads op a) [] = none →
     let x := s.pred a.ps1.toNat
     let y := s.pred a.ps2.toNat
     let hit (e : Nat) : Prop := e < s.hart.vec.vl ∧ g.act.testBit e = true ∧ x.testBit e = true
     let gives (f : Nat → Bool) : Prop := ∃ t, exec i s = .next t ∧ Retired s t g.len ∧ Untouched [.vec] [] s t ∧ SameBytes Nowhere s t ∧
       t.hart.vec.vstart = 0 ∧ t.hart.vec.vl = s.hart.vec.vl ∧ t.hart.vec.regs = s.hart.vec.regs ∧ t.hart.vec.tags = s.hart.vec.tags ∧
       (a.pd.toNat ≠ 0 → PlacedBits s t a.pd.toNat s.hart.vec.vstart s.hart.vec.vl g.act f) ∧
       (∀ q < 51, q ≠ a.pd.toNat → t.pred q = s.pred q)
     (op = .pand → gives (fun e => x.testBit e && y.testBit e)) ∧
     (op = .por → gives (fun e => x.testBit e || y.testBit e)) ∧
     (op = .pxor → gives (fun e => x.testBit e != y.testBit e)) ∧
     (op = .pandn → gives (fun e => x.testBit e && !y.testBit e)) ∧
     (op = .pmov → gives (fun e => x.testBit e)) ∧
     (op = .pnot → gives (fun e => !x.testBit e)) ∧
     (op = .pset → gives (fun _ => true)) ∧
     (op = .pclr → gives (fun _ => false)) ∧
     (op = .pbrk ∨ op = .pbrkb → (∀ e, ¬ hit e) → gives (fun _ => true)) ∧
     (op = .pbrk → ∀ k, hit k → (∀ e < k, ¬ hit e) → gives (fun e => decide (e ≤ k))) ∧
     (op = .pbrkb → ∀ k, hit k → (∀ e < k, ¬ hit e) → gives (fun e => decide (e < k)))) ∧
  (∀ (s : State) (i : Instr) (op : COp) (a : CArgs) (g : Gov), s.hart.cond ≠ .vacant → CountForm s i op a g →
     s.absent [] [g.pg, a.ps1.toNat] [] = none →
     let vl := s.hart.vec.vl
     let one (e : Nat) : Prop := e < vl ∧ g.act.testBit e = true ∧ (s.pred a.ps1.toNat).testBit e = true
     ∃ n, Completes i s g.len [.vec] [a.rd] Nowhere (fun t =>
         t.getX a.rd = (if a.rd = 0#5 then 0 else BitVec.ofNat 64 n) ∧ t.hart.vec = { s.hart.vec with vstart := 0 }) ∧
       (op = .pcnt → n = ((List.range vl).filter (fun e => g.act.testBit e && (s.pred a.ps1.toNat).testBit e)).length) ∧
       (op = .pfirst → (one n ∧ ∀ e < n, ¬ one e) ∨ (n = vl ∧ ∀ e, ¬ one e)) ∧
       (op = .plast → (one n ∧ ∀ e, n < e → ¬ one e) ∨ (n = vl ∧ ∀ e, ¬ one e)))

/-! ### Vector memory -/

/-- R179 to R183, R188, R190: a load whose accesses all land reads each active element into vd by Place, and of memory it changes nothing;
with no active element from VSTART on it writes no element. -/
def Obligations.VectorLoads : Prop :=
  ∀ (s u : State) (i : Instr) (op : MOp) (a : VArgs) (g : Gov), s.hart.cond = .running → s.Inv → MemFormOf s i op a g →
    (memForm op).store = false → s.hart.eff.underPf = false → s.stopAfter = 0 → Calm s →
    s.takeStrips (s.readBindings (if (memForm op).stride = .indexed then [a.vs2] else [])) = .ok u →
    s.memChecks (if (memForm op).stride = .indexed then [a.vs2] else []) [a.vd] [g.pg] (s.memLegal (memForm op) a) = none →
    ((s.tagOf a.vd).tag = .e2m1 → s.hart.vec.vstart % 2 = 0) →
    (∀ e, Hit s g.act e → ∃ key, u.elemSpot (memForm op) a false e = .ok key) →
    ∃ t, exec i s = .next t ∧ Retired s t g.len ∧ Untouched [.vec, .tlb, .eng] [] s t ∧ SameBytes Nowhere s t ∧
      (s.hart.eng.bindings = [] → t.hart.eng = s.hart.eng) ∧ t.hart.vec.vstart = 0 ∧ t.hart.vec.vl = s.hart.vec.vl ∧ t.hart.vec.tags = s.hart.vec.tags ∧ t.hart.vec.preds = s.hart.vec.preds ∧
      (∀ q, q ≠ a.vd → t.image q = u.image q) ∧
      ((∀ e, ¬ Hit s g.act e) → t.image a.vd = u.image a.vd) ∧
      ∃ code, ((∃ e, Hit s g.act e) → Placed u t a.vd s.hart.vec.vstart s.hart.vec.vl g.act code) ∧
        ∀ e key, Hit s g.act e → u.elemSpot (memForm op) a false e = .ok key →
          code e = (let c := leNat (s.bytesAt s.dieOf key (s.tagOf a.vd).tag.memBytes)
            if (s.tagOf a.vd).tag = .e2m1 then c / 16 ^ (e % 2) % 16 else c)

/-- R181 to R183, R185, R231: a store whose accesses all land writes each active element that no higher one supersedes, and no other byte;
in replay an exact store compares and writes nothing. -/
def Obligations.VectorStores : Prop :=
  ∀ (s u : State) (i : Instr) (op : MOp) (a : VArgs) (g : Gov), s.hart.cond = .running → s.Inv → MemFormOf s i op a g →
    let f := memForm op
    f.store = true → s.hart.eff.underPf = false → s.stopAfter = 0 → Calm s →
    s.takeStrips (s.readBindings (a.vd :: if f.stride = .indexed then [a.vs2] else [])) = .ok u →
    s.memChecks (a.vd :: if f.stride = .indexed then [a.vs2] else []) [] [g.pg] (s.memLegal f a) = none →
    ((s.tagOf a.vd).tag = .e2m1 → s.hart.vec.vstart % 2 = 0) →
    let compare := f.exact && s.inReplay
    let n := (s.tagOf a.vd).tag.memBytes
    let last (e : Nat) : Prop := Hit s g.act e ∧ (f.stride ≠ .unit → ∀ d, e < d → Hit s g.act d → u.elemAddr f a d ≠ u.elemAddr f a e)
    (∀ e, last e → ∃ key, u.elemSpot f a compare e = .ok key) →
    ∃ t, exec i s = .next t ∧ Retired s t g.len ∧ Untouched [.vec, .eng, .tlb, .dies, .mem, .streams, .stale] [] s t ∧
      (s.hart.eng.bindings = [] → t.hart.eng = s.hart.eng) ∧ t.hart.vec = { u.hart.vec with vstart := 0 } ∧
      SameBytes (fun k => compare = false ∧ ∃ e key, last e ∧ u.elemSpot f a compare e = .ok key ∧ Span key n k) s t ∧
      (compare = true → t.mem = s.mem) ∧
      (compare = false → Settled s → ∀ e key, last e → u.elemSpot f a compare e = .ok key → (∀ j < n, Shown s (key + j)) →
        (∀ d key', last d → u.elemSpot f a compare d = .ok key' → d ≠ e → key + n ≤ key' ∨ key' + n ≤ key ∨
          ((s.tagOf a.vd).tag = .e2m1 ∧ key' = key ∧ d % 2 ≠ e % 2)) →
        (let c := leNat (t.bytesAt s.dieOf key n)
         if (s.tagOf a.vd).tag = .e2m1 then c / 16 ^ (e % 2) % 16 else c) = u.codeOf a.vd e)

/-- R186, R188, R189, R184, R119: a unit or strided load that faults at element k. Under `.tr`, with an active element before k, it takes no
fault: VL becomes k, and vd is what a load of VL = k leaves. Else it takes the fault with VSTART at k, or for e2m1 at k rounded down to even:
the active elements below k are read, the inactive ones passed by are zero under MZ (the model's reading, entry 17), the tail stays, and
above k an active element may have been read, but not under `.o`.
R181, R186: where an element's access lands: a misaligned element raises Misaligned, else the fault of its page; in replay a stored
code that differs raises ReplayDiverge (R185). -/
def Obligations.VectorFaults : Prop :=
  (∀ (s : State) (i : Instr) (op : MOp) (a : VArgs) (g : Gov) (k : Nat) (tr : Trap), s.hart.cond = .running → s.Inv →
     MemFormOf s i op a g →
     let f := memForm op
     let v := s.hart.vec
     let w := s.widthOf a.vd
     let nibble : Prop := (s.tagOf a.vd).tag = .e2m1
     let read (e key : Nat) : Nat :=
       let c := leNat (s.bytesAt s.dieOf key (s.tagOf a.vd).tag.memBytes)
       if (s.tagOf a.vd).tag = .e2m1 then c / 16 ^ (e % 2) % 16 else c
     let kept (t : State) (e : Nat) : Prop := codeAt (t.image a.vd) w e = codeAt (s.image a.vd) w e
     f.store = false → f.stride ≠ .indexed → Calm s →
     s.memChecks [] [a.vd] [g.pg] (s.memLegal f a) = none → (nibble → v.vstart % 2 = 0) →
     Hit s g.act k → s.elemSpot f a false k = .error tr → (∀ e < k, Hit s g.act e → ∃ key, s.elemSpot f a false e = .ok key) →
     (f.trim = true → s.hart.mat.m = false → (∃ e < k, Hit s g.act e) →
       ∃ t, exec i s = .next t ∧ Retired s t g.len ∧ Untouched [.vec, .tlb, .chain] [] s t ∧ SameBytes Nowhere s t ∧
         t.hart.vec.vl = k ∧ t.hart.vec.vstart = 0 ∧ t.hart.vec.preds = v.preds ∧ (∀ q, q ≠ a.vd → t.image q = s.image q) ∧
         (∃ code, Placed s t a.vd v.vstart k g.act code ∧ ∀ e key, Hit s g.act e → e < k → s.elemSpot f a false e = .ok key →
           code e = read e key) ∧
         (s.hart.chain.en = false → t.hart.chain = s.hart.chain) ∧
         (s.hart.chain.en = true → t.hart.chain = { s.hart.chain with pos := s.hart.chain.pos - BitVec.ofNat 63 (v.vl - k) })) ∧
     ((f.trim = false ∨ s.hart.mat.m = true ∨ ∀ e < k, ¬ Hit s g.act e) →
       ∃ t, exec i s = .next (t.deliver { tr with pm := 2 ^ k }) ∧ t.hart.vec.vstart = (if (s.tagOf a.vd).tag = .e2m1 then k / 2 * 2 else k) ∧
         t.hart.vec.vl = v.vl ∧ t.hart.vec.preds = v.preds ∧ t.hart.pc = s.hart.pc ∧ t.hart.retired = s.hart.retired ∧
         t.hart.eff = s.hart.eff ∧ Untouched [.vec, .tlb, .eff] [] s t ∧ SameBytes Nowhere s t ∧ (∀ q, q ≠ a.vd → t.image q = s.image q) ∧
         (∀ e key, Hit s g.act e → e < k → s.elemSpot f a false e = .ok key → codeAt (t.image a.vd) w e = read e key % 256 ^ w) ∧
         (∀ e, v.vstart ≤ e → e < k → g.act.testBit e = false → codeAt (t.image a.vd) w e = if v.mz then 0 else codeAt (s.image a.vd) w e) ∧
         kept t k ∧ (∀ e, e < v.vstart ∨ v.vl ≤ e → kept t e) ∧ ∀ e, k < e → kept t e ∨ (f.ordered = false ∧ Hit s g.act e ∧
           ∃ key, s.elemSpot f a false e = .ok key ∧ codeAt (t.image a.vd) w e = read e key % 256 ^ w))) ∧
  (∀ (s : State) (op : MOp) (a : VArgs) (compare : Bool) (e : Nat),
     let f := memForm op
     let va := s.elemAddr f a e
     let k : Acc := if f.store then .store else .load
     let word (acc : Nat) : Word := BitVec.ofNat 64 (acc * 2 ^ 62 + 2 ^ 61 + e % 2 ^ 48)
     (f.stride = .unit → (s.tagOf a.vd).tag ≠ .e2m1 → va = s.getX a.vs1 + BitVec.ofNat 64 (e * s.widthOf a.vd)) ∧
     (f.stride = .strided → va = s.getX a.vs1 + BitVec.ofNat 64 (e * (s.getX a.vs2).toNat)) ∧
     (va.toNat % (s.tagOf a.vd).tag.memBytes ≠ 0 → s.elemSpot f a compare e = .error ⟨0x0003, va, word (if f.store then 2 else 1), 0, false⟩) ∧
     (va.toNat % (s.tagOf a.vd).tag.memBytes = 0 → ∀ id, s.resolve s.vectorView k va = .error id →
       s.elemSpot f a compare e = .error ⟨id, va, word (if f.store then 2 else 1), 0, false⟩) ∧
     (va.toNat % (s.tagOf a.vd).tag.memBytes = 0 → ∀ key, s.resolve s.vectorView k va = .ok (.local key) →
       s.elemSpot f a compare e = if compare = true ∧ s.memCode a key e ≠ s.codeOf a.vd e then .error ⟨0x000B, va, word 3, 0, false⟩
         else .ok key))

/-- R182 to R186, R189, R181: a unit or strided store that faults at element k takes the fault with VSTART at k, or for e2m1 at k rounded down
to even. Every element below k that none supersedes is stored; above k one may have been, but not under `.o`; no other byte changes. An
e2m1 form that starts at an odd VSTART raises Misaligned there.
R187, R183, R184, R119: an indexed instruction that meets a fault performs every element that does not fault, or under `.o` those below
the lowest that does; it applies Place but for the elements of pf, which are exactly those not performed, and it raises the effect of the
lowest faulting one, to be resumed under pf. In a re-execution pf governs, pg is not read, and an element outside pf is neither accessed nor
written; one that meets no fault completes. -/
def Obligations.FaultingStores : Prop :=
  (∀ (s u : State) (i : Instr) (op : MOp) (a : VArgs) (g : Gov) (k : Nat) (tr : Trap), s.hart.cond = .running → s.Inv →
     MemFormOf s i op a g →
     let f := memForm op
     let v := s.hart.vec
     let regs : List Reg := if f.store then [a.vd] else []
     let nibble : Prop := (s.tagOf a.vd).tag = .e2m1
     let n := (s.tagOf a.vd).tag.memBytes
     let compare := f.exact && s.inReplay
     let live (e : Nat) : Prop := Hit s g.act e ∧ (f.stride ≠ .unit → ∀ d, e < d → Hit s g.act d → u.elemAddr f a d ≠ u.elemAddr f a e)
     let stored (e key : Nat) : Prop := live e ∧ e ≠ k ∧ (e < k ∨ f.ordered = false) ∧ u.elemSpot f a compare e = .ok key
     f.stride ≠ .indexed → Calm s → s.memChecks regs (if f.store then [] else [a.vd]) [g.pg] (s.memLegal f a) = none →
     s.takeStrips (s.readBindings regs) = .ok u →
     (nibble → v.vstart % 2 = 1 → (∃ e, Hit s g.act e) →
       exec i s = .next ((u.setVec { u.hart.vec with vstart := v.vstart - 1 }).deliver
         ⟨0x0003, u.elemAddr f a v.vstart, BitVec.ofNat 64 ((if f.store then 2 else 1) * 2 ^ 62 + 2 ^ 61 + v.vstart % 2 ^ 48), 2 ^ v.vstart, false⟩)) ∧
     (f.store = true → (nibble → v.vstart % 2 = 0) → live k → u.elemSpot f a compare k = .error tr →
       (∀ e < k, live e → ∃ key, u.elemSpot f a compare e = .ok key) →
       ∃ t, exec i s = .next (t.deliver { tr with pm := 2 ^ k }) ∧
         t.hart.vec = { u.hart.vec with vstart := if (s.tagOf a.vd).tag = .e2m1 then k / 2 * 2 else k } ∧
         t.hart.pc = s.hart.pc ∧ t.hart.retired = s.hart.retired ∧ t.hart.eff = s.hart.eff ∧
         Untouched [.vec, .eng, .tlb, .eff, .dies, .mem, .streams, .stale] [] s t ∧
         SameBytes (fun j => compare = false ∧ ∃ e key, stored e key ∧ Span key n j) s t ∧
         (compare = false → Settled s → ∀ e key, stored e key → e < k → (∀ j < n, Shown s (key + j)) →
           (∀ d key', stored d key' → d ≠ e → key + n ≤ key' ∨ key' + n ≤ key ∨
             ((s.tagOf a.vd).tag = .e2m1 ∧ key' = key ∧ d % 2 ≠ e % 2)) →
           (let c := leNat (t.bytesAt s.dieOf key n)
            if (s.tagOf a.vd).tag = .e2m1 then c / 16 ^ (e % 2) % 16 else c) = u.codeOf a.vd e))) ∧
  (∀ (s u : State) (i : Instr) (op : MOp) (a : VArgs) (g : Gov), s.hart.cond = .running → s.Inv → MemFormOf s i op a g →
     let f := memForm op
     let v := s.hart.vec
     let again := s.hart.eff.underPf
     let act := if again then v.pf else g.act
     let w := s.widthOf a.vd
     let n := (s.tagOf a.vd).tag.memBytes
     let compare := f.exact && s.inReplay
     let regs : List Reg := if f.store then [a.vd, a.vs2] else [a.vs2]
     let live (e : Nat) : Prop := Hit s act e ∧ (f.store = true → ∀ d, e < d → Hit s act d → u.elemAddr f a d ≠ u.elemAddr f a e)
     let fails (e : Nat) : Prop := live e ∧ ∃ tr, u.elemSpot f a compare e = .error tr
     let done (e : Nat) : Prop := live e ∧ ¬ fails e ∧ (f.ordered = true → ∀ d < e, ¬ fails d)
     let world : List Part := if f.store then [.vec, .eng, .tlb, .dies, .mem, .streams, .stale] else [.vec, .eng, .tlb]
     let acts (t : State) : Prop :=
       t.hart.vec.vstart = 0 ∧ t.hart.vec.vl = v.vl ∧ t.hart.vec.preds = v.preds ∧ t.hart.vec.tags = v.tags ∧
       (f.store = true → t.hart.vec.regs = u.hart.vec.regs) ∧
       SameBytes (fun j => f.store = true ∧ compare = false ∧ ∃ e key, done e ∧ u.elemSpot f a compare e = .ok key ∧ Span key n j) s t ∧
       (f.store = true → compare = false → Settled s → ∀ e key, done e → u.elemSpot f a compare e = .ok key →
         (∀ j < n, Shown s (key + j)) →
         (∀ d key', done d → u.elemSpot f a compare d = .ok key' → d ≠ e → key + n ≤ key' ∨ key' + n ≤ key) →
         leNat (t.bytesAt s.dieOf key n) = u.codeOf a.vd e) ∧
       (f.store = false → (∀ q, q ≠ a.vd → t.image q = u.image q) ∧
         (∀ e key, done e → u.elemSpot f a compare e = .ok key → codeAt (t.image a.vd) w e = leNat (s.bytesAt s.dieOf key n)) ∧
         ∀ e, ¬ done e → codeAt (t.image a.vd) w e =
           if again = false ∧ ((v.vstart ≤ e ∧ e < v.vl ∧ act.testBit e = false ∧ v.mz = true) ∨ (v.vl ≤ e ∧ v.ta = true)) then 0
           else codeAt (u.image a.vd) w e)
     f.stride = .indexed → s.stopAfter = 0 → Calm s →
     s.memChecks regs (if f.store then [] else [a.vd]) [if again then 48 else g.pg] (s.memLegal f a) = none →
     s.takeStrips (s.readBindings regs) = .ok u →
     (∀ k tr, fails k → (∀ d < k, ¬ fails d) → u.elemSpot f a compare k = .error tr →
       ∃ t, exec i s = .next (t.deliver { tr with pm := t.hart.vec.pf, underPf := true }) ∧
         (∀ e, t.hart.vec.pf.testBit e = true ↔ live e ∧ ¬ done e) ∧
         t.hart.pc = s.hart.pc ∧ t.hart.retired = s.hart.retired ∧ t.hart.eff = s.hart.eff ∧ Untouched (.eff :: world) [] s t ∧ acts t) ∧
     ((∀ e, ¬ fails e) → (∃ e, Hit s act e) →
       ∃ t, exec i s = .next t ∧ Retired s t g.len ∧ Untouched world [] s t ∧ t.hart.vec.pf = v.pf ∧ acts t))

/-! ### Spilling, filling, evicting -/

/-- R324, R325, R189: a spill whose units all land writes the register's image and clears its dirty bit; a fill reads it back, and the
register is present and clean. That a spill or fill of a vector register completes whatever VL is, without the check of VL against the register's
length, is entry 17 (DEDUCED); a scopy that still waits to start counts among those that report into a predicate.
R326, R327: the supervisor's evictions drop what they name, bound registers apart; pf takes the predicate named. That `pfset` and the
evictions leave VSTART as it is is entry 41 (DESIGN CHOICE). -/
def Obligations.SpillFillEvict : Prop :=
  (∀ (s : State) (reg : BitVec 6) (rs1 : Reg), s.hart.cond ≠ .vacant → s.Inv → Calm s → s.hart.vec.vstart = 0 → (s.getX rs1).toNat % 64 = 0 →
     let base := s.getX rs1
     let r : Reg := reg.setWidth 5
     let p := reg.toNat
     let n := 64 * s.lanes
     let np := 8 * s.lanes
     let lands (k : Acc) (n : Nat) : Prop := ∀ u < n, ∃ key, s.unitSpot k base u = .ok key
     let unit (k : Acc) (n : Nat) : Nat → Prop := fun j => ∃ u key, u < n ∧ s.unitSpot k base u = .ok key ∧ Span key 64 j
     let apart (k : Acc) (n : Nat) : Prop := ∀ u v key key', u < v → v < n → s.unitSpot k base u = .ok key → s.unitSpot k base v = .ok key' →
       key + 64 ≤ key' ∨ key' + 64 ≤ key
     (s.bindingOf r = none → s.hart.vec.present.getLsbD r.toNat = true → lands .store n →
       ∃ t, exec (.vspill reg rs1) s = .next t ∧ Retired s t 4 ∧ Untouched [.vec, .tlb, .dies, .mem, .streams, .stale] [] s t ∧
         SameBytes (unit .store n) s t ∧
         t.hart.vec = { s.hart.vec with dirty := s.hart.vec.dirty &&& ~~~(BitVec.ofNat 32 (2 ^ r.toNat)), vstart := 0 } ∧
         (Settled s → apart .store n → ∀ u key, u < n → s.unitSpot .store base u = .ok key → (∀ j < 64, Shown s (key + j)) →
           t.bytesAt s.dieOf key 64 = Sparse.getList 0 (s.image r) (64 * u) 64)) ∧
     (s.bindingOf r = none → lands .load n →
       ∃ t, exec (.vfill reg rs1) s = .next t ∧ Retired s t 4 ∧ Untouched [.vec, .tlb] [] s t ∧ SameBytes Nowhere s t ∧
         t.hart.vec.present = s.hart.vec.present ||| BitVec.ofNat 32 (2 ^ r.toNat) ∧
         t.hart.vec.dirty = s.hart.vec.dirty &&& ~~~(BitVec.ofNat 32 (2 ^ r.toNat)) ∧ t.hart.vec.preds = s.hart.vec.preds ∧
         (∀ q, q ≠ r → t.image q = s.image q) ∧
         (∀ u key, u < n → s.unitSpot .load base u = .ok key →
           Sparse.getList 0 (t.image r) (64 * u) 64 = s.bytesAt s.dieOf key 64)) ∧
     (s.absent [] [p] [] = none → s.reportsInto (fun n => n == p) = false → lands .store np →
       ∃ t, exec (.vspillP reg rs1) s = .next t ∧ Retired s t 4 ∧ Untouched [.vec, .tlb, .dies, .mem, .streams, .stale] [] s t ∧
         SameBytes (unit .store np) s t ∧ t.hart.vec.preds = s.hart.vec.preds ∧
         t.hart.vec.pdirty = (if p = 48 then s.hart.vec.pdirty else s.hart.vec.pdirty &&& ~~~(BitVec.ofNat 51 (2 ^ p))) ∧
         (Settled s → apart .store np → ∀ u key, u < np → s.unitSpot .store base u = .ok key → (∀ j < 64, Shown s (key + j)) →
           t.bytesAt s.dieOf key 64 = natLe 64 (s.pred p / 2 ^ (512 * u)))) ∧
     ((1 ≤ p ∧ p < 48 ∨ p = 50) → lands .load np →
       ∃ t, exec (.vfillP reg rs1) s = .next t ∧ Retired s t 4 ∧ Untouched [.vec, .tlb] [] s t ∧ SameBytes Nowhere s t ∧
         t.hart.vec.regs = s.hart.vec.regs ∧ t.hart.vec.ppresent = s.hart.vec.ppresent ||| BitVec.ofNat 51 (2 ^ p) ∧
         t.hart.vec.pdirty = s.hart.vec.pdirty &&& ~~~(BitVec.ofNat 51 (2 ^ p)) ∧ (∀ q < 51, q ≠ p → t.pred q = s.pred q) ∧
         (∀ u key, u < np → s.unitSpot .load base u = .ok key →
           t.pred p / 2 ^ (512 * u) % 2 ^ 512 = leNat (s.bytesAt s.dieOf key 64)))) ∧
  (∀ (s : State) (reg : BitVec 6) (rs1 : Reg), s.hart.cond ≠ .vacant →
     let x := s.getX rs1
     let v := s.hart.vec
     (s.absent [] [reg.toNat] [] = none → Completes (.pfset reg) s 4 [.vec] [] Nowhere (fun t =>
       t.hart.vec = { v with pf := s.pred reg.toNat })) ∧
     (s.hart.priv.sup = false → Traps (.evictV rs1) s s.privileged ∧ Traps (.evictP rs1) s s.privileged ∧
       Traps (.evictA rs1) s s.privileged) ∧
     (s.hart.priv.sup = true →
       Completes (.evictV rs1) s 4 [.vec] [] Nowhere (fun t => (∀ r : Reg,
         t.hart.vec.present.getLsbD r.toNat = (v.present.getLsbD r.toNat && !(x.getLsbD r.toNat && (s.bindingOf r).isNone)) ∧
         t.hart.vec.dirty.getLsbD r.toNat = (v.dirty.getLsbD r.toNat && !(x.getLsbD r.toNat && (s.bindingOf r).isNone))) ∧
         t.hart.vec.regs = v.regs ∧ t.hart.vec.preds = v.preds) ∧
       (s.reportsInto (fun n => (x.setWidth 51 &&& (0x4FFFFFFFFFFFE : BitVec 51)).getLsbD n) = false →
         Completes (.evictP rs1) s 4 [.vec] [] Nowhere (fun t => (∀ p < 51, p ≠ 0 → p ≠ 48 → p ≠ 49 →
           t.hart.vec.ppresent.getLsbD p = (v.ppresent.getLsbD p && !x.getLsbD p) ∧
           t.hart.vec.pdirty.getLsbD p = (v.pdirty.getLsbD p && !x.getLsbD p)) ∧ t.hart.vec.regs = v.regs ∧ t.hart.vec.preds = v.preds)) ∧
       Completes (.evictA rs1) s 4 [.mat] [] Nowhere (fun t => ∀ k < 2,
         t.hart.mat.present.getLsbD k = (s.hart.mat.present.getLsbD k && !x.getLsbD k) ∧
         t.hart.mat.dirty.getLsbD k = (s.hart.mat.dirty.getLsbD k && !x.getLsbD k)))
)

/-! ### Matrix instructions -/

/-- R206 to R209, R203, R221: entering matrix mode sets the shape and VL, and clears the tiles unless they are kept; leaving it clears
them; `acczero` and `anchor` act on the tile they name. -/
def Obligations.MatrixModes : Prop :=
  ∀ (s : State) (rows cols : BitVec 8) (rs1 : Reg) (tile both isImm : Bool) (imm : BitVec 8), s.hart.cond ≠ .vacant →
    let r := if rs1 = 0#5 then rows.toNat + 1 else (s.getX rs1).toNat
    let m := s.hart.mat
    let clear (x : MatState) (tile : Bool) : Prop := x.acc tile = [] ∧ x.nz tile = false ∧ x.aovf.getLsbD tile.toNat = false ∧
      x.present.getLsbD tile.toNat = true ∧ x.dirty.getLsbD tile.toNat = true
    let x := s.getX rs1
    let v : BitVec 8 := if isImm then imm else x.setWidth 8
    (r = 0 ∨ 8 * s.lanes < r → Traps (.mstart rows cols rs1) s s.illegal ∧ Traps (.mstartKeep rows cols rs1) s s.illegal) ∧
    (0 < r → r ≤ 8 * s.lanes → Completes (.mstart rows cols rs1) s 4 [.vec, .mat] [] Nowhere (fun t =>
      t.hart.mat.m = true ∧ t.hart.mat.rows = r ∧ t.hart.mat.cols = cols.toNat + 1 ∧ t.hart.mat.anchor0 = m.anchor0 ∧
      t.hart.mat.anchor1 = m.anchor1 ∧ clear t.hart.mat false ∧ clear t.hart.mat true ∧
      t.hart.vec = { s.hart.vec with vl := cols.toNat + 1, vstart := 0 })) ∧
    (0 < r → r ≤ 8 * s.lanes → m.present = 3 → Completes (.mstartKeep rows cols rs1) s 4 [.vec, .mat] [] Nowhere (fun t =>
      t.hart.mat = { m with m := true, rows := r, cols := cols.toNat + 1 } ∧
      t.hart.vec = { s.hart.vec with vl := cols.toNat + 1, vstart := 0 })) ∧
    (m.m = false → Traps .mstop s s.illegal ∧ Traps (.acczero tile both) s s.illegal ∧ Traps (.anchor tile isImm imm rs1) s s.illegal) ∧
    (m.m = true → Completes .mstop s 4 [.mat] [] Nowhere (fun t =>
        t.hart.mat.m = false ∧ clear t.hart.mat false ∧ clear t.hart.mat true ∧ t.hart.mat.anchor0 = m.anchor0 ∧
        t.hart.mat.anchor1 = m.anchor1) ∧
      Completes (.acczero tile both) s 8 [.mat] [] Nowhere (fun t =>
        (∀ k, (both = true ∨ k = tile) → clear t.hart.mat k) ∧ (both = false → t.hart.mat.acc (!tile) = m.acc (!tile) ∧
          t.hart.mat.nz (!tile) = m.nz (!tile)) ∧ t.hart.mat.m = true ∧ t.hart.mat.rows = m.rows ∧ t.hart.mat.cols = m.cols) ∧
      (((isImm = true ∨ (-126 ≤ x.toInt ∧ x.toInt ≤ 127)) ∧ v ≠ 0x80 ∧ v ≠ 0x81 ∧ (v = m.anchor tile ∨ m.nz tile = false)) →
        m.present.getLsbD tile.toNat = true → Completes (.anchor tile isImm imm rs1) s 8 [.mat] [] Nowhere (fun t =>
          t.hart.mat.anchor tile = v ∧ t.hart.mat.anchor (!tile) = m.anchor (!tile) ∧
          (∀ k, t.hart.mat.acc k = m.acc k ∧ t.hart.mat.nz k = m.nz k))) ∧
      (¬((isImm = true ∨ (-126 ≤ x.toInt ∧ x.toInt ≤ 127)) ∧ v ≠ 0x80 ∧ v ≠ 0x81 ∧ (v = m.anchor tile ∨ m.nz tile = false)) →
        Traps (.anchor tile isImm imm rs1) s s.illegal))

/-- R210 to R213: `opa` adds to each element that its row and column predicates select the products of its row and column, each rounded to
the anchor, modulo 2^96; `.d` replaces the element, and no other element changes. -/
def Obligations.OuterProduct : Prop :=
  ∀ (s u : State) (a : OpaArgs) (k : Nat), s.hart.cond ≠ .vacant → s.Inv →
    let m := s.hart.mat
    let srcs := s.withSidecars [a.vs1, a.vs2]
    m.m = true → (s.tagOf a.vs1).tag.rank = some k → (s.tagOf a.vs2).tag.rank = some k → (s.tagOf a.vs1).sideOk = true →
    (s.tagOf a.vs2).sideOk = true → s.sidecarsValid [a.vs1, a.vs2] = true → s.vlFits srcs = true →
    s.stripsFit (s.withSidecars [a.vs1]) (k * m.rows) = true → s.stripsFit (s.withSidecars [a.vs2]) (k * m.cols) = true →
    s.absent srcs [a.prow.toNat, a.pcol.toNat] [a.tile] = none → s.takeStrips (s.readBindings srcs) = .ok u →
    let term (i j q : Nat) : Int × Bool :=
      let p := (u.elem a.vs1 (modIndex a.mod1 a.sz1 (k * m.rows) (k * i + q))).mul (u.elem a.vs2 (modIndex a.mod2 a.sz2 (k * m.cols) (k * j + q)))
      roundToAnchor (if a.neg then p.neg else p) (m.anchor a.tile).toInt
    let sum (i j : Nat) : Int := ((List.range k).map (fun q => (term i j q).1)).foldl (· + ·) 0
    ∃ t, exec (.opa a) s = .next t ∧ Retired s t 8 ∧ Untouched [.vec, .mat, .eng] [] s t ∧ SameBytes Nowhere s t ∧
      t.hart.vec = u.hart.vec ∧ t.hart.mat.m = true ∧ t.hart.mat.rows = m.rows ∧ t.hart.mat.cols = m.cols ∧
      t.hart.mat.nz a.tile = true ∧ t.hart.mat.acc (!a.tile) = m.acc (!a.tile) ∧
      (∀ i j, j < 256 → t.hart.mat.x a.tile i j =
        if i < m.rows ∧ j < m.cols ∧ (s.pred a.prow.toNat).testBit i ∧ (s.pred a.pcol.toNat).testBit j then
          wrap96 (if a.dis then sum i j else m.x a.tile i j + sum i j)
        else m.x a.tile i j) ∧
      (t.hart.mat.aovf.getLsbD a.tile.toNat = true ↔ m.aovf.getLsbD a.tile.toNat = true ∨
        ∃ i j q, i < m.rows ∧ j < m.cols ∧ (s.pred a.prow.toNat).testBit i ∧ (s.pred a.pcol.toNat).testBit j ∧ q < k ∧ (term i j q).2 = true)

/-- R214 to R218: `resolve` rounds a row or a column of a tile into vd, or stores its 96-bit values sign-extended; `acmp` writes the truth
of its comparison with a register or zero. Neither changes the tile.
R219, R220, R69: with every row landing, storing a tile writes each row's image where the row lands, and no other byte; the raw image is
two words for each element whose sum is X modulo 2^96, and the fixed image X itself; loading a raw image makes X that sum. How a raw image
divides X is a free value (entry 7). -/
def Obligations.TileReadsAndMemory : Prop :=
  (∀ (s u : State) (a : ResolveArgs) (b : AcmpArgs), s.hart.cond ≠ .vacant → s.Inv → s.hart.mat.m = true →
     let m := s.hart.mat
     let line (tile col : Bool) (i e : Nat) : Int := if col then m.x tile e i else m.x tile i e
     let value (tile col : Bool) (i e : Nat) : Value := fxValue (line tile col i e) (m.anchor tile).toInt
     let len (col : Bool) : Nat := if col then m.rows else m.cols
     let index (isImm : Bool) (idx : BitVec 8) (rs1 : Reg) : Nat := if isImm then idx.toNat else (s.getX rs1).toNat
     let ia := index a.isImm a.idx a.rs1
     let ib := index b.isImm b.idx b.rs1
     let act := s.pred a.pg.toNat
     let srcs := s.withSidecars (if b.zero then [] else [b.vs1])
     (ia < (if a.col then m.cols else m.rows) → s.writable (s.withSidecars [a.vd]) = true → s.vlFits (s.withSidecars [a.vd]) = true →
       s.absent (s.withSidecars [a.vd]) [a.pg.toNat] [a.tile] = none →
       (a.fx = true → (s.tagOf a.vd).tag = .fx96 → Completes (.resolve a) s 8 [.vec] [] Nowhere (fun t =>
         t.hart.vec.vstart = 0 ∧ t.hart.vec.vl = s.hart.vec.vl ∧
         Placed s t a.vd 0 (len a.col) act (fun e => wrapInt 128 (line a.tile a.col ia e)) ∧ OthersKept s t a.vd)) ∧
       (a.fx = false → (s.tagOf a.vd).s = false → (s.tagOf a.vd).tag ∈ [Tag.fp32, .bf16, .int32] →
         Completes (.resolve a) s 8 [.vec, .fp] [] Nowhere (fun t => t.hart.vec.vstart = 0 ∧ t.hart.vec.vl = s.hart.vec.vl ∧
           Rounds s t a.vd 0 (len a.col) act (fun e =>
             (s.rounded a.vd (modeOf s.hart.fp.frm a.rm) a.sat e (value a.tile a.col ia e, 0)).2)))) ∧
     (ib < (if b.col then m.cols else m.rows) → (b.zero = false → (s.tagOf b.vs1).tag ≠ .fx96) →
       s.sidecarsValid (if b.zero then [] else [b.vs1]) = true → s.vlFits srcs = true → s.stripsFit srcs (len b.col) = true →
       s.absent srcs [b.pg.toNat, b.pd.toNat] [b.tile] = none → s.takeStrips (s.readBindings srcs) = .ok u →
       (b.pd.toNat < 48 ∨ b.pd.toNat = 50) →
       let x (e : Nat) : Value := value b.tile b.col ib e
       let y (e : Nat) : Value := if b.zero then .zero false else u.elem b.vs1 e
       let nan (e : Nat) : Bool := (y e).isNan
       let c (e : Nat) : Ordering := (x e).cmp (y e)
       ∃ t, exec (.acmp b) s = .next t ∧ Retired s t 8 ∧ Untouched [.vec, .fp, .eng] [] s t ∧ SameBytes Nowhere s t ∧
         t.hart.vec.vstart = 0 ∧ t.hart.vec.regs = u.hart.vec.regs ∧
         (b.pd.toNat ≠ 0 → b.pd.toNat ≠ 50 → PlacedBits u t b.pd.toNat 0 (len b.col) (s.pred b.pg.toNat) (fun e =>
           match b.cc.toNat with
           | 0 => !nan e && c e == .eq
           | 1 => nan e || c e != .eq
           | 2 => !nan e && c e == .lt
           | 3 => !nan e && c e != .gt
           | 4 => !nan e && c e == .gt
           | _ => !nan e && c e != .lt)))) ∧
  (∀ (s : State) (tile : Bool) (rs1 : Reg), s.hart.cond ≠ .vacant → s.Inv → s.hart.mat.m = true → s.stopAfter = 0 → Calm s →
     s.hart.vec.vstart = 0 → (s.getX rs1).toNat % 16 = 0 →
     let base := s.getX rs1
     let rows := 8 * s.lanes
     let lands (k : Acc) (b : Nat) : Prop := ∀ i < rows, ∃ l, s.rowSpots k base b i = .ok l
     let row (k : Acc) (b : Nat) : Nat → Prop := fun j => ∃ i l p, i < rows ∧ s.rowSpots k base b i = .ok l ∧ p ∈ l ∧ Span p.1 p.2 j
     let apart (b : Nat) : Prop := ∀ (i : Nat) (l : List (Nat × Nat)) (k : Nat) (p : Nat × Nat) (i' : Nat) (l' : List (Nat × Nat)) (k' : Nat) (p' : Nat × Nat),
       i < rows → i' < rows → s.rowSpots .store base b i = .ok l → l[k]? = some p →
       s.rowSpots .store base b i' = .ok l' → l'[k']? = some p' → (i, k) ≠ (i', k') → p.1 + p.2 ≤ p'.1 ∨ p'.1 + p'.2 ≤ p.1
     let stores (i : Instr) (fx : Bool) (b : Nat) : Prop := lands .store b → s.hart.mat.present.getLsbD tile.toNat = true →
       ∃ t, exec i s = .next t ∧ Retired s t 8 ∧ Untouched [.vec, .tlb, .dies, .mem, .streams, .stale] [] s t ∧
         SameBytes (row .store b) s t ∧ t.hart.vec = { s.hart.vec with vstart := 0 } ∧
         (Settled s → apart b → ∀ i l, i < rows → s.rowSpots .store base b i = .ok l → (∀ j, row .store b j → Shown s j) →
           l.flatMap (fun p => t.bytesAt s.dieOf p.1 p.2) = s.rowImage tile fx i)
     stores (.accstRaw tile rs1) false 24 ∧ stores (.accstFx tile rs1) true 12 ∧
     (∀ i j, j < 256 → -2 ^ 95 ≤ s.hart.mat.x tile i j → s.hart.mat.x tile i j < 2 ^ 95 →
       rawX (s.rowImage tile false i) j = s.hart.mat.x tile i j ∧
       signed 96 (leNat (((s.rowImage tile true i).drop (12 * j)).take 12)) = s.hart.mat.x tile i j) ∧
     (lands .load 24 → ∃ t, exec (.accldRaw tile rs1) s = .next t ∧ Retired s t 8 ∧ Untouched [.vec, .mat, .tlb] [] s t ∧
       SameBytes Nowhere s t ∧ t.hart.vec = { s.hart.vec with vstart := 0 } ∧ t.hart.mat.present.getLsbD tile.toNat = true ∧
       t.hart.mat.nz tile = true ∧ t.hart.mat.acc (!tile) = s.hart.mat.acc (!tile) ∧
       (∀ i l, i < rows → s.rowSpots .load base 24 i = .ok l → ∀ j < 256,
         t.hart.mat.x tile i j = rawX (l.flatMap (fun p => s.bytesAt s.dieOf p.1 p.2)) j))
)

/-! ### Lanes, harts and gangs -/

/-- R117, R120, R121, R126: `setvl` grants the least of the length asked for, what the lanes hold and the cap, and under chaining what the
source has published, and then it acquires; a pending reclaim is taken first. It waits only where its source has published nothing more.
R122: `setvl.g` waits until every live hart of its gang has issued and has its own length, and then gives each of them the least of
those lengths, which one of them attains; a gang of one goes on at once. That it waits while a member has a Preempt pending is the model's
reading (entry 26, DEDUCED).
R122, R127, R129, R121: the steps that end a wait. When every live hart of a gang has issued, each receives the least of their lengths,
which one of them attains; a `setvl` that waits on its chain source goes on, and acquires, as soon as the source has published or ended,
and not before. What a rank has published is its HWM, or what it left when it ended. That the gang waits over a member with a pending Preempt
is the model's reading (entry 26, DEDUCED). -/
def Obligations.LengthGrants : Prop :=
  (∀ (s : State) (rd rs1 : Reg) (wc : BitVec 3) (cap : Bool) (rs2 : Reg), s.hart.cond ≠ .vacant →
     let i := Instr.setvl rd rs1 wc cap rs2
     let avl := (s.getX rs1).toNat
     let most := if cap then (s.getX rs2).toNat else 2 ^ 64 - 1
     let own := min avl (min (4096 * (s.hart.priv.reclaim.getD s.hart.id.lanes) / 2 ^ wc.toNat) most)
     let src := s.published s.hart.id.gangKey s.hart.chain.src.toNat
     let ch := src.1 - s.hart.chain.pos.toNat
     let grants (vl : Nat) : Prop := ∃ t, exec i s = .next t ∧ Retired s t 4 ∧ Untouched [.id, .vec, .chain, .priv, .order] [rd] s t ∧
       SameBytes Nowhere s t ∧ t.getX rd = (if rd = 0#5 then 0 else BitVec.ofNat 64 vl) ∧ t.hart.vec.vl = vl ∧ t.hart.vec.vstart = 0 ∧
       t.hart.vec.tags = s.hart.vec.tags ∧
       t.hart.order = { s.hart.order with early := if s.hart.chain.en then [] else s.hart.order.early } ∧
       t.hart.chain = (if s.hart.chain.en then { s.hart.chain with pos := s.hart.chain.pos + BitVec.ofNat 63 vl } else s.hart.chain) ∧
       (s.hart.priv.reclaim = none → t.hart.id = s.hart.id ∧ t.hart.priv = s.hart.priv ∧
         t.hart.vec = { s.hart.vec with vl := vl, vstart := 0 }) ∧
       (∀ n, s.hart.priv.reclaim = some n → t.hart.id = { s.hart.id with lanes := n } ∧ t.hart.priv = { s.hart.priv with reclaim := none } ∧
         ∀ (r : Reg) (k : Nat), Sparse.get 0 (t.image r) k = if k < 4096 * n then Sparse.get 0 (s.image r) k else 0)
     (s.hart.mat.m = true → Traps i s s.illegal) ∧
     (s.hart.mat.m = false → s.hart.chain.en = false → grants own) ∧
     (s.hart.mat.m = false → s.hart.chain.en = true → ch = 0 → src.2 = false → 0 < avl → 0 < most →
       ∃ r, exec i s = .next { s with hart := { s.hart with cond := .waiting (.setvl r) } }) ∧
     (s.hart.mat.m = false → s.hart.chain.en = true → ¬(ch = 0 ∧ src.2 = false ∧ 0 < avl ∧ 0 < most) → grants (min own ch))) ∧
  (∀ (s : State) (rd rs1 : Reg) (wc : BitVec 3) (cap : Bool) (rs2 : Reg) (g : Gang), s.hart.cond ≠ .vacant → s.gang = some g →
     let i := Instr.setvlG rd rs1 wc cap rs2
     let key := s.hart.id.gangKey
     let r : LengthRequest := ⟨s.hart.id.rank, rd, 2 ^ wc.toNat, (s.getX rs1).toNat, if cap then (s.getX rs2).toNat else 2 ^ 64 - 1⟩
     let issued := r :: g.issued.filter (fun q => q.rank != r.rank)
     let member (o : Hart) : Prop := o.cond ≠ .vacant ∧ o.id.gangKey = key
     let request (o : Hart) : Option LengthRequest := issued.find? (fun q => q.rank == o.id.rank)
     let length (o : Hart) : Option Nat := (request o).bind (s.lengthFor o)
     let ready (o : Hart) : Prop := o.preemptible = false ∧ ∃ v, length o = some v ∧ v < 2 ^ 64
     let granted (o p : Hart) (vl : Nat) : Prop := p.cond = .running ∧ p.vec.vl = vl ∧ p.vec.vstart = 0 ∧ p.retired = o.retired + 1 ∧
       ∃ q, request o = some q ∧ (q.rd ≠ 0#5 → p.x[q.rd.toNat]? = some (BitVec.ofNat 64 vl))
     (s.hart.mat.m = true → Traps i s s.illegal) ∧
     (s.hart.mat.m = false → s.hart.eff.ppend = false → (∃ v, s.lengthFor s.hart r = some v) → (∀ o ∈ s.others, member o → ready o) →
       ∃ t vl, exec i s = .next t ∧ Retired s t 4 ∧ Untouched [.id, .vec, .chain, .priv, .others, .gangs] [rd] s t ∧ SameBytes Nowhere s t ∧
         t.getX rd = (if rd = 0#5 then 0 else BitVec.ofNat 64 vl) ∧ t.hart.vec.vl = vl ∧ t.hart.vec.vstart = 0 ∧
         t.gang = some { g with issued := [] } ∧ (∀ k, k ≠ key → t.gangs.find? (fun o => o.key == k) = s.gangs.find? (fun o => o.key == k)) ∧
         (∃ o, (o = s.hart ∨ o ∈ s.others ∧ member o) ∧ length o = some vl) ∧
         (∀ o v, (o = s.hart ∨ o ∈ s.others ∧ member o) → length o = some v → vl ≤ v) ∧
         t.others.length = s.others.length ∧ ∀ (n : Nat) (o p : Hart), s.others[n]? = some o → t.others[n]? = some p → (member o → granted o p vl) ∧
           (¬ member o → p = o)) ∧
     (s.hart.mat.m = false → (s.lengthFor s.hart r = none ∨ ∃ o ∈ s.others, member o ∧ (o.preemptible = true ∨ length o = none)) →
       ∃ t, exec i s = .next t ∧ t.hart = { s.hart with cond := .waiting .setvlG } ∧ t.others = s.others ∧ t.mem = s.mem ∧
         t.gang = some { g with issued := issued })) ∧
  (∀ (s : State),
     (∀ (h : Hart) (g : Gang), s.findHart s.args.hart = some h → s.gangs.find? (fun o => o.key == h.id.gangKey) = some g → g.issued ≠ [] →
       let member (o : Hart) : Prop := o.cond ≠ .vacant ∧ o.id.gangKey = h.id.gangKey
       let request (o : Hart) : Option LengthRequest := g.issued.find? (fun q => q.rank == o.id.rank)
       let length (o : Hart) : Option Nat := (request o).bind (s.lengthFor o)
       let granted (o p : Hart) (vl : Nat) : Prop := p.cond = .running ∧ p.vec.vl = vl ∧ p.vec.vstart = 0 ∧ p.retired = o.retired + 1 ∧
         ∃ q, request o = some q ∧ (q.rd ≠ 0#5 → p.x[q.rd.toNat]? = some (BitVec.ofNat 64 vl))
       (∀ o ∈ s.hart :: s.others, member o → o.preemptible = false ∧ ∃ v, length o = some v ∧ v < 2 ^ 64) →
       ∃ t vl, exec .gangLengthGrant s = .next t ∧ t.mem = s.mem ∧ t.dies = s.dies ∧ t.jobs = s.jobs ∧ t.streams = s.streams ∧
         t.transfers = s.transfers ∧ t.module = s.module ∧
         (t.gangs.find? (fun o => o.key == h.id.gangKey)) = some { g with issued := [] } ∧
         (∃ o ∈ s.hart :: s.others, member o ∧ length o = some vl) ∧ (∀ o ∈ s.hart :: s.others, member o → ∀ v, length o = some v → vl ≤ v) ∧
         t.others.length = s.others.length ∧ ∀ (n : Nat) (o p : Hart), (s.hart :: s.others)[n]? = some o → (t.hart :: t.others)[n]? = some p →
           (member o → granted o p vl) ∧ (¬ member o → p = o)) ∧
     (∀ (f : State) (r : LengthRequest), s.focus s.args.hart = some f → f.hart.cond = .waiting (.setvl r) → f.hart.eff.ppend = false → f.exposed = false →
       let c := f.hart.chain
       let own := min r.avl (min (4096 * (f.hart.priv.reclaim.getD f.hart.id.lanes) / r.width) r.cap)
       let src := f.published f.hart.id.gangKey c.src.toNat
       let ch := src.1 - c.pos.toNat
       let waits : Prop := c.en = true ∧ ch = 0 ∧ src.2 = false ∧ 0 < r.avl ∧ 0 < r.cap
       let vl := if c.en then min own ch else own
       (waits → exec .chainGrant s = .next f) ∧
       (¬ waits → ∃ t, exec .chainGrant s = .next t ∧ Retired f t 4 ∧ Untouched [.id, .vec, .chain, .priv, .order, .waits] [r.rd] f t ∧ (f.pends = [] → t.waits = f.waits) ∧
         SameBytes Nowhere f t ∧ t.hart.vec.vl = vl ∧ t.hart.vec.vstart = 0 ∧ (c.en = true → t.hart.order.early = []) ∧
         t.hart.chain = (if c.en then { c with pos := c.pos + BitVec.ofNat 63 vl } else c) ∧
         t.getX r.rd = if r.rd = 0#5 then 0 else BitVec.ofNat 64 vl)) ∧
     ∀ (gang rank : Nat),
       (∀ h, (s.members gang).find? (fun h => h.id.rank == rank) = some h → s.published gang rank = (h.chain.index.toNat, h.chain.final)) ∧
       (∀ g p, (s.members gang).find? (fun h => h.id.rank == rank) = none → s.gangs.find? (fun g => g.key == gang) = some g →
         g.ended.find? (fun p => p.1 == rank) = some p → s.published gang rank = (p.2.toNat, true)))

/-- R125: a supervisor asks for a hart's lanes, and `lpart.wt` answers with its lanes once nothing is pending.
R133, R129: `end` waits while a transfer or restore of the hart is under way, or an instruction of its waits in its queue; else the hart is
gone, its gang keeps what it published, and a gang without harts is gone too. -/
def Obligations.LanesAndEnds : Prop :=
  (∀ (s : State) (rd rs1 rs2 : Reg), s.hart.cond ≠ .vacant →
     let n := (s.getX rs2).toNat
     let slot := (s.getX rs1).toNat
     let victim := s.findHart (8 * s.hart.id.core + slot)
     (s.hart.priv.sup = false → Traps (.lpartRcl rd rs1 rs2) s s.privileged ∧ Traps (.lpartWt rd rs1) s s.privileged) ∧
     (s.hart.priv.sup = true → 8 ≤ slot ∨ victim = none → Gives (.lpartRcl rd rs1 rs2) s 4 rd 1 ∧ Gives (.lpartWt rd rs1) s 4 rd 0) ∧
     (∀ v, s.hart.priv.sup = true → slot < 8 → victim = some v →
       (¬(n = 4 ∨ n = 8 ∨ n = 16) ∨ v.id.lanes ≤ n → Gives (.lpartRcl rd rs1 rs2) s 4 rd 2) ∧
       ((n = 4 ∨ n = 8 ∨ n = 16) → n < v.id.lanes → v.priv.reclaim.isSome = true → Gives (.lpartRcl rd rs1 rs2) s 4 rd 3) ∧
       ((n = 4 ∨ n = 8 ∨ n = 16) → n < v.id.lanes → v.priv.reclaim = none →
         Completes (.lpartRcl rd rs1 rs2) s 4 [.priv, .others, .waits] [rd] Nowhere (fun t => t.getX rd = 0 ∧
           t.hart.priv = (if s.hart.key = v.key then { s.hart.priv with reclaim := some n } else s.hart.priv) ∧
           t.others = s.others.map (fun h =>
             if h.cond ≠ .vacant ∧ h.key = v.key then { h with priv := { h.priv with reclaim := some n } } else h))) ∧
       (v.priv.reclaim = none → Gives (.lpartWt rd rs1) s 4 rd (BitVec.ofNat 64 v.id.lanes)) ∧
       (v.priv.reclaim.isSome = true →
         exec (.lpartWt rd rs1) s = .next { s with hart := { s.hart with cond := .waiting (.lpartWt rd (s.getX rs1)) } })) ∧
     (∀ (f : State) (v : Hart) (w : Word), s.focus s.args.hart = some f → f.hart.cond = .waiting (.lpartWt rd w) → f.hart.eff.ppend = false → f.exposed = false →
       w.toNat < 8 → f.findHart (8 * f.hart.id.core + w.toNat) = some v → v.priv.reclaim = none →
       ∃ t, exec .lpartWtRelease s = .next t ∧ Retired f t 4 ∧ Untouched [] [rd] f t ∧
         t.getX rd = if rd = 0#5 then 0 else BitVec.ofNat 64 v.id.lanes)) ∧
  (∀ (s : State), s.hart.cond ≠ .vacant →
     let key := s.hart.id.gangKey
     let ends (i : Instr) : Prop :=
       if s.hasTransfers s.hart.key ∨ s.pends ≠ [] then exec i s = .next { s with hart := { s.hart with cond := .waiting .finish } }
       else ∃ t, exec i s = .next t ∧ t.hart = .vacant ∧ t.others.length = s.others.length ∧ t.jobs = s.jobs ∧ t.transfers = s.transfers ∧
         t.module = s.module ∧ t.cairnBlocks = s.cairnBlocks ∧
         (∀ p ∈ t.waits, p ∈ s.waits ∧ p.hart ≠ s.hart.key) ∧ t.streams.length = s.streams.length ∧
         (Calm s → s.hart.eng.stream = none → (∀ st ∈ s.streams, ∀ r, st.restore = some r → ∀ p ∈ r.reports, p.1 ≠ s.hart.key) → t.streams = s.streams) ∧
         ((∀ h ∈ s.others, h.cond ≠ .vacant → h.id.gangKey ≠ key) → t.others = s.others ∧ ∀ g ∈ t.gangs, g.key ≠ key) ∧
         (∀ g, s.gang = some g → (∃ h ∈ s.others, h.cond ≠ .vacant ∧ h.id.gangKey = key) →
           ∃ g', t.gangs.find? (fun o => o.key == key) = some g' ∧ g'.ended = (s.hart.id.rank, s.hart.chain.index) :: g.ended)
     ends .endHart ∧ ends .cEnd)

/-- R128, R130, R132: `yield` does nothing; `hwpub` raises INDEX once the hart's earlier stores are performed; `bar` orders all that comes
before it before all that follows; the last arrival at a barrier lets every member through and starts a new
generation, and one before it waits.
R131, R22: `jnext` gives the gang's next chunk in x4 and x5: the one an earlier hart of the gang was dealt, or the next of the undealt
range, within the range. -/
def Obligations.GangOrder : Prop :=
  (∀ (s : State) (rs1 : Reg) (g : Gang), s.hart.cond ≠ .vacant →
     let key := s.hart.id.gangKey
     let bit := BitVec.ofNat 8 (2 ^ s.hart.id.rank)
     let there (h : Hart) : Prop := h.cond ≠ .vacant → h.id.gangKey = key → g.arrived.getLsbD h.id.rank = true ∧ h.preemptible = false
     Gives .yield s 4 0 0 ∧ Gives .cYield s 2 0 0 ∧
     (∃ t, exec (.hwpub rs1) s = .next t ∧ Retired s t 4 ∧ t.hart.order.stores = [] ∧ (Calm s → Untouched [.chain] [] s t ∧ SameBytes Nowhere s t) ∧
       t.hart.chain = { s.hart.chain with index := BitVec.ofNat 63 (max s.hart.chain.index.toNat ((s.getX rs1).toNat % 2 ^ 63)) }) ∧
     (s.gang = some g → s.hart.id.rank < 8 → s.hart.eff.ppend = false → (∀ h ∈ s.others, there h) →
       ∃ t, exec .bar s = .next t ∧ Retired s t 4 ∧ t.hart.order = .start ∧ (Calm s → Untouched [.others, .gangs] [] s t) ∧
         t.gang = some { g with gen := g.gen + 1, arrived := 0 } ∧
         (∀ h ∈ t.others, h.cond = .waiting .bar → h.id.gangKey ≠ key) ∧ t.others.length = s.others.length) ∧
     (s.gang = some g → Calm s → (∃ h ∈ s.others, h.cond ≠ .vacant ∧ h.id.gangKey = key ∧ h.id.rank < 8 ∧ h.id.rank ≠ s.hart.id.rank ∧
         g.arrived.getLsbD h.id.rank = false) →
       ∃ t, exec .bar s = .next t ∧ t.hart = { s.hart with cond := .waiting .bar } ∧ t.others = s.others ∧ t.mem = s.mem ∧
         t.gang = some { g with arrived := g.arrived ||| bit }) ∧
     (∀ h, s.findHart s.args.hart = some h → s.gangs.find? (fun o => o.key == h.id.gangKey) = some g → g.arrived ≠ 0 →
       (∀ o ∈ s.members h.id.gangKey, g.arrived.getLsbD o.id.rank = true ∧ o.preemptible = false) →
       ∃ t, exec .barrierComplete s = .next t ∧ t.mem = s.mem ∧
         t.gangs.find? (fun o => o.key == h.id.gangKey) = some { g with gen := g.gen + 1, arrived := 0 } ∧
         (∀ o ∈ t.hart :: t.others, o.cond = .waiting .bar → o.id.gangKey ≠ h.id.gangKey))) ∧
  (∀ (s : State) (g : Gang), s.hart.cond ≠ .vacant → s.gang = some g →
     let k := s.hart.eng.jnexts
     (∀ c, g.chunks[k]? = some c → Completes .jnext s 4 [.eng] [4, 5] Nowhere (fun t =>
       t.getX 4 = BitVec.ofNat 64 c.1 ∧ t.getX 5 = BitVec.ofNat 64 c.2 ∧ t.hart.eng = { s.hart.eng with jnexts := k + 1 })) ∧
     (∀ (j : Job) (h : Share), g.chunks[k]? = none → s.findJob g.job = some j → j.shares.find? (fun h => h.die == s.dieOf) = some h →
       (h.lo < h.hi → 1 ≤ j.card.minchunk → 1 ≤ j.card.grain → ∃ n, 0 < n ∧ n ≤ h.hi - h.lo ∧
         (j.card.det = false → n = min (h.hi - h.lo) (max j.card.minchunk ((h.hi - h.lo + 2 * j.card.gangs - 1) / (2 * j.card.gangs)))) ∧
         (j.card.det = true → n = h.hi - h.lo ∨ n % j.card.grain = 0) ∧
         Completes .jnext s 4 [.eng, .gangs, .jobs] [4, 5] Nowhere (fun t =>
           t.getX 4 = BitVec.ofNat 64 h.lo ∧ t.getX 5 = BitVec.ofNat 64 (h.lo + n) ∧
           t.gang = some { g with chunks := g.chunks ++ [(h.lo, h.lo + n)] })) ∧
       (h.hi ≤ h.lo → j.card.spread = false ∨ h.stopped = true → Completes .jnext s 4 [.eng, .gangs, .jobs] [4, 5] Nowhere (fun t =>
         t.getX 4 = BitVec.ofNat 64 j.card.trips ∧ t.getX 5 = BitVec.ofNat 64 j.card.trips))))

/-- R134, R135, R139: `vcfg` tags a register and zeroes it, `vretag` tags it and keeps its bytes; a bound register and a sidecar that is not
tagged e8m0 are illegal. That they complete for every VL, with no check of it against the lanes, is the model's choice (entry 16, DESIGN
CHOICE). -/
def Obligations.RegisterTags : Prop :=
  ∀ (s : State) (vd : Reg) (tag : BitVec 5) (side b : Bool) (vsc : Reg) (t0 : Tag), s.hart.cond ≠ .vacant → Tag.ofCode tag = some t0 →
    let ok : Prop := s.bindingOf vd = none ∧ (side = true → (s.tagOf vsc).tag = .e8m0)
    let here : Prop := s.hart.vec.present.getLsbD vd.toNat = true ∧ (side = true → s.hart.vec.present.getLsbD vsc.toNat = true)
    let entry : TagEntry := ⟨t0, side, b, vsc⟩
    let tagged (t : State) : Prop := t.tagOf vd = entry ∧ (∀ q, q ≠ vd → t.tagOf q = s.tagOf q ∧ t.image q = s.image q) ∧
      t.hart.vec.vl = s.hart.vec.vl ∧ t.hart.vec.preds = s.hart.vec.preds ∧ t.hart.vec.present = s.hart.vec.present
    (¬ ok → Traps (.vcfg vd tag side b vsc) s s.illegal ∧ Traps (.vretag vd tag side b vsc) s s.illegal) ∧
    (ok → here → Completes (.vcfg vd tag side b vsc) s 4 [.vec] [] Nowhere (fun t =>
        tagged t ∧ t.image vd = [] ∧ t.hart.vec.dirty.getLsbD vd.toNat = true) ∧
      Completes (.vretag vd tag side b vsc) s 4 [.vec] [] Nowhere (fun t =>
        tagged t ∧ t.image vd = s.image vd ∧ t.hart.vec.dirty = s.hart.vec.dirty))


/-! ### The stream engine -/

/-- R244, R246 to R248, R251: `scopy` with a readable, admitted record clears the bits of its chunks in pd and starts a transfer of them on a free
channel; with a list the transfer's first act is to clear its count and its overflow bit, and no other byte changes. Else it waits in the
stream queue, or before its clear in the vector queue, and the hart goes on. That it waits aside of the hart, and while an older instruction
can still fault, is the model's form (entry 24); that a free channel is its own only when the round reaches it first is the model's reading
(entry 18).
R249, R245: a chunk of a plain copy whose source and destination are reachable, of which nothing is read or written ahead, reads and writes
its bytes, and sets its bit; the transfer is over with its last chunk. -/
def Obligations.CopiesAndChunks : Prop :=
  (∀ (s : State) (pd : BitVec 6) (rd rs1 rs2 : Reg) (d0 d1 d2 d3 : Word), s.hart.cond = .running → Calm s →
     s.absent [] [pd.toNat] [] = none → (pd.toNat < 48 ∧ pd.toNat ≠ 0) →
     let i := Instr.scopy pd rd rs1 rs2
     let cs := 1024 * (d0.extractLsb' 32 6).toNat + 1024
     let len := (d0.extractLsb' 0 31).toNat
     let n := (len + cs - 1) / cs
     let ok := recordOk d0 d1 d2 d3 (s.getX rs1) (min 16384 s.bits)
     let free := s.channelFor s.hart.id.core s.hart.id.slot
     let cleared (t : State) : Prop := (∀ e, (t.pred pd.toNat).testBit e = (decide (n ≤ e) && (s.pred pd.toNat).testBit e)) ∧
       (∀ q < 51, q ≠ pd.toNat → t.pred q = s.pred q) ∧ t.hart.vec.regs = s.hart.vec.regs
     let aside (t : State) (done : Bool) : Prop := t.hart.cond = .running ∧ t.hart.retired = s.hart.retired ∧
       t.hart.pc = (s.hart.loopTest (s.hart.pc + 4) false).pc ∧ t.transfers = s.transfers ∧ t.mem = s.mem ∧
       t.hart.eng = s.hart.eng ∧
       t.waits = s.waits ++ [⟨s.hart.key, .copy pd (s.getX rd) (s.getX rs1) d0 d1 s.hart.priv.sup done, s.hart, false, none, s.ticks, []⟩]
     (∀ tr, s.loadRecord (s.getX rs2) 4 = .error tr → Traps i s tr) ∧
     (s.loadRecord (s.getX rs2) 4 = .ok [d0, d1, d2, d3] →
       (ok = false → ∃ u : State, exec i s = .next (u.deliver s.illegal) ∧ u.mem = s.mem ∧ u.transfers = s.transfers ∧ u.hart.vec = s.hart.vec) ∧
       (ok = true → free = true → s.queueHeld 1 = false → s.queueHeld 2 = false → s.exposed = false →
         ∃ (t : State) (x : Transfer), exec i s = .next t ∧ Retired s t 4 ∧
           Untouched [.vec, .tlb, .transfers, .nextKey, .dies, .mem, .streams, .stale] [] s t ∧
           SameBytes (fun k => x.list ≠ 0 ∧ ∃ lkey, s.resolve x.view .atomic x.list = .ok (.local lkey) ∧ Span lkey 8 k) s t ∧
           (∀ lkey, x.list ≠ 0 → s.resolve x.view .atomic x.list = .ok (.local lkey) → (∀ d, (s.die d).outbound = []) →
             leNat (t.bytesAt s.dieOf lkey 8) = leNat (s.bytesAt s.dieOf lkey 8) / 2 ^ 32 % 2 ^ 31 * 2 ^ 32) ∧ cleared t ∧ t.transfers = s.transfers ++ [x] ∧ t.nextKey = s.nextKey + 1 ∧
           x.key = s.nextKey ∧ x.owner = .hart s.hart.key pd ∧ x.src = s.getX rs1 ∧ x.dst = s.getX rd ∧ x.len = len ∧ x.cs = cs ∧
           x.pending = List.range n ∧ x.expand = (d0.extractLsb' 40 2 == 1#2) ∧ x.list = (d1.extractLsb' 0 56).setWidth 64 ∧
           x.core = s.hart.id.core ∧ x.sup = s.hart.priv.sup) ∧
       (ok = true → s.queueHeld 1 = false → free = false ∨ s.queueHeld 2 = true ∨ s.exposed = true → ∃ t, exec i s = .next t ∧ aside t true ∧ cleared t) ∧
       (ok = true → s.queueHeld 1 = true → ∃ t, exec i s = .next t ∧ aside t false ∧ t.hart.vec = s.hart.vec))) ∧
  (∀ (s : State) (x : Transfer) (bs : List Byte) (key : Nat) (hk : Nat) (pd : BitVec 6), s.Inv →
     s.transfers.find? (fun t => t.key == s.args.item) = some x →
     let c := s.args.chunk
     let n := x.chunkLen c
     let die := x.core / 8
     let a := x.dst + BitVec.ofNat 64 (c * x.cs)
     let from0 := x.src + BitVec.ofNat 64 (c * x.cs)
     (c ∉ x.pending → exec .scopyChunkComplete s = .next s) ∧
     (c ∈ x.pending → x.owner = .hart hk pd → x.expand = false → x.gaveUp = [] → x.old = [] → x.read = [] → (∀ d ∈ x.wrote, d.1 ≠ c) →
       piecesOf a n = [(a, n)] → piecesOf from0 n = [(from0, n)] → s.resolve x.view .load from0 = .ok (.local key) →
       bs = s.bytesAt die key n →
       ∀ dkey, s.resolve x.view .store a = .ok (.local dkey) →
       ∃ t, exec .scopyChunkComplete s = .next t ∧
         SameBytes (Span dkey n) s t ∧ t.jobs = s.jobs ∧ t.gangs = s.gangs ∧ t.module = s.module ∧ t.others.length = s.others.length ∧
         ((∀ j < n, Shown s (dkey + j)) → (homeOf dkey = die → ∀ j < n, outboundByte (s.die die).outbound (dkey + j) = none) →
           t.bytesAt die dkey n = bs) ∧
         (∀ h ∈ t.hart :: t.others, h.cond ≠ .vacant → h.key = hk → c < 4096 * h.id.lanes → pd.toNat < 48 →
           (h.vec.preds[pd.toNat]?.getD 0).testBit c = true) ∧
         ((∀ k ∈ x.pending, k = c) → ∀ y ∈ t.transfers, y.key ≠ x.key) ∧
         ((∃ k ∈ x.pending, k ≠ c) → ∃ y ∈ t.transfers, y.key = x.key ∧ ∀ k, k ∈ y.pending ↔ k ∈ x.pending ∧ k ≠ c)))

/-- R250 to R254: the compressed block format. A chunk header is usable only in its one layout; the modes RAW, ZERO and FILL decode to their
bytes; and for PLANE, `size` bytes laid out as W byte planes, each a bit map and the bytes that are not zero, decode to those bytes.
R249 to R252, R256: what a chunk leaves where it expands or meets an error. Its decoded bytes where it expands; zeros where its source fails;
nothing changed where its destination fails; each byte as before or as brought where the transport gave up on it. Its bit is set in every
case, and a bad chunk is counted and entered in the list with its code, the lower one where source and destination both fail; where the chunk
writes its destination too, that is stated of a list whose place no store can move, as in the Tarn. That a failed destination leaves every
byte as it was is the model's choice among the outcomes that code 0x04 allows (entry 10). -/
def Obligations.ExpandingAndBadChunks : Prop :=
  ((∀ (s : State) (x : Transfer) (a : Word) (c clen : Nat) (hdr : List Byte), c ∉ x.noHeader → s.sourceBytes x a 64 = .ok hdr →
     (s.cbfHeader x a c = .ok clen ↔ leNat (hdr.take 4) = 0x31464243 ∧ clen = leNat ((hdr.drop 4).take 4) ∧ 80 ≤ clen ∧ clen % 16 = 0 ∧
       leNat ((hdr.drop 8).take 4) = min 65536 (x.len - 65536 * c) ∧ leNat (hdr.drop 12) = 0) ∧
     ((∀ k, s.cbfHeader x a c ≠ .ok k) → s.cbfHeader x a c = .error 2)) ∧
   (∀ (size param : Nat) (pay dict : List Byte),
     decodeBlock 0 param size pay dict = some (pay, dict) ∧ decodeBlock 1 param size pay dict = some (List.replicate size 0, dict) ∧
     (pay ≠ [] → param ≠ 0 → ∃ out, decodeBlock 2 param size pay dict = some (out, pay) ∧ out.length = size ∧
       ∀ i < size, out[i]? = pay[i % pay.length]?) ∧
     (dict ≠ [] → ∃ out, decodeBlock 2 0 size pay dict = some (out, dict) ∧ out.length = size ∧ ∀ i < size, out[i]? = dict[i % dict.length]?)) ∧
   ∀ (w : Nat) (data dict : List Byte), 0 < w → data.length % w = 0 →
     let n := data.length / w
     let at_ (j e : Nat) : Byte := (data[w * e + j]?).getD 0
     let bits (j k : Nat) : Nat := ((List.range 8).map (fun i => if 8 * k + i < n ∧ at_ j (8 * k + i) ≠ 0 then 2 ^ i else 0)).foldl (· + ·) 0
     let plane (j : Nat) : List Byte := (List.range ((n + 7) / 8)).map (fun k => BitVec.ofNat 8 (bits j k)) ++
       ((List.range n).map (at_ j)).filter (fun b => b != 0)
     decodeBlock 3 w data.length ((List.range w).flatMap plane) dict = some (data, dict)) ∧
  (∀ (s : State) (x : Transfer) (hk : Nat) (pd : BitVec 6), s.Inv → s.transfers.find? (fun t => t.key == s.args.item) = some x →
     let c := s.args.chunk
     let n := x.chunkLen c
     let die := x.core / 8
     let a := x.dst + BitVec.ofNat 64 (c * x.cs)
     let ends (p : Nat → Prop) (post : State → Prop) : Prop := ∃ t, exec .scopyChunkComplete s = .next t ∧ SameBytes p s t ∧
       t.jobs = s.jobs ∧ t.gangs = s.gangs ∧ t.module = s.module ∧ t.others.length = s.others.length ∧ post t ∧
       (∀ h ∈ t.hart :: t.others, h.cond ≠ .vacant → h.key = hk → c < 4096 * h.id.lanes → pd.toNat < 48 →
         (h.vec.preds[pd.toNat]?.getD 0).testBit c = true) ∧ ∀ y ∈ t.transfers, y.key = x.key → c ∉ y.pending
     let fixed (acc : Acc) (b : Word) (key : Nat) : Prop := ∀ u : State, u.module = s.module → u.resolve x.view acc b = .ok (.local key)
     let listed (code : Nat) (wrote : Nat → Prop) (post : State → Prop) : Prop :=
       ∀ lkey, x.list ≠ 0 → fixed .atomic x.list lkey → (∀ j, wrote j → ¬ Span lkey 8 j) →
         let w := leNat (s.bytesAt die lkey 8)
         let k := w % 2 ^ 32
         let cap := w / 2 ^ 32 % 2 ^ 16
         (cap ≤ k → ends (fun j => wrote j ∨ Span lkey 8 j) (fun t => post t ∧ leNat (t.bytesAt die lkey 8) / 2 ^ 63 = 1 ∧
           leNat (t.bytesAt die lkey 8) % 2 ^ 32 = (k + 1) % 2 ^ 32)) ∧
         (∀ ekey, k < cap → fixed .store (x.list + BitVec.ofNat 64 (8 + 8 * k)) ekey → (∀ j, wrote j → ¬ Span ekey 8 j) →
           lkey + 8 ≤ ekey ∨ ekey + 8 ≤ lkey → ends (fun j => wrote j ∨ Span lkey 8 j ∨ Span ekey 8 j) (fun t => post t ∧
             leNat (t.bytesAt die lkey 8) = w + 1 ∧ leNat (t.bytesAt die ekey 8) = code * 2 ^ 56 + c % 2 ^ 16))
     c ∈ x.pending → x.owner = .hart hk pd → (∀ d ∈ x.wrote, d.1 ≠ c) → piecesOf a n = [(a, n)] → (∀ d, (s.die d).outbound = []) →
     (∀ dkey, s.resolve x.view .store a = .ok (.local dkey) →
       (∀ bs, x.expand = true → x.gaveUp = [] → s.chunkData x c = .ok bs → bs.length = n →
         ends (Span dkey n) (fun t => t.bytesAt die dkey n = bs)) ∧
       (∀ e, c ∉ x.gaveUp → e ∈ [1, 2, 3, 5] → s.chunkData x c = .error e →
         let zero (t : State) : Prop := t.bytesAt die dkey n = List.replicate n 0
         (x.list = 0 → ends (Span dkey n) zero) ∧ listed e (Span dkey n) zero) ∧
       (∀ bs, c ∈ x.gaveUp → s.chunkData x c = .ok bs → bs.length = n →
         let mixed (t : State) : Prop := ∀ j < n, t.byteAt die (dkey + j) = s.byteAt die (dkey + j) ∨ some (t.byteAt die (dkey + j)) = bs[j]?
         (x.list = 0 → ends (Span dkey n) mixed) ∧ listed 6 (Span dkey n) mixed)) ∧
     (∀ id, s.resolve x.view .store a = .error id →
       (x.list = 0 → ends Nowhere (fun _ => True)) ∧
       (∀ source lkey, (match s.chunkData x c with
           | .ok _ => source = 0
           | .error e => source = e) → x.list ≠ 0 → s.resolve x.view .atomic x.list = .ok (.local lkey) →
         let w := leNat (s.bytesAt die lkey 8)
         let k := w % 2 ^ 32
         let cap := w / 2 ^ 32 % 2 ^ 16
         let dest := if id = 0x0007 then 5 else 4
         let code := if source = 0 then dest else min source dest
         (cap ≤ k → ends (Span lkey 8) (fun t =>
           let v := leNat (t.bytesAt die lkey 8)
           v % 2 ^ 32 = (k + 1) % 2 ^ 32 ∧ v / 2 ^ 32 % 2 ^ 31 = w / 2 ^ 32 % 2 ^ 31 ∧ v / 2 ^ 63 = 1)) ∧
         (∀ ekey, k < cap → s.resolve x.view .store (x.list + BitVec.ofNat 64 (8 + 8 * k)) = .ok (.local ekey) → lkey + 8 ≤ ekey ∨ ekey + 8 ≤ lkey →
           ends (fun j => Span lkey 8 j ∨ Span ekey 8 j) (fun t =>
             leNat (t.bytesAt die lkey 8) = w + 1 ∧ leNat (t.bytesAt die ekey 8) = code * 2 ^ 56 + c % 2 ^ 16)))))

/-- R244, R261, R264, R265: `sbind` binds a register at strip 0 and its contents are lost, or it waits for a channel in the vector queue while
the hart goes on (the model's form, entry 24; when a free channel is its own, entry 18); a register that a waiting `sbind` will bind, or its
sidecar, is already bound for another. A register bound as another's sidecar has no binding of its own for `sunbind` and `srearm` (the model's
choice, entry 18). `sunbind` leaves it present, dirty and zero; `srearm` drops the strips of its binding from
the marked one on, keeps those before it, and without a marker changes nothing. The address side appends one strip to those ahead.
R260, R262 to R264: what the address side fetches for strip k. Its elements are those from k·SL on, each with the scale of its block; the
lowest that fails marks the strip with its kind and the element's byte address (entry 18). An element of whole bytes is the bytes at its
place, and its scale the byte at the place that the record gives. -/
def Obligations.Bindings : Prop :=
  (∀ (s : State) (vd rs1 : Reg) (ds : List Word) (b : Binding), s.hart.cond = .running → Calm s →
     let rec0 := BindRecord.ofWords ds
     let regs := s.boundRegs vd
     (s.sidecarsValid [vd] = true → s.absent regs [] [] = none → s.loadRecord (s.getX rs1) 8 = .ok ds →
       (bindRecordOk ds && s.bindOk vd rec0) = true →
       (s.channelFor s.hart.id.core s.hart.id.slot = true → s.queueHeld 1 = false → s.exposed = false →
         ∃ t, exec (.sbind vd rs1) s = .next t ∧ Retired s t 4 ∧ Untouched [.vec, .eng, .tlb, .dies] [] s t ∧ SameBytes Nowhere s t ∧
           t.hart.eng = { s.hart.eng with bindings := s.hart.eng.bindings ++ [⟨vd, rec0, s.hart.vec.vl, 0, []⟩] } ∧
           (∀ q ∉ regs, t.image q = s.image q) ∧ t.hart.vec.preds = s.hart.vec.preds) ∧
       (s.channelFor s.hart.id.core s.hart.id.slot = false ∨ s.queueHeld 1 = true ∨ s.exposed = true →
         ∃ t, exec (.sbind vd rs1) s = .next t ∧ t.hart.cond = .running ∧ t.hart.retired = s.hart.retired ∧
           t.hart.pc = (s.hart.loopTest (s.hart.pc + 4) false).pc ∧ t.mem = s.mem ∧ t.hart.vec = s.hart.vec ∧
           t.hart.eng = s.hart.eng ∧ t.waits = s.waits ++ [⟨s.hart.key, .bind vd rec0 s.hart.vec.vl, s.hart, false, none, s.ticks, []⟩])) ∧
     (∀ p ∈ s.pends, ∀ w r sl, p.what = .bind w r sl → (vd ∈ s.boundRegs w ∨ (s.tagOf vd).s = true ∧ (s.tagOf vd).vsc ∈ s.boundRegs w) →
       s.bindOk vd rec0 = false) ∧
     (s.sidecarsValid [vd] = true → s.absent regs [] [] = none → s.loadRecord (s.getX rs1) 8 = .ok ds →
       (bindRecordOk ds && s.bindOk vd rec0) = false → ∃ u : State, exec (.sbind vd rs1) s = .next (u.deliver s.illegal) ∧ u.mem = s.mem ∧
         u.hart.eng = s.hart.eng) ∧
     (s.ownBinding vd = none → Traps (.sunbind vd) s s.illegal ∧ Traps (.srearm vd) s s.illegal) ∧
     (s.ownBinding vd = some b →
       Completes (.sunbind vd) s 4 [.vec, .eng] [] Nowhere (fun t =>
         t.hart.eng = { s.hart.eng with bindings := s.hart.eng.bindings.filter (fun c => c.reg != vd) } ∧
         (∀ q ∈ regs, t.image q = [] ∧ t.hart.vec.present.getLsbD q.toNat = true ∧ t.hart.vec.dirty.getLsbD q.toNat = true) ∧
         (∀ q ∉ regs, t.image q = s.image q) ∧ t.hart.vec.preds = s.hart.vec.preds) ∧
       Completes (.srearm vd) s 4 [.eng] [] Nowhere (fun t =>
         { t.hart.eng with bindings := s.hart.eng.bindings } = s.hart.eng ∧ t.hart.eng.bindings.length = s.hart.eng.bindings.length ∧
         ((∀ p ∈ b.ahead, p.isMarked = false) → (∀ c ∈ s.hart.eng.bindings, c.reg = vd → c = b) → t.hart.eng = s.hart.eng) ∧
         ∀ (n : Nat) (c d : Binding), s.hart.eng.bindings[n]? = some c → t.hart.eng.bindings[n]? = some d →
           (c.reg ≠ vd → d = c) ∧
           (c.reg = vd → ∃ rest, c.ahead = d.ahead ++ rest ∧ d = { c with ahead := d.ahead } ∧ (∀ p ∈ d.ahead, p.isMarked = false) ∧
             ∀ p, rest.head? = some p → p.isMarked = true))) ∧
     (∀ (f : State) (k : Nat), s.focus s.args.hart = some f → f.ownBinding s.args.reg = some b → b.nextStrip = some k →
       ∃ t h, exec .stripFetch s = .next t ∧ t.mem = s.mem ∧ t.dies = s.dies ∧ k = b.head + b.ahead.length ∧ t.findHart s.args.hart = some h ∧
         { b with ahead := b.ahead ++ [f.fetchStrip b k] } ∈ h.eng.bindings ∧ h.eng.bindings.length = f.hart.eng.bindings.length)) ∧
  (∀ (s : State) (b : Binding) (k : Nat),
     let r := b.record
     let v := s.engineView
     let n := min b.sl (r.rowlen * r.nrows - k * b.sl)
     let block := if r.sb then 32 else 16
     let place (g : Nat) : Nat := (((8 * r.base + r.bitoff : Nat) + (g / r.rowlen : Nat) * r.pitch + (g % r.rowlen * r.estr : Nat) : Int) % 2 ^ 67).toNat
     (∀ f : Nat → Nat × Byte, (∀ i < n, s.bindOne v r (k * b.sl + i) = .ok (f i)) →
       ∃ scales, s.fetchStrip b k = .data ((List.range n).map (fun i => (f i).1)) scales ∧ (r.sc = false → scales = []) ∧
         (r.sc = true → ∀ i < n, i % block = 0 → scales[i / block]? = some (f i).2)) ∧
     (∀ i e a, i < n → s.bindOne v r (k * b.sl + i) = .error (e, a) → (∀ j < i, ∃ p, s.bindOne v r (k * b.sl + j) = .ok p) →
       a = BitVec.ofNat 64 (place (k * b.sl + i) / 8) ∧
         s.fetchStrip b k = .marked (if e = 0x0006 then 2 else if e = 0x0007 then 3 else 1) a) ∧
     (∀ g t (bs : List Byte), Tag.ofCode r.tag = some t → t.memBits = 8 * bs.length → place g % 8 = 0 →
       (∀ i y, bs[i]? = some y → s.engineByte v (BitVec.ofNat 64 (place g / 8 + i)) = .ok y) → s.bindElem v r g = .ok (leNat bs)) ∧
     (∀ g, s.bindScale v r g = s.engineByte v (BitVec.ofInt 64 (r.sbase + (g / r.rowlen : Nat) * r.spitch + (g % r.rowlen / block : Nat)))))

/-- R266, R267, R232: `tkput` adds a token to a FIFO of fewer than 16, once the accesses of its queue are performed; `tkget` takes one from a FIFO
that holds any, and nothing its queue has read early stays; else they wait: the hart at a scalar one, any other in its queue while the hart goes on,
until they can. How an instruction waits in its queue, and that none acts outside the hart while an older one can still fault, is the model's
form (entry 24).
R244, R137: a channel goes to the slot that the round reaches first among those that wait, while fewer than 16 are in use; an instruction
that waits for one in its queue goes on when the round has reached its hart. How it waits there is the model's form (entry 24).
R346, R367, R360: `qsig` adds to a signal of the hart's context once the hart's accesses are performed, `qwait` goes on once the signal has
reached its threshold and then acquires; an id that names no signal is illegal, a signal of another context raises Protection, and one
behind a link that is down MemoryUncorrectable, whose argument the spec leaves open. That `qsig` brings the die's whole outbound queue home
is the model's choice (entry 38). -/
def Obligations.FifosChannelsSignals : Prop :=
  (∀ (s : State) (q p : BitVec 2), s.hart.cond ≠ .vacant →
     let put := 4 * q.toNat + p.toNat
     let get := 4 * p.toNat + q.toNat
     let ordered (toPut : Bool) (t : State) : Prop :=
       (toPut = true → q = 0#2 → (∀ h ∈ t.hart.order.stores, h.vec = true ∧ h.readS = false) ∧ ∀ l ∈ t.hart.order.loads, l.2.isScalar = false) ∧
       (toPut = true → q = 1#2 → (∀ h ∈ t.hart.order.stores, h.vec = false ∧ h.readV = false) ∧ ∀ l ∈ t.hart.order.loads, l.2.isScalar = true) ∧
       (toPut = false → q.toNat < 2 → ∀ e ∈ t.hart.order.early, e.vec = (q == 0#2))
     let moves (c : List Part) (i : Instr) (f : State) (toPut : Bool) (k : Nat) (n : Int) : Prop := ∃ t, exec i s = .next t ∧ Retired f t 4 ∧
       (Calm f → Untouched (.eng :: c) [] f t ∧ SameBytes Nowhere f t) ∧ ordered toPut t ∧ t.fifo k = n ∧ (∀ j, j ≠ k → t.fifo j = f.fifo j) ∧
       { t.hart.eng with fifos := f.hart.eng.fifos } = f.hart.eng
     let form (toPut : Bool) : Instr := if toPut then .tkput q p else .tkget q p
     let free (toPut : Bool) : Prop := s.queueHeld q = false ∧ (s.exposed = false ∨ (s.moveToken toPut q p).outside = s.outside)
     let waits (toPut : Bool) : Prop :=
       (q = 0#2 → exec (form toPut) s = .next { s with hart := { s.hart with cond := .waiting (.fifo toPut q p) } }) ∧
       (q ≠ 0#2 → s.hart.cond = .running → ∃ t, exec (form toPut) s = .next t ∧ t.hart.cond = .running ∧
         t.hart.retired = s.hart.retired ∧ t.hart.pc = (s.hart.loopTest (s.hart.pc + 4) false).pc ∧ t.mem = s.mem ∧
         t.hart.eng = s.hart.eng ∧ t.waits = s.waits ++ [⟨s.hart.key, .fifo toPut q p, s.hart, false, none, s.ticks, []⟩])
     (free true → s.fifo put < 16 → moves [] (.tkput q p) s true put (s.fifo put + 1)) ∧
     (¬ free true ∨ 16 ≤ s.fifo put → waits true) ∧
     (free false → 0 < s.fifo get → moves [] (.tkget q p) s false get (s.fifo get - 1)) ∧
     (¬ free false ∨ s.fifo get ≤ 0 → waits false) ∧
     (∀ f, s.focus s.args.hart = some f →
       (f.hart.cond = .waiting (.fifo true q p) → f.hart.eff.ppend = false → f.queueHeld q = false → f.exposed = false → f.fifo put < 16 →
         moves [.waits] .tokenFifoRelease f true put (f.fifo put + 1)) ∧
       (f.hart.cond = .waiting (.fifo false q p) → f.hart.eff.ppend = false → f.queueHeld q = false → f.exposed = false → 0 < f.fifo get →
         moves [.waits] .tokenFifoRelease f false get (f.fifo get - 1)) ∧
       (∀ toPut b d g ms, f.hart.cond = .running → f.pends = [⟨f.hart.key, .fifo toPut q p, b, d, none, g, ms⟩] → f.fifoReady toPut q p = true →
         ∃ t, exec .tokenFifoRelease s = .next t ∧ t.pends = [] ∧ t.hart.retired = f.hart.retired + 1 ∧ t.hart.pc = f.hart.pc ∧
           ordered toPut t ∧ t.fifo (if toPut then put else get) = if toPut then f.fifo put + 1 else f.fifo get - 1))) ∧
  ((∀ (s : State) (core slot : Nat), s.channelFor core slot = true → s.channelsUsed core < 16 ∧
     ∃ i < 9, (s.lastGrant core + 1 + i) % 9 = slot ∧ ∀ j < i, s.wantsChannel core ((s.lastGrant core + 1 + j) % 9) = false) ∧
   ∀ (s f : State), s.focus s.args.hart = some f → f.hart.cond = .running → Calm f → f.channelFor f.hart.id.core f.hart.id.slot = true →
     let on (t : State) : Prop := t.pends = [] ∧ t.hart.retired = f.hart.retired + 1 ∧ t.hart.pc = f.hart.pc ∧ t.hart.x = f.hart.x ∧
       t.hart.cond = .running
     (∀ pd dst src d0 d1 sup e b g ms, f.pends = [⟨f.hart.key, .copy pd dst src d0 d1 sup true, e, b, none, g, ms⟩] →
       ∃ t x, exec .channelGrant s = .next t ∧ on t ∧ t.transfers = f.transfers ++ [x] ∧ x.owner = .hart f.hart.key pd ∧ x.src = src ∧ x.dst = dst ∧
         x.sup = sup ∧ t.hart.vec = f.hart.vec) ∧
     (∀ vd b sl e d g ms, f.pends = [⟨f.hart.key, .bind vd b sl, e, d, none, g, ms⟩] →
       ∃ t, exec .channelGrant s = .next t ∧ on t ∧ t.mem = f.mem ∧
         t.hart.eng.bindings = f.hart.eng.bindings ++ [⟨vd, b, sl, 0, []⟩] ∧ ∀ q, q ∉ f.boundRegs vd → t.image q = f.image q)) ∧
  (∀ (s : State) (i j : Instr) (rs1 rs2 : Reg) (id : Word) (li lj : Nat), s.hart.cond ≠ .vacant → s.Inv →
     SysForm s i (.qsig rs1 rs2) (.qsig rs2) rs1 id li → SysForm s j (.qwait rs1 rs2) (.qwait rs2) rs1 id lj →
     let n := id.toNat
     let die := n / 2 ^ 12 % 4
     let key := 2 ^ 62 + die * 2 ^ 21 + 0x41000 + 8 * (n % 2 ^ 12)
     let value (t : State) : Nat := leNat (Sparse.getList 0 t.mem key 8)
     let v := (s.getX rs2).toNat
     (2 ^ 14 ≤ n ∨ s.signalContext n = none → Traps i s s.illegal ∧ Traps j s s.illegal) ∧
     (∀ c, n < 2 ^ 14 → s.signalContext n = some c → c ≠ s.hart.id.ctx ∨ s.linkUp s.dieOf die = false →
       ∃ a e, let tr : Trap := ⟨if c ≠ s.hart.id.ctx then 0x0006 else 0x0007, a, e, 0, false⟩; Traps i s tr ∧ Traps j s tr) ∧
     (n < 2 ^ 14 → s.signalContext n = some s.hart.id.ctx → s.linkUp s.dieOf die = true →
       (∃ t, exec i s = .next t ∧ Retired s t li ∧ t.hart.order.stores = [] ∧ t.hart.order.loads = [] ∧
         (Calm s → Untouched [.mem, .dies, .streams] [] s t ∧ ((∀ o ∈ (s.die s.dieOf).outbound, o.pa + o.bytes.length ≤ 2 ^ 52) → value t = (value s + v) % 2 ^ 64)) ∧
         ∀ o ∈ (t.die s.dieOf).outbound, s.linkUp s.dieOf (homeOf o.pa) = false) ∧
       (v ≤ value s → Completes j s lj [.order] [] Nowhere (fun t => t.hart.order = { s.hart.order with early := [] })) ∧
       (value s < v → exec j s = .next { s with hart := { s.hart with cond := .waiting (.qwait n (s.getX rs2) lj) } })) ∧
     (∀ f w len, s.focus s.args.hart = some f → f.hart.cond = .waiting (.qwait n w len) → f.hart.eff.ppend = false → f.exposed = false →
       n < 2 ^ 14 → f.signalContext n = some f.hart.id.ctx → f.linkUp f.dieOf die = true → w.toNat ≤ value f →
       ∃ t, exec .qwaitRelease s = .next t ∧ Retired f t len ∧ Untouched [.order] [] f t ∧ t.hart.order.early = [])
)

/-! ### The snapshot ladder -/

/-- R276, R278, R280 to R283, R287, R288: what the instructions on the bound stream answer and change; −1 with no stream bound, −3 and −4 where
an operand or the log does not admit them, and a wait of the hart (entry 24) while a restore is under way. `ladv`, a ladder fence, is stated
for a hart whose accesses are performed in program order. That `ltok` of a token in a retired block answers a free value and sets LREPLAY.BAD
is entry 19 (DESIGN CHOICE).
R275, R280, R282: `ladv` at the end of the log appends its token, advances the position and answers it; in replay the token must be
the log's own, and the log stays; a log that is full answers −4, and a store that has no room after pressure −5. The cut holds the live
blocks as they stand, those not written since the last cut shared with it; of the held cairns those of R(n) and the pinned ones stay. That
room is counted in uncompressed blocks, that what pressure dropped stays dropped when −5 is answered, and what stands in a retired block, is
entry 19 (DEDUCED, DESIGN CHOICE).
R272, R281: pressure on a die's store. Nothing is dropped while 1/16 stays free; otherwise cairns go until 1/8 is free or no stream of the
die has a victim, the lower classes first, and a cairn at position 0, at LPOS or pinned never. The victim of a stream has the smallest gap to
the cairn below it, the lower position on ties. That room is counted in uncompressed blocks is entry 19 (DEDUCED). -/
def Obligations.LadderSteps : Prop :=
  (∀ (s : State) (i : Instr) (rd rs1 : Reg) (v : Word) (len : Nat), s.hart.cond ≠ .vacant →
     let answers (i : Instr) (r : Int) : Prop := Gives i s len rd (BitVec.ofInt 64 r)
     let some1 (short : Instr) (body : SystemBody) : Prop := SysForm s i short body rs1 v len
     (s.boundStream = none → ((Calm s ∧ some1 (.ladv rd rs1) (.ladv rd)) ∨ some1 (.ltok rd rs1) (.ltok rd) ∨ some1 (.lpin rd rs1) (.lpin rd) ∨
         some1 (.lunpin rd rs1) (.lunpin rd) ∨ some1 (.lset rd rs1) (.lset rd)) → answers i (-1)) ∧
     (∀ t, s.boundStream = some t → t.restore.isSome = true → ((Calm s ∧ some1 (.ladv rd rs1) (.ladv rd)) ∨ some1 (.ltok rd rs1) (.ltok rd) ∨
         some1 (.lpin rd rs1) (.lpin rd) ∨ some1 (.lunpin rd rs1) (.lunpin rd) ∨ some1 (.lset rd rs1) (.lset rd)) →
         exec i s = .next { s with hart := { s.hart with cond := .waiting .engine } }) ∧
     (∀ t, s.boundStream = some t → t.restore = none →
       let p := v.toNat
       let changes (r : Int) (f : Stream → Stream) : Prop := Completes i s len [.streams] [rd] Nowhere (fun u =>
         u.getX rd = (if rd = 0#5 then 0 else BitVec.ofInt 64 r) ∧ u.streams = s.streams.map (fun o => if o.id = t.id then f o else o))
       (some1 (.ltok rd rs1) (.ltok rd) → (1 ≤ p → p ≤ t.llen → s.logRetired t p 1 = false → answers i (s.logToken t p)) ∧
         (1 ≤ p → p ≤ t.llen → s.logRetired t p 1 = true → changes (s.logToken t p) (fun o => { o with bad := true })) ∧ (p = 0 ∨ t.llen < p → answers i (-3))) ∧
       (some1 (.lpin rd rs1) (.lpin rd) →
         (t.cairnAt p = none ∨ (p ∉ t.pins ∧ 16 ≤ t.pins.length) → answers i (-3)) ∧
         (t.cairnAt p ≠ none → p ∈ t.pins ∨ t.pins.length < 16 → changes p (fun o => if p ∈ o.pins then o else { o with pins := p :: o.pins }))) ∧
       (some1 (.lunpin rd rs1) (.lunpin rd) →
         (t.cairnAt p = none ∨ p ∉ t.pins → answers i (-3)) ∧
         (t.cairnAt p ≠ none → p ∈ t.pins → changes p (fun o => { o with pins := o.pins.filter (fun q => q != p) }))) ∧
       (some1 (.lset rd rs1) (.lset rd) →
         (v &&& 0xFFFFFFFFFFFFFCE0 ≠ 0 ∨ 24 < p % 32 → answers i (-3)) ∧
         (v &&& 0xFFFFFFFFFFFFFCE0 = 0 → p % 32 ≤ 24 → changes 0 (fun o => { o with k := p % 32, cls := p / 2 ^ 8 % 4 }))))) ∧
  (∀ (s : State) (t : Stream) (i : Instr) (rd rs1 : Reg) (v : Word) (len : Nat), s.hart.cond ≠ .vacant → s.Inv → Calm s →
     SysForm s i (.ladv rd rs1) (.ladv rd) rs1 v len → s.boundStream = some t → t.restore = none →
     let n := t.lpos + 1
     let token := v.toNat % 2 ^ 32
     let die := streamDie t.id
     let place := t.pa (t.logbase + 4 * (n - 1))
     let logged := if t.lpos < t.ltarget then s else s.ladderWrite t (t.logbase + 4 * (n - 1)) (natLe 4 token)
     let need := ((logged.findStream t.id).map (fun t => t.toCopy.length)).getD 0
     let pressed := s.press die need
     (t.logcap < n → Gives i s len rd (BitVec.ofInt 64 (-4))) ∧
     (n ≤ t.logcap → t.lpos < t.ltarget → s.logToken t n ≠ token → s.logRetired t n 1 = false →
       Traps i s ⟨0x000B, BitVec.ofNat 64 n, BitVec.ofNat 64 (3 * 2 ^ 62), 0, false⟩) ∧
     (n ≤ t.logcap → (t.lpos < t.ltarget → s.logToken t n = token) →
       (s.cairnTotal die < pressed.cairnUsed die + need → ∃ u, exec i s = .next u ∧ Retired s u len ∧
         Untouched [.streams, .cairns] [rd] s u ∧ SameBytes Nowhere s u ∧ u.streams = pressed.streams ∧
         u.getX rd = (if rd = 0#5 then 0 else BitVec.ofInt 64 (-5))) ∧
       (∀ y, pressed.cairnUsed die + need ≤ s.cairnTotal die → pressed.findStream t.id = some y →
         ∃ u x, exec i s = .next u ∧ Retired s u len ∧ Untouched [.dies, .mem, .streams, .cairns, .nextKey, .stale] [rd] s u ∧
           u.getX rd = (if rd = 0#5 then 0 else BitVec.ofNat 64 n) ∧ u.findStream t.id = some x ∧ x.lpos = n ∧ x.segs = t.segs ∧
           (if t.lpos < t.ltarget then x.llen = t.llen ∧ u.mem = s.mem ∧ u.dies = s.dies
            else x.llen = n ∧ SameBytes (Span place 4) s u ∧
              (place % 4 = 0 → s.retiredAt place = false → (∀ j < 4, Shown s (place + j)) → (homeOf place = die → ∀ j < 4, outboundByte (s.die die).outbound (place + j) = none) →
                u.logToken x n = token)) ∧
           (∃ c ∈ x.cairns, c.pos = n ∧ c.blocks.length = t.blockCount ∧
             (∀ k < t.blockCount, y.cairns ≠ [] → (∀ z, logged.findStream t.id = some z → k ∉ z.written) →
               c.blocks[k]? = some ((((y.cairnAt t.lpos).map (fun c => c.blocks)).getD [])[k]?.getD 0)) ∧
             ((∀ p ∈ s.cairnBlocks, p.1 < 4 * s.nextKey) → ∀ k < t.blockCount,
               y.cairns = [] ∨ (∃ z, logged.findStream t.id = some z ∧ k ∈ z.written) →
               s.retiredAt (t.pa (segBlock t.segs k)) = false → u.storedBlock (c.blocks[k]?.getD 0) = u.bytesAt die (t.pa (segBlock t.segs k)) 4096)) ∧
           (∀ p, (∃ c ∈ x.cairns, c.pos = p) ↔ (p = n ∨ ∃ c ∈ y.cairns, c.pos = p) ∧
             (p = 0 ∨ p ∈ y.pins ∨ ∃ k ≤ t.k, p = n / 2 ^ k * 2 ^ k ∨ p + 2 ^ k = n / 2 ^ k * 2 ^ k))))) ∧
  ((∀ (s : State) (die need : Nat),
     let free (s : State) : Nat := s.cairnTotal die - (s.cairnUsed die + need)
     let u := s.press die need
     (s.streams.map (fun t => t.id)).Nodup → (∀ t ∈ s.streams, t.cls < 4 ∧ (t.cairns.map (fun c => c.pos)).Pairwise (fun a b => a < b)) →
       (s.cairnTotal die ≤ 16 * free s → u = s) ∧
       (16 * free s < s.cairnTotal die → s.cairnTotal die ≤ 8 * free u ∨ ∀ t ∈ u.streams, streamDie t.id = die → victimOf t t.cairns none = none) ∧
       (∀ t ∈ s.streams, ∃ x ∈ u.streams, x = { t with cairns := x.cairns } ∧ x.cairns.Sublist t.cairns ∧
         (streamDie t.id ≠ die → x.cairns = t.cairns) ∧ (∀ c ∈ t.cairns, c.pos = 0 ∨ c.pos = t.lpos ∨ c.pos ∈ t.pins → c ∈ x.cairns) ∧
         (x.cairns ≠ t.cairns → ∀ y ∈ u.streams, streamDie y.id = die → y.cls < t.cls → victimOf y y.cairns none = none)) ∧
       u.mem = s.mem ∧ u.hart = s.hart ∧ u.others = s.others ∧ u.dies = s.dies ∧ u.cairnBlocks.Sublist s.cairnBlocks) ∧
   ∀ (t : Stream) (p : Nat), (t.cairns.map (fun c => c.pos)).Pairwise (fun a b => a < b) →
     let pos (i : Nat) : Nat := ((t.cairns.map (fun c => c.pos))[i]?).getD 0
     let may (i : Nat) : Prop := 0 < i ∧ i < t.cairns.length ∧ pos i ≠ t.lpos ∧ pos i ∉ t.pins
     (victimOf t t.cairns none = some p ↔ ∃ i, may i ∧ pos i = p ∧ ∀ j, may j →
       pos i - pos (i - 1) < pos j - pos (j - 1) ∨ (pos i - pos (i - 1) = pos j - pos (j - 1) ∧ i ≤ j)))

/-- R282, R283, R285: `lrewind` goes back to the largest held position at or below the one asked for, drops the cairns above it, and starts
a restore of every chunk that reports into pd; above LPOS it answers −3. While a restore is under way it waits; that the hart waits with it is
entry 24.
R238, R280, R283, R284, R359: the ladder engine's steps: a block copy is done; a chunk of a restore is in place, its bit set for every hart
that waits for it, and the restore is over with its last; a chunk that met a persistent error marks the stream and is zero. The chunk's blocks
are those of the cairn, the exact-region words come with chunk 0, and no other byte changes. A byte that was stored to while the restore was
under way is restored or as stored (entry 10). That a block which an error left zero, or which a store met, is written since the last cut is the
model's reading (entry 19, DEDUCED). -/
def Obligations.LadderRestores : Prop :=
  (∀ (s : State) (t : Stream) (i : Instr) (pd : BitVec 6) (rd rs1 : Reg) (v : Word) (len : Nat), s.hart.cond ≠ .vacant →
     SysForm s i (.lrewind pd rd rs1) (.lrewind pd rd) rs1 v len → s.absent [] [pd.toNat] [] = none → Calm s →
     (s.boundStream = none → Gives i s len rd (BitVec.ofInt 64 (-1))) ∧
     (s.boundStream = some t → t.restore.isSome = true → exec i s = .next { s with hart := { s.hart with cond := .waiting .engine } }) ∧
     (s.boundStream = some t → t.restore = none →
       let p := v.toNat
       let n := t.chunkCount
       (t.lpos < p ∨ s.bits < n → Gives i s len rd (BitVec.ofInt 64 (-3))) ∧
       (p ≤ t.lpos → n ≤ s.bits → (∃ c ∈ t.cairns, c.pos = 0) →
         ∃ (u : State) (x : Stream) (m : Nat), exec i s = .next u ∧ Retired s u len ∧ Untouched [.vec, .streams, .cairns] [rd] s u ∧ SameBytes Nowhere s u ∧
           (∃ c ∈ t.cairns, c.pos = m) ∧ m ≤ p ∧ (∀ c ∈ t.cairns, c.pos ≤ p → c.pos ≤ m) ∧
           u.getX rd = (if rd = 0#5 then 0 else BitVec.ofNat 64 m) ∧ u.findStream t.id = some x ∧ x.lpos = m ∧ x.ltarget = p ∧ x.llen = p ∧
           x.lcost = p - m ∧ x.cmps = 0 ∧ x.bad = false ∧ x.cairns = t.cairns.filter (fun c => decide (c.pos ≤ m)) ∧
           (∃ r, x.restore = some r ∧ r.chunks = List.range n ∧ r.reports = [(s.hart.key, pd)]) ∧
           (0 < pd.toNat → pd.toNat < 48 → ∀ e, (u.pred pd.toNat).testBit e = (decide (n ≤ e) && (s.pred pd.toNat).testBit e))))) ∧
  (∀ (s : State) (t : Stream), s.findStream s.args.item = some t → s.Inv →
     let c := s.args.chunk
     let die := streamDie t.id
     (∃ u x, exec .cairnBlockCopy s = .next u ∧ u.findStream s.args.item = some x ∧ x.copies = t.copies.filter (fun b => b != c) ∧
       x.cairns = t.cairns ∧ x.lpos = t.lpos ∧ u.mem = s.mem ∧ u.hart = s.hart ∧ u.others = s.others) ∧
     (∀ r, t.restore = some r → c ∈ r.chunks →
       let good := s.args.good && !s.chunkRetired t r c
       let place (b : Nat) : Nat := t.pa (segBlock t.segs b)
       let word (k : Nat) : Prop := c = 0 ∧ r.exact ≠ none ∧ ∃ a ∈ t.exws, Span (t.pa a) 8 k
       let block (k : Nat) : Prop := ∃ b, b / 16 = c ∧ b < t.blockCount ∧ Span (place b) 4096 k
       let plain (k : Nat) : Prop := Shown s k ∧ (homeOf k = die → outboundByte (s.die die).outbound k = none)
       let inPage : Prop := ∀ b, b / 16 = c → b < t.blockCount → place b / 2 ^ 16 = (place b + 4095) / 2 ^ 16
       let apart (n : Nat) (k q : Nat) : Prop := k + n ≤ q ∨ q + n ≤ k
       ∃ u x, exec .ladderRestoreChunk s = .next u ∧ u.findStream s.args.item = some x ∧ x.lpos = t.lpos ∧ x.cairns = t.cairns ∧
         SameBytes (fun k => word k ∨ block k) s u ∧
         (inPage → (∀ b d, b / 16 = c → d / 16 = c → b < d → d < t.blockCount → apart 4096 (place b) (place d)) →
           ∀ b, b / 16 = c → b < t.blockCount → ∀ j < 4096, plain (place b + j) → ¬ word (place b + j) →
             let v := if good then (s.storedBlock (r.blocks[b]?.getD 0))[j]?.getD 0 else 0
             (r.wasStored (place b + j) = false → u.byteAt die (place b + j) = v) ∧
             (u.byteAt die (place b + j) = v ∨ u.byteAt die (place b + j) = s.byteAt die (place b + j))) ∧
         (∀ v, inPage → c = 0 → r.exact = some v → (∀ a ∈ t.exws, ∀ a' ∈ t.exws, t.pa a = t.pa a' ∨ apart 8 (t.pa a) (t.pa a')) →
           ∀ a ∈ t.exws, t.pa a % 8 = 0 → (∀ j < 8, plain (t.pa a + j)) → u.bytesAt die (t.pa a) 8 = natLe 8 v) ∧
         (∀ b, b / 16 = c → b < t.blockCount → good = false ∨ (∃ j < 4096, r.wasStored (place b + j) = true) → b ∈ x.written) ∧ x.bad = (t.bad || !good) ∧ ((∀ k ∈ r.chunks, k = c) → x.restore = none) ∧
         ((∃ k ∈ r.chunks, k ≠ c) → ∃ q, x.restore = some q ∧ ∀ k, k ∈ q.chunks ↔ k ∈ r.chunks ∧ k ≠ c) ∧
         u.jobs = s.jobs ∧ u.gangs = s.gangs ∧ u.transfers = s.transfers ∧
         (∀ h ∈ u.hart :: u.others, h.cond ≠ .vacant → ∀ pd : BitVec 6, (h.key, pd) ∈ r.reports → c < 4096 * h.id.lanes → pd.toNat < 48 →
           (h.vec.preds[pd.toNat]?.getD 0).testBit c = true)) ∧
     (∀ r, t.restore = some r → c ∉ r.chunks → exec .ladderRestoreChunk s = .next s)
)

/-- R278, R287, R290, R291: `lmatch` answers how far a sequence agrees with the log and the steps back to the nearest cairn; `lclose` and
`lclose.s` end the binding and answer LPOS. Stated for a hart whose accesses are performed in program order; that the whole hart waits for
the pending block copies is entry 24, and that `lmatch` of a log in a retired block sets LREPLAY.BAD is entry 19 (DESIGN CHOICE).
R274, R278, R289, R291: `lopen` binds a stream of the hart's die and context, translates its memory anew, and answers LPOS: a stream
swapped out is then restored from the cairn at LPOS, and of any other every chunk is in place. `lfork` makes a stream with the parent's
cairns, position and log, whose segments come from the parent's last cairn. What they answer where they cannot. That a binding waits for a
rewind's restore, that every binding translates anew, that room is counted in uncompressed blocks and that what pressure dropped stays
dropped when −5 is answered is entry 19 (DEDUCED, DESIGN CHOICE); that the whole hart waits is entry 24. Stated for a hart whose accesses are
performed in program order. -/
def Obligations.LadderBindings : Prop :=
  (∀ (s : State) (t : Stream) (rd rs1 rs2 : Reg) (seq : List Nat), s.hart.cond ≠ .vacant → Calm s →
     (s.boundStream = none → Gives (.lmatch rd rs1 rs2) s 4 rd (BitVec.ofInt 64 (-1)) ∧ Gives (.lclose rd) s 4 rd (BitVec.ofInt 64 (-1)) ∧
       Gives (.lcloseS rd) s 4 rd (BitVec.ofInt 64 (-1))) ∧
     (s.boundStream = some t → t.restore = none →
       let c := (s.getX rs2).toNat
       let closed (i : Instr) (swap : Bool) : Prop := ∃ u, exec i s = .next u ∧ Retired s u 4 ∧
         Untouched [.eng, .streams] [rd] s u ∧ SameBytes Nowhere s u ∧
         u.getX rd = (if rd = 0#5 then 0 else BitVec.ofNat 64 t.lpos) ∧ u.hart.eng = { s.hart.eng with stream := none } ∧
         u.streams = s.streams.map (fun o => if o.id = t.id then { o with bound := o.bound - 1, swapped := o.swapped || swap } else o)
       (c = 0 ∨ 65536 < c → Gives (.lmatch rd rs1 rs2) s 4 rd (BitVec.ofInt 64 (-3))) ∧
       (1 ≤ c → c ≤ 65536 → s.loadTokens (s.getX rs1) c = .ok seq →
         ∃ lm, lm ≤ c ∧ lm ≤ t.llen ∧ (∀ j < lm, seq[j]? = some (s.logToken t (j + 1))) ∧
           (lm < c → lm < t.llen → seq[lm]? ≠ some (s.logToken t (lm + 1))) ∧
           let lost := s.logRetired t 1 (min c t.llen)
           Completes (.lmatch rd rs1 rs2) s 4 (if lost then [.tlb, .streams] else [.tlb]) [rd] Nowhere (fun u =>
             (lost = true → u.streams = s.streams.map (fun o => if o.id = t.id then { o with bad := true } else o)) ∧ u.getX rd = if rd = 0#5 then 0 else BitVec.ofNat 64 ((lm - t.heldBelow lm) * 2 ^ 32 + lm))) ∧
       closed (.lclose rd) false ∧
       (1 < t.bound → Gives (.lcloseS rd) s 4 rd (BitVec.ofInt 64 (-3))) ∧
       (t.bound ≤ 1 → t.copies ≠ [] → exec (.lcloseS rd) s = .next { s with hart := { s.hart with cond := .waiting .engine } }) ∧
       (t.bound ≤ 1 → t.copies = [] → closed (.lcloseS rd) true))) ∧
  (∀ (s : State) (t : Stream) (i : Instr) (pd : BitVec 6) (rd rs1 : Reg) (v : Word) (len : Nat), s.hart.cond ≠ .vacant → s.Inv → Calm s →
     s.absent [] [pd.toNat] [] = none →
     let find (v : Word) : Option Stream := (s.streamsOf s.dieOf).find? (fun t => t.id == v.toNat && t.ctx == s.hart.id.ctx)
     (SysForm s i (.lopen pd rd rs1) (.lopen pd rd) rs1 v len →
       (s.hart.eng.stream ≠ none → Gives i s len rd (BitVec.ofInt 64 (-7))) ∧
       (s.hart.eng.stream = none → find v = none → Gives i s len rd (BitVec.ofInt 64 (-2))) ∧
       (s.hart.eng.stream = none → find v = some t →
         (∀ r, t.restore = some r → r.rewind = true → exec i s = .next { s with hart := { s.hart with cond := .waiting .engine } }) ∧
         ((∀ r, t.restore = some r → r.rewind = false) → s.streamPages s.dieOf t = none → Gives i s len rd (BitVec.ofInt 64 (-6))) ∧
         ((∀ r, t.restore = some r → r.rewind = false) → s.streamPages s.dieOf t ≠ none → s.bits < t.chunkCount →
           Gives i s len rd (BitVec.ofInt 64 (-3))) ∧
         (∀ pages, t.restore = none → s.streamPages s.dieOf t = some pages → t.cairns ≠ [] → t.chunkCount ≤ s.bits →
           ∃ u x, exec i s = .next u ∧ Retired s u len ∧ Untouched [.vec, .eng, .streams] [rd] s u ∧ SameBytes Nowhere s u ∧
             u.getX rd = (if rd = 0#5 then 0 else BitVec.ofNat 64 t.lpos) ∧ u.hart.eng = { s.hart.eng with stream := some t.id } ∧
             u.findStream t.id = some x ∧ x.bound = t.bound + 1 ∧ x.lpos = t.lpos ∧ x.cairns = t.cairns ∧ x.pages = pages ∧
             x.swapped = false ∧ (t.swapped = false → x.restore = none) ∧
             (t.swapped = true → ∃ r, x.restore = some r ∧ r.chunks = List.range t.chunkCount ∧ r.reports = [(s.hart.key, pd)] ∧
               r.exact = none ∧ r.rewind = false ∧ ∀ c, t.cairnAt t.lpos = some c → r.blocks = c.blocks) ∧
             (0 < pd.toNat → pd.toNat < 48 → ∀ e < t.chunkCount, (u.pred pd.toNat).testBit e = !t.swapped)) ∧
         (∀ pages, t.restore = none → s.streamPages s.dieOf t = some pages → t.cairns = [] → t.chunkCount ≤ s.bits →
           (s.cairnTotal s.dieOf < (s.press s.dieOf t.blockCount).cairnUsed s.dieOf + t.blockCount →
             ∃ u, exec i s = .next u ∧ Retired s u len ∧ Untouched [.streams, .cairns] [rd] s u ∧ SameBytes Nowhere s u ∧
               u.streams = (s.press s.dieOf t.blockCount).streams ∧ u.getX rd = (if rd = 0#5 then 0 else BitVec.ofInt 64 (-5))) ∧
           ((s.press s.dieOf t.blockCount).cairnUsed s.dieOf + t.blockCount ≤ s.cairnTotal s.dieOf →
             ∃ u x, exec i s = .next u ∧ Retired s u len ∧ SameBytes Nowhere s u ∧ u.findStream t.id = some x ∧ x.bound = t.bound + 1 ∧
               (∃ c, x.cairns = [c] ∧ c.pos = 0 ∧ c.blocks.length = t.blockCount) ∧
               u.getX rd = (if rd = 0#5 then 0 else BitVec.ofNat 64 t.lpos))))) ∧
     let fork := Instr.lfork pd rd rs1
     let fails (r : Int) : Prop := Gives fork s 4 rd (BitVec.ofInt 64 r)
     (s.boundStream = none → fails (-1)) ∧
     (s.boundStream = some t → t.restore.isSome = true → exec fork s = .next { s with hart := { s.hart with cond := .waiting .engine } }) ∧
     (s.boundStream = some t → t.restore = none →
       let record : Option Stream := if (s.getX rs1).toNat % 8 = 0 then
         (s.engineRecord (s.getX rs1) 512).bind (streamOfRecord s.hart.id.ctx s.hart.id.root) else none
       (record = none → fails (-6)) ∧
       ∀ child, record = some child →
         (s.streamPages s.dieOf child = none ∨ child.segs.map (fun p => p.2) ≠ t.segs.map (fun p => p.2) → fails (-6)) ∧
         ∀ pages, s.streamPages s.dieOf child = some pages → child.segs.map (fun p => p.2) = t.segs.map (fun p => p.2) →
           (child.logcap < t.lpos → fails (-4)) ∧
           (t.lpos ≤ child.logcap → s.freeStream s.dieOf = none → fails (-8)) ∧
           ∀ id, t.lpos ≤ child.logcap → s.freeStream s.dieOf = some id →
             (s.bits < t.chunkCount → fails (-3)) ∧
             (t.chunkCount ≤ s.bits →
               let spot (j : Nat) : Nat := ({ child with pages := pages } : Stream).pa (child.logbase + 4 * j)
               let plain (k : Nat) : Prop := Shown s k ∧ (homeOf k = s.dieOf → outboundByte (s.die s.dieOf).outbound k = none)
               ∃ u x, exec fork s = .next u ∧ Retired s u 4 ∧ Untouched [.vec, .tlb, .dies, .mem, .streams, .stale] [rd] s u ∧
                 SameBytes (fun k => ∃ j < t.lpos, Span (spot j) 4 k) s u ∧
                 u.getX rd = (if rd = 0#5 then 0 else BitVec.ofNat 64 id) ∧ u.findStream id = some x ∧ x.cairns = t.cairns ∧ x.lpos = t.lpos ∧
                 x.llen = t.lpos ∧ x.ltarget = 0 ∧ x.lcost = 0 ∧ x.bound = 0 ∧ x.pins = [] ∧ x.segs = child.segs ∧ x.exws = child.exws ∧
                 x.k = child.k ∧ x.cls = child.cls ∧
                 (∃ r, x.restore = some r ∧ r.chunks = List.range t.chunkCount ∧ r.reports = [(s.hart.key, pd)] ∧ r.exact = some t.lpos ∧
                   ∀ c, t.cairnAt t.lpos = some c → r.blocks = c.blocks) ∧
                 ((∀ i j, i < j → j < t.lpos → spot i + 4 ≤ spot j ∨ spot j + 4 ≤ spot i) → (∀ j < t.lpos, ∀ k < 4, plain (spot j + k)) →
                   s.logRetired t 1 t.lpos = false → ∀ j < t.lpos, s.retiredAt (spot j) = false → u.logToken x (j + 1) = s.logToken t (j + 1)) ∧
                 (0 < pd.toNat → pd.toNat < 48 → ∀ e, (u.pred pd.toNat).testBit e = (decide (t.chunkCount ≤ e) && (s.pred pd.toNat).testBit e)))))

/-! ### Effects, frames and tokens -/

/-- R292, R301 to R307: a hardware effect that finds a frame and a free record enters its handler; `perform` and `vperform` do so with the
effect they name, and answer their handler's value after themselves; ids that are reserved are illegal, and `vperform` of no element gives 0,
whatever its id (entry 27, DEDUCED). With no record of 0 to 62 free the hart enters a supervisor frame through record 63 instead, with
TokenExhausted, the effect's id and its argument, an empty active mask and pre-emption masked (R306, R307); with record 63 in use too, or no
such frame, it halts. A hart whose record lies in a retired block halts (entry 27, DESIGN CHOICE). Stated for a hart that holds no access
back.
R296, R301, R304, R307: the search takes the first visible frame that admits the effect; with none the hart halts and its job is marked
failed. A spill read that faults halts it too, with the effect of that access (entry 27, DESIGN CHOICE). -/
def Obligations.EffectEntry : Prop :=
  (∀ (s : State) (i k : Nat) (f : Frame), s.hart.cond ≠ .vacant → s.Inv → s.hart.order = .start →
     let halts (t : State) (id : BitVec 16) : Prop := t.hart = { s.hart with cond := .halted id (s.hart.pc &&& 0x00FFFFFFFFFFFFFE) } ∧ t.mem = s.mem
     let super (f : Frame) : Bool := f.priv && f.matches 0x000D true
     (∀ tr, Handled s tr.id i k f → Entered s (s.deliver tr) i k f tr 1 false (if tr.underPf || s.hart.eff.underPf then .underPf else .again)) ∧
     (∀ tr, s.search (fun f => f.matches tr.id s.hart.priv.sup) 256 s.hart.eff.srch = .frame k f →
       (s.freeToken (List.range 63) = some i → s.retiredAt (s.recordKey i 0) = true → halts (s.deliver tr) 0x0007) ∧
       (s.freeToken (List.range 63) = none →
         (s.freeToken [63] = none → halts (s.deliver tr) 0x000D) ∧
         (s.freeToken [63] = some i → s.search super 256 s.hart.eff.srch = .nothing → halts (s.deliver tr) 0x000D) ∧
         (∀ k' f', s.freeToken [63] = some i → s.search super 256 s.hart.eff.srch = .frame k' f' → s.retiredAt (s.recordKey i 0) = false →
           i = 63 ∧ (s.deliver tr).hart.eff.pmask = true ∧
           Entered s (s.deliver tr) i k' f' ⟨0x000D, tr.id.setWidth 64, tr.arg, 0, tr.underPf⟩ 1 false
             (if tr.underPf || s.hart.eff.underPf then .underPf else .again)))) ∧
     (∀ (j : Instr) (rd rs1 rs2 : Reg) (v : Word) (len : Nat), SysForm s j (.perform rd rs1 rs2) (.perform rd rs2) rs1 v len →
       let n := v.toNat % 2 ^ 16
       (n = 0 ∨ (0x10 ≤ n ∧ n ≤ 0xFF) → Traps j s s.illegal) ∧
       (¬(n = 0 ∨ (0x10 ≤ n ∧ n ≤ 0xFF)) → Handled s (BitVec.ofNat 16 n) i k f →
         ∃ t, exec j s = .next t ∧ Entered s t i k f ⟨BitVec.ofNat 16 n, s.getX rs2, 0, 0, false⟩ 0 false (.after len rd))) ∧
     (∀ (j : Instr) (pg : BitVec 4) (rd rs1 rs2 : Reg) (v : Word) (len : Nat),
       SysForm s j (.vperform pg rd rs1 rs2) (.vperform pg rd rs2) rs1 v len → s.absent [] [pg.toNat] [] = none →
       let n := v.toNat % 2 ^ 16
       let pm := s.pred pg.toNat % 2 ^ s.hart.vec.vl
       let count := ((List.range s.hart.vec.vl).filter (fun e => (s.pred pg.toNat).testBit e)).length
       (count = 0 → Gives j s len rd 0) ∧
       (0 < count → n = 0 ∨ (0x10 ≤ n ∧ n ≤ 0xFF) → Traps j s s.illegal) ∧
       (0 < count → ¬(n = 0 ∨ (0x10 ≤ n ∧ n ≤ 0xFF)) → Handled s (BitVec.ofNat 16 n) i k f →
         ∃ t, exec j s = .next t ∧ Entered s t i k f ⟨BitVec.ofNat 16 n, s.getX rs2, BitVec.ofNat 64 count, pm, false⟩ 0 true (.after len rd)))) ∧
  (∀ (s : State) (tr : Trap), s.hart.order = .start →
     let ok (f : Frame) : Bool := f.matches tr.id s.hart.priv.sup
     (∀ n m k f, s.search ok n m = .frame k f → s.getFrame k = .ok f ∧ ok f = true) ∧
     (∀ n m e, s.getFrame m = .error e → s.search ok (n + 1) (m + 1) = .spillFault e) ∧
     (∀ n m f, s.getFrame m = .ok f → ok f = true → s.search ok (n + 1) (m + 1) = .frame m f) ∧
     (∀ n m f, s.getFrame m = .ok f → ok f = false → s.search ok (n + 1) (m + 1) = s.search ok n f.link.toNat) ∧
     (∀ f : Frame, ok f = true ↔ f.lo.toNat ≤ tr.id.toNat ∧ tr.id.toNat ≤ f.hi.toNat ∧ (f.priv = true ∨ (s.hart.priv.sup = false ∧
       tr.id ≠ 0x0008 ∧ tr.id ≠ 0x0009 ∧ tr.id ≠ 0x000D ∧ tr.id ≠ 0x000E ∧ tr.id.toNat < 0x8000))) ∧
     ∀ id, (s.search ok 256 s.hart.eff.srch = .nothing ∧ id = tr.id ∨ s.search ok 256 s.hart.eff.srch = .spillFault id) →
       let t := s.deliver tr
       let epc := s.hart.pc &&& 0x00FFFFFFFFFFFFFE
       t.hart = { s.hart with cond := .halted id epc } ∧ t.mem = s.mem ∧ t.others = s.others ∧ t.jobs.length = s.jobs.length ∧
         ∀ j, s.findJob s.hart.id.job = some j → j.failed = none → t.findJob s.hart.id.job = some { j with failed := some (id, epc) })

/-- R92, R296, R299, R300, R304, R359: `hpush` makes a frame, visible from then on, and writes the frame that it pushes out of hardware to its
spill slot; `hpop` takes the top frame away, reads back the frame that comes into hardware and frees the tokens that entered the popped one. The
slots of frames that hardware takes up no longer hold anything defined; no other byte changes. A `hpush` whose slot lies outside the partition
raises Protection of a store to it and changes nothing else. A spill write into a retired block, and a spill read of `hpop` that faults, halts
the hart with the effect of that access; which effect that is is entry 27 (DESIGN CHOICE). -/
def Obligations.FrameStack : Prop :=
  ∀ (s : State) (rd rs1 rs2 : Reg), s.hart.cond ≠ .vacant → s.Inv → s.hart.order = .start →
    let e := s.hart.eff
    let lo := (s.getX rs1).toNat % 2 ^ 16
    let hi := (s.getX rs1).toNat / 2 ^ 16
    let ok : Prop := (s.getX rs1).toNat < 2 ^ 32 ∧ lo ≠ 0 ∧ lo ≤ hi ∧ (s.getX rs2).toNat % 2 = 0 ∧ e.depth < 255
    let window := 2 ^ 61 + s.hart.id.core * 2 ^ 18
    let slot (f k : Nat) : Prop := window ≤ k ∧ k < window + 2 ^ 18 ∧ Span (e.hsp.toNat + 32 * f) 32 (0x7F0100000000 + (k - window))
    (¬ ok → Traps (.hpush rd rs1 rs2) s s.illegal) ∧
    (∀ f, let va := (e.hsp + BitVec.ofNat 64 (32 * f)).toNat
      let inside := 0x7F0100000000 + 4096 * s.hart.priv.sdbase.toNat ≤ va ∧ va < 0x7F0100000000 + 4096 * s.hart.priv.sdlim.toNat
      let key := window + (va - 0x7F0100000000)
      (¬ inside → s.slotKey f = .error 0x0006) ∧ (inside → s.retiredAt key = true → s.slotKey f = .error 0x0007) ∧
      (inside → s.retiredAt key = false → s.slotKey f = .ok key)) ∧
    (ok → 8 ≤ e.depth → s.slotKey (e.depth - 8) = .error 0x0006 →
      Traps (.hpush rd rs1 rs2) s ⟨0x0006, e.hsp + BitVec.ofNat 64 (32 * (e.depth - 8)), BitVec.ofNat 64 (2 * 2 ^ 62), 0, false⟩) ∧
    (ok → 8 ≤ e.depth → s.slotKey (e.depth - 8) = .error 0x0007 → ∃ t, exec (.hpush rd rs1 rs2) s = .next t ∧
      t.hart = { s.hart with cond := .halted 0x0007 (s.hart.pc &&& 0x00FFFFFFFFFFFFFE) } ∧ t.mem = s.mem ∧ t.others = s.others) ∧
    (ok → (e.depth < 8 ∨ ∃ key, s.slotKey (e.depth - 8) = .ok key) →
      Completes (.hpush rd rs1 rs2) s 4 [.eff, .mem] [rd] (fun k => slot e.depth k ∨ (8 ≤ e.depth ∧ slot (e.depth - 8) k))
        (fun t => t.getX rd = 0 ∧ t.hart.eff.depth = e.depth + 1 ∧
        t.hart.eff.srch = e.depth + 1 ∧ t.hart.eff.pushes = e.pushes + 1 ∧ t.hart.eff.tokens = e.tokens ∧ t.hart.eff.pmask = e.pmask ∧
        t.hart.eff.ppend = e.ppend ∧ t.hart.eff.frames = ((⟨e.pushes + 1, BitVec.ofNat 16 lo, BitVec.ofNat 16 hi, BitVec.ofNat 8 e.srch,
          s.getX rs2 &&& 0x00FFFFFFFFFFFFFE, s.hart.priv.sup, rd, (s.hart.pc + 4) &&& 0x00FFFFFFFFFFFFFE, s.getX 2⟩ : Frame) :: e.frames).take 8 ∧
        ∀ bottom key, e.frames[7]? = some bottom → s.slotKey (e.depth - 8) = .ok key → Sparse.getList 0 t.mem key 32 = bottom.bytes)) ∧
    (e.frames = [] → Traps .hpop s s.illegal) ∧
    (∀ f rest, e.frames = f :: rest →
      (e.srch ≠ e.depth ∨ f.exit = 0 → Traps .hpop s s.illegal) ∧
      (e.srch = e.depth → f.exit ≠ 0 → f.priv = true → s.hart.priv.sup = false → Traps .hpop s s.privileged) ∧
      (e.srch = e.depth → f.exit ≠ 0 → (f.priv = true → s.hart.priv.sup = true) → 8 < e.depth → ∀ id, s.getFrame (e.depth - 9) = .error id →
        ∃ t, exec .hpop s = .next t ∧ t.hart.cond = .halted id (s.hart.pc &&& 0x00FFFFFFFFFFFFFE)) ∧
      (e.srch = e.depth → f.exit ≠ 0 → (f.priv = true → s.hart.priv.sup = true) → (8 < e.depth → ∃ g, s.getFrame (e.depth - 9) = .ok g) →
        let freed (o : Token) : Prop := o.kind ≠ .free ∧ o.frame = e.depth - 1 ∧ o.serial = f.serial
        let state (j : Nat) : Nat := s.recordKey j 88
        ∃ t, exec .hpop s = .next t ∧ Retired s t 4 ∧ Untouched [.eff, .mem, .waits] [] s t ∧ (s.waits = [] → t.waits = []) ∧ t.hart.eff.depth = e.depth - 1 ∧
          SameBytes (fun k => slot (e.depth - 1) k ∨ (8 < e.depth ∧ slot (e.depth - 9) k) ∨
            ∃ j o, e.tokens[j]? = some o ∧ freed o ∧ k = state j) s t ∧
          t.hart.eff.srch = f.link.toNat ∧ t.hart.eff.frames.take rest.length = rest ∧ t.hart.eff.pmask = e.pmask ∧
          (8 < e.depth → ∀ g, s.getFrame (e.depth - 9) = .ok g → t.hart.eff.frames = rest ++ [g]) ∧
          ∀ (j : Nat) (o : Token), e.tokens[j]? = some o →
            t.hart.eff.tokens[j]? = some (if o.kind ≠ .free ∧ o.frame = e.depth - 1 ∧ o.serial = f.serial then { o with kind := .free } else o) ∧
            (freed o → s.retiredAt (state j) = false → ¬ slot (e.depth - 1) (state j) → Sparse.get 0 t.mem (state j) = (Sparse.get 0 s.mem (state j) &&& 0xF9))))

/-- R99, R296, R304, R308 to R313, R359: a token that no longer stands, for each of its reasons, is dead, and a supervisor frame's is a supervisor's; one whose
record or capture lies in a retired block raises MemoryUncorrectable, whose argument is the model's (entry 27, DESIGN CHOICE). `resume` goes
back to the performer with its registers, its privilege and the value; that of a `perform` counts two retirements (entry 27, DEDUCED), and a
VL that the lanes do not hold is illegal for a multi-shot token too (entry 27, DESIGN CHOICE). `abort` unwinds to the frame's exit; where the
read back of a frame faults, the hart halts with the effect of that access (which effect is entry 27, DESIGN CHOICE). `tkeep` makes a token
multi-shot; `tdrop` frees it. Stated for a hart that holds no access back. -/
def Obligations.Resumption : Prop :=
  ∀ (s : State) (rs1 rs2 : Reg) (v : Word) (len : Nat), s.hart.cond ≠ .vacant → s.Inv → s.hart.order = .start →
    let w := s.getX rs1
    let n := w.toNat % 64
    let on (i : Instr) : Prop := SysForm s i (.resume rs1 rs2) (.resume rs1) rs2 v len ∨ SysForm s i (.abort rs1 rs2) (.abort rs1) rs2 v len ∨
      i = .tdrop rs1 ∨ (i = .tkeep rs1 rs2 ∧ s.absent (namedRegs s.hart.eff.vcap.toNat) (namedPreds s.hart.eff.pcap.toNat) [] = none)
    (∀ i, on i → s.findToken w = .dead → Traps i s ⟨0x000C, w, 0, 0, false⟩) ∧
    (∀ i m o f, on i → s.findToken w = .live m o f → f.priv = true → s.hart.priv.sup = false → Traps i s s.privileged) ∧
    (∀ i m o f tr, on i → s.findToken w = .live m o f → (f.priv = true → s.hart.priv.sup = true) →
      s.lostTarn (s.recordAddr m) 128 .load = some tr → Traps i s tr ∧ tr.id = 0x0007) ∧
    (∀ o, s.hart.eff.tokens[n]? = some o →
      (w.toNat / 2 ^ 6 % 2 ^ 26 ≠ 0 ∨ o.kind = .free ∨ o.gen.toNat ≠ w.toNat / 2 ^ 32 ∨ s.hart.eff.depth ≤ o.frame ∨
        (∃ f, s.getFrame o.frame = .ok f ∧ (f.serial ≠ o.serial ∨ s.hart.eff.depth < o.depth ∨
          (0 < o.depth ∧ ∃ g, s.getFrame (o.depth - 1) = .ok g ∧ g.serial ≠ o.topSerial))) → s.findToken w = .dead) ∧
      (∀ f, w.toNat / 2 ^ 6 % 2 ^ 26 = 0 → o.kind ≠ .free → o.gen.toNat = w.toNat / 2 ^ 32 → o.frame < s.hart.eff.depth →
        s.getFrame o.frame = .ok f → f.serial = o.serial → o.depth ≤ s.hart.eff.depth →
        (0 < o.depth → ∃ g, s.getFrame (o.depth - 1) = .ok g ∧ g.serial = o.topSerial) → s.findToken w = .live n o f)) ∧
    (∀ (i : Instr) (n : Nat) (o : Token) (f : Frame), s.findToken w = .live n o f → (f.priv = true → s.hart.priv.sup = true) →
      s.lostTarn (s.recordAddr n) 128 .load = none →
      let kept : Option Trap := if o.kind = .multiShot then s.lostTarn o.capaddr (s.captureBytes o) .load else none
      (∀ tr, SysForm s i (.resume rs1 rs2) (.resume rs1) rs2 v len → kept = some tr → Traps i s tr ∧ tr.id = 0x0007) ∧
      (SysForm s i (.resume rs1 rs2) (.resume rs1) rs2 v len → kept = none → s.hart.mat.m = false → 4096 * s.lanes < s.resumeVl n o →
        Traps i s s.illegal) ∧
      (∀ id, SysForm s i (.resume rs1 rs2) (.resume rs1) rs2 v len → kept = none → (s.hart.mat.m = true ∨ s.resumeVl n o ≤ 4096 * s.lanes) →
        s.popFrames (s.hart.eff.depth - o.depth) = .error id →
        ∃ t, exec i s = .next t ∧ t.hart.cond = .halted id (s.hart.pc &&& 0x00FFFFFFFFFFFFFE)) ∧
      (∀ p, SysForm s i (.resume rs1 rs2) (.resume rs1) rs2 v len → kept = none → (s.hart.mat.m = true ∨ s.resumeVl n o ≤ 4096 * s.lanes) →
        s.popFrames (s.hart.eff.depth - o.depth) = .ok p →
        ∃ t, exec i s = .next t ∧ t.hart.cond = .running ∧ t.hart.priv = { s.hart.priv with sup := o.sup } ∧ t.hart.eff.srch = o.srch ∧
          t.hart.eff.pmask = o.pmask ∧ t.hart.eff.depth = p.hart.eff.depth ∧ t.hart.eff.frames = p.hart.eff.frames ∧
          (match o.resume with
            | .after n rd => t.hart.retired = s.hart.retired + 2 ∧ t.getX rd = (if rd = 0#5 then 0 else v) ∧ (o.kind = .oneShot → t.hart.pc = (s.hart.loopTest (o.epc + BitVec.ofNat 64 n) false).pc)
            | .again => t.hart.retired = s.hart.retired + 1 ∧ t.hart.pc = o.epc ∧ t.hart.eff.underPf = false
            | .underPf => t.hart.retired = s.hart.retired + 1 ∧ t.hart.pc = o.epc ∧ t.hart.eff.underPf = true) ∧
          (o.kind = .oneShot → ∃ q, t.hart.eff.tokens[n]? = some q ∧ q.kind = .free) ∧
          (∀ r : Reg, o.kind = .oneShot → (∀ n, o.resume ≠ .after n r) → t.getX r =
            (if r = 8#5 then p.recordWord n 32 else if r = 9#5 then p.recordWord n 40 else if r = 10#5 then p.recordWord n 48
             else if r = 11#5 then p.recordWord n 56 else s.getX r)) ∧
          (∀ r : Reg, o.kind = .multiShot → r ≠ 0#5 → (∀ n, o.resume ≠ .after n r) →
            t.getX r = p.captureWord (p.captureKey o) (8 * (r.toNat - 1)))) ∧
      (∀ p, SysForm s i (.abort rs1 rs2) (.abort rs1) rs2 v len → f.exit ≠ 0 → s.popFrames (s.hart.eff.depth - o.frame) = .ok p →
        ∃ t, exec i s = .next t ∧ t.hart.cond = .running ∧ t.hart.pc = f.exit ∧ t.hart.priv = { s.hart.priv with sup := f.priv } ∧
          t.hart.eff.depth = o.frame ∧ t.hart.eff.srch = f.link.toNat ∧ t.hart.eff.pmask = o.pmask ∧ t.hart.retired = s.hart.retired + 1 ∧
          t.getX f.rd = (if f.rd = 0#5 then 0 else v) ∧ (f.rd ≠ 2#5 → t.getX 2 = f.sp) ∧
          (∀ r : Reg, r ≠ 2#5 → r ≠ f.rd → t.getX r = s.getX r) ∧ t.hart.vec = s.hart.vec ∧ t.hart.mat = s.hart.mat) ∧
      (SysForm s i (.abort rs1 rs2) (.abort rs1) rs2 v len → f.exit = 0 →
        (s.pends ≠ [] ∨ s.hasTransfers s.hart.key = true) → exec i s = .next { s with hart := { s.hart with cond := .waiting .finish } }) ∧
      (∃ t, exec (.tdrop rs1) s = .next t ∧ Retired s t 4 ∧ Untouched [.eff, .mem, .waits] [] s t ∧ (s.waits = [] → t.waits = []) ∧ SameBytes (Span (s.recordKey n 88) 1) s t ∧
        (∃ q, t.hart.eff.tokens[n]? = some q ∧ q.kind = .free)) ∧
      (∀ off, s.absent (namedRegs s.hart.eff.vcap.toNat) (namedPreds s.hart.eff.pcap.toNat) [] = none → (s.getX rs2).toNat % 64 = 0 →
        tarnOffset (s.getX rs2) (captureSize s.lanes s.hart.eff.vcap.toNat s.hart.eff.pcap.toNat) = some off →
        s.lostTarn (s.getX rs2) (captureSize s.lanes s.hart.eff.vcap.toNat s.hart.eff.pcap.toNat) .store = none →
        ∃ t, exec (.tkeep rs1 rs2) s = .next t ∧ Retired s t 4 ∧ Untouched [.eff, .mem] [] s t ∧
          SameBytes (fun k => Span (Space.tarn s.hart.id.core off) (s.capture n).length k ∨ Span (s.recordKey n 80) 16 k) s t ∧
          t.hart.eff.tokens[n]? = some { o with kind := .multiShot, capaddr := s.getX rs2 } ∧
          ((∀ k, Span (s.recordKey n 80) 16 k → ¬ Span (Space.tarn s.hart.id.core off) (s.capture n).length k) →
            Sparse.getList 0 t.mem (Space.tarn s.hart.id.core off) (s.capture n).length = s.capture n)))

/-- R28, R43, R136, R187, R316 to R318: a hart with a pending request, its mask clear, takes Preempt with the message where it stands: between
instructions, or at a wait, which it withdraws: at a barrier its arrival, and an indexed instruction leaves its unperformed elements in pf. A
hart with instructions that wait in its queues takes it where the oldest of them stands that no younger one has acted past, and what was
passed waits under the token (entry 24). Stated for a hart that holds no access back. Words that decode to nothing raise IllegalInstruction,
a failed fetch its page's effect.
R316, R319, R338: `hpre` asks a running hart to give way, `hpark` gives up the hart's lanes with everything but bound registers absent, and
`hwake` gives a parked hart lanes again, with a message; all are a supervisor's. A request of the front end that meets `hpark` is journalled and
over, with FAIL code 0x07 (entry 27, DEDUCED). That a parking hart performs a pending reclaim in either mode is entry 42 (DEDUCED); that the entry goes
only over a link that is up is entry 34 (DESIGN CHOICE); that the hart waits for what waits in its queues is entry 24. -/
def Obligations.PreemptionAndParking : Prop :=
  (∀ (s f : State) (i k : Nat) (fr : Frame), s.Inv →
     (s.focus s.args.hart = some f → f.Inv →
       let g : State := match f.pends.find? (fun p => !p.acted) with
         | none => f
         | some p => ({ f with hart := p.before } : State).setPends (f.pends.filter (fun p => p.acted))
       let took (t : State) : Prop := t.hart.eff.ppend = false ∧ t.hart.eff.pmask = true ∧ t.hart.eff.hold = false
       (f.hart.preemptible = true → g.hart.cond = .running → g.hart.order = .start → Handled g 0x000E i k fr →
         let tr : Trap := ⟨0x000E, g.hart.eff.message, g.hart.eff.requester.setWidth 64, if g.hart.eff.underPf then g.hart.vec.pf else 0,
           g.hart.eff.underPf⟩
         ∃ t, exec .preempt s = .next t ∧ took t ∧ Entered g t i k fr tr 2 false (if g.hart.eff.underPf then .underPf else .again)) ∧
       (∀ w, f.hart.cond = .waiting w → f.hart.preemptible = true → (∀ p ∈ f.pends, p.acted = true) → f.hart.order = .start →
         Handled f 0x000E i k fr → ∃ t, exec .preempt s = .next t ∧ took t ∧ t.hart.pc = fr.target ∧
         t.hart.cond = .running ∧ (∀ r, r ∉ [8#5, 9#5, 10#5, 11#5] → t.getX r = f.getX r) ∧ t.pends = [] ∧
         (w = .bar → ∀ g, f.gang = some g → f.hart.id.rank < 8 →
           t.gang = some { g with arrived := g.arrived &&& ~~~(BitVec.ofNat 8 (2 ^ f.hart.id.rank)) }) ∧
         (∀ left c, w = .elements left c → t.hart.vec.pf = left ∧ t.hart.vec.pe = left)) ∧
       (f.hart.eff.ppend = true → f.hart.eff.pmask = false → f.hart.eff.hold = false → (f.hart.preemptible = true ↔ f.hart.cond = .running ∨ ∃ w, f.hart.cond = .waiting w ∧
         (w ∈ [.setvlG, .bar, .rows, .queue] ∨ (∃ r, w = .setvl r) ∨ (∃ rd a, w = .lpartWt rd a) ∨ (∃ p q r, w = .fifo p q r) ∨
           (∃ q a n, w = .qwait q a n) ∨ ∃ left c, w = .elements left c)))) ∧
     (s.focus s.args.hart = some f → f.hart.preemptible = false → exec .preempt s = .next f) ∧
     (Handled s 0x0001 i k fr → s.hart.order = .start → s.hart.cond ≠ .vacant → ∃ t, exec .illegalInstruction s = .next t ∧
       Entered s t i k fr ⟨0x0001, s.hart.iw0.setWidth 64, s.hart.iw1.setWidth 64, 0, false⟩ 1 false
         (if s.hart.eff.underPf then .underPf else .again)) ∧
     (Handled s s.args.effect i k fr → s.hart.order = .start → s.hart.cond ≠ .vacant → ∃ t, exec .instructionFetchFault s = .next t ∧
       Entered s t i k fr ⟨s.args.effect, s.args.addr, 0, 0, false⟩ 1 false (if s.hart.eff.underPf then .underPf else .again))) ∧
  (∀ (s : State) (rd rs1 rs2 : Reg), s.hart.cond ≠ .vacant →
     let slot := (s.getX rs1).toNat
     let victim := if slot < 8 then s.findHart (8 * s.hart.id.core + slot) else none
     (s.hart.priv.sup = false → Traps (.hpre rd rs1 rs2) s s.privileged ∧ Traps (.hpark rd) s s.privileged ∧ Traps (.hwake rd rs1 rs2) s s.privileged) ∧
     (s.hart.priv.sup = true →
       (victim = none → Gives (.hpre rd rs1 rs2) s 4 rd 1 ∧ Gives (.hwake rd rs1 rs2) s 4 rd 1) ∧
       (∀ h, victim = some h →
         (h.isRunning = false → Gives (.hpre rd rs1 rs2) s 4 rd 1) ∧
         (h.isRunning = true → h.eff.ppend = true → Gives (.hpre rd rs1 rs2) s 4 rd 3) ∧
         (h.isRunning = true → h.eff.ppend = false → h.key ≠ s.hart.key →
           Completes (.hpre rd rs1 rs2) s 4 [.others, .waits] [rd] Nowhere (fun t => t.getX rd = 0 ∧
             t.others = s.others.map (fun o => if o.cond ≠ .vacant ∧ o.key = h.key then
               { o with eff := { o.eff with ppend := true, message := s.getX rs2, requester := BitVec.ofNat 8 s.hart.id.slot } } else o))) ∧
         ((∀ r, h.cond ≠ .parked r) → Gives (.hwake rd rs1 rs2) s 4 rd 1) ∧
         (∀ r, h.cond = .parked r → freeBlock (s.usedBlocks s.hart.id.core) h.id.lanes = none → Gives (.hwake rd rs1 rs2) s 4 rd 2) ∧
         (∀ r first, h.cond = .parked r → h.key ≠ s.hart.key → freeBlock (s.usedBlocks s.hart.id.core) h.id.lanes = some first →
           ∃ t, exec (.hwake rd rs1 rs2) s = .next t ∧ Retired s t 4 ∧ Untouched [.others, .waits] [rd] s t ∧ t.getX rd = 0 ∧
             ∃ o, t.findHart h.key = some o ∧ o.cond = .running ∧ o.id = { h.id with first := first } ∧ o.retired = h.retired + 1 ∧
               (r ≠ 0#5 → o.x[r.toNat]'(r.isLt) = s.getX rs2) ∧ o.vec = h.vec)) ∧
       (s.pends ≠ [] ∨ s.hasTransfers s.hart.key = true →
         exec (.hpark rd) s = .next { s with hart := { s.hart with cond := .waiting .park } }) ∧
       (s.pends = [] → s.hasTransfers s.hart.key = false → s.hart.order = .start →
         ∃ t, exec (.hpark rd) s = .next t ∧ t.hart.cond = .parked rd ∧ t.hart.pc = s.hart.pc ∧ t.hart.retired = s.hart.retired ∧
           t.hart.x = s.hart.x ∧ t.hart.vec.ppresent = 0 ∧ t.hart.mat.present = 0 ∧ t.hart.priv = { s.hart.priv with reclaim := none } ∧
           t.hart.id = { s.hart.id with lanes := s.hart.priv.reclaim.getD s.hart.id.lanes } ∧
           (∀ r : Reg, t.hart.vec.present.getLsbD r.toNat = (s.hart.vec.present.getLsbD r.toNat && (s.bindingOf r).isSome)) ∧
           t.others = s.others ∧
           (¬ (s.hart.eff.ppend = true ∧ s.hart.eff.requester = 0xFF) → t.hart.eff = s.hart.eff ∧ t.mem = s.mem) ∧
           (s.hart.eff.ppend = true → s.hart.eff.requester = 0xFF → t.hart.eff = { s.hart.eff with ppend := false } ∧
             ∀ j, s.Inv → s.findJob s.hart.id.job = some j → s.linkUp s.dieOf j.die = true →
               t.getDword (journalKey j.die ((s.die j.die).seq + 1) + 8) / 2 ^ 32 = 3 * 2 ^ 30 + 2 ^ 8 + 7)))
)

/-! ### The front end -/

/-- R18 to R20, R53, R88, R113, R177, R297, R337: the first waiting gang goes whole onto the lowest core of the die that can take it, each hart with its
registers as a new hart has them; the Tarn of a new context is zeroed, and each stretch of the job's section is copied to its offset on the
job's first gang there and after a zeroing, with no other byte of a Tarn that is not zeroed changed; with room for none the step changes
nothing. Where a section is found is entry 36's choice, that the zeroing comes with the placement entry 28's.
R11, R22 to R24, R304, R345, R347, R360, R367: a job completes once its gangs have ended, and its command ends as completed or, after a halt, as
failed; one whose signal lies over a link that is down fails with code 0x03, and so does a SPREAD job with a share there, whether a hart of
it halted or not (entry 34, DESIGN CHOICE). A die
with an empty range takes the upper half of the largest reported one of the dies it reaches, for a steal goes only over a link that is up (entry 34, DESIGN
CHOICE); a decline ages. That every die's whole queue of stores goes home first, over the links that are up, is the model's choice (entry
38). -/
def Obligations.GangPlacementAndJobEnds : Prop :=
  (∀ (s : State),
     let d := s.args.die % 4
     (∀ (w : Waiting) (ws : List Waiting) (core : Nat) (slots firsts : List Nat), s.waitingGangs d = w :: ws → core / 8 = d →
       s.coreFor w.job core = some (slots, firsts) → (∀ c, c / 8 = d → c < core → s.coreFor w.job c = none) →
       let j := w.job
       ∃ (t : State) (lo hi : Nat), exec .placeGang s = .next t ∧ (s.dealChunk j.key d).2 = (lo, hi) ∧ t.hart = s.hart ∧
         t.others.length = s.others.length + j.card.harts ∧ (∀ k < s.others.length, t.others[k]? = s.others[k]?) ∧
         t.nextKey = s.nextKey + 1 ∧ (∃ g ∈ t.gangs, g.key = s.nextKey ∧ g.job = j.key) ∧
         (let mine := s.module.tarnSections.filter (fun p => p.1 == j.ctx && p.2.1 == j.card.addr)
          let foreign : Prop := ∃ c, (s.module.tarnContext[core]?).getD none = some c ∧ c ≠ j.ctx
          (Memory.wf s.mem = true → core ∉ j.tarnCores ∨ foreign →
            mine.Pairwise (fun p q => p.2.2.1 + p.2.2.2.length ≤ q.2.2.1 ∨ q.2.2.1 + q.2.2.2.length ≤ p.2.2.1) →
            ∀ p ∈ mine, p.2.2.1 + p.2.2.2.length ≤ 0xF00000 → Sparse.getList 0 t.mem (Space.tarn core p.2.2.1) p.2.2.2.length = p.2.2.2) ∧
          (Memory.wf s.mem = true → ¬ foreign → ∀ k < 0xF00000, (∀ p ∈ mine, ¬ Span p.2.2.1 p.2.2.2.length k) →
            Sparse.get 0 t.mem (Space.tarn core k) = Sparse.get 0 s.mem (Space.tarn core k))) ∧
         (∀ c, (s.module.tarnContext[core]?).getD none = some c → c ≠ j.ctx → s.module.tarnSections = [] →
           ∀ k < 0xF00000, Sparse.get 0 t.mem (Space.tarn core k) = 0) ∧
         ∀ r < j.card.harts, ∃ h : Hart, t.others[s.others.length + r]? = some h ∧ h.cond = .running ∧ h.pc = j.card.entry ∧
           h.id = { core := core, slot := slots[r]?.getD 0, rank := r, nh := j.card.harts, gang := w.gang, first := firsts[r]?.getD 0,
                    lanes := j.card.lanes, ctx := j.ctx, root := j.root, gangKey := s.nextKey, job := j.key } ∧
           h.x[2] = 0x7F0100000000 + BitVec.ofNat 64 (4096 * h.priv.sdlim.toNat) ∧ h.x[3] = j.card.args ∧ h.x[4] = BitVec.ofNat 64 lo ∧
           h.x[5] = BitVec.ofNat 64 hi ∧ h.x[6] = BitVec.ofNat 64 r ∧ h.x[7] = BitVec.ofNat 64 w.gang ∧
           (∀ q : Reg, q.toNat < 2 ∨ 8 ≤ q.toNat → h.x[q.toNat]'(q.isLt) = 0) ∧ h.priv.sup = false ∧ h.priv.det = j.card.det ∧
           h.eff.hsp = 0x7F0100000000 + BitVec.ofNat 64 (4096 * h.priv.sdbase.toNat) ∧ h.loop0 = .idle ∧ h.loop1 = .idle ∧
           h.fp = .start ∧ h.vec = .start ∧ h.mat = .start ∧ h.chain = .start ∧ h.eng = .start ∧
           (j.supent = 0 → h.eff.depth = 0) ∧
           (j.supent ≠ 0 → h.eff.depth = 1 ∧ h.eff.srch = 1 ∧ ∃ f, h.eff.frames = [f] ∧ f.lo = 1 ∧ f.hi = 0xFFFF ∧ f.link = 0 ∧
             f.target = j.supent ∧ f.priv = true ∧ f.exit = 0)) ∧
     ((∀ w ∈ s.waitingGangs d, ∀ c, c / 8 = d → s.coreFor w.job c = none) → exec .placeGang s = .next s)) ∧
  (∀ (s : State), s.Inv →
     (∀ (j : Job), s.findJob s.args.item = some j → s.jobEnded j = false → exec .jobCompletion s = .next s) ∧
     (∀ (j : Job) (c : Command), s.findJob s.args.item = some j → s.jobEnded j = true → s.findCommand j.die j.seq = some c →
       let key := journalKey j.die c.seq
       let sig := signalKey j.card.signal
       ∃ t, exec .jobCompletion s = .next t ∧ t.hart = s.hart ∧ t.others = s.others ∧ (∀ o ∈ t.jobs, o.key ≠ j.key) ∧
         t.findCommand j.die c.seq = none ∧ (∀ d < 4, ∀ o ∈ (t.die d).outbound, s.linkUp d (homeOf o.pa) = false) ∧
         (c.parent = none → (∀ d, (s.die d).outbound = []) → s.getDword key = c.seq →
           let e := t.getDword (key + 8)
           let reached : Prop := j.card.spread = false ∨ ∀ d < 4, s.linkUp j.die d = true
           (∀ id epc, j.failed = some (id, epc) → reached → e / 2 ^ 62 = 3 ∧ e / 2 ^ 32 % 2 ^ 8 = 0x05 ∧ t.getDword (key + 48) = epc.toNat % 2 ^ 56 ∧
             t.getDword (key + 56) % 2 ^ 16 = id.toNat) ∧
           let owned := s.ownsSignal j.card.signal j.ctx
           let up := s.linkUp j.die (signalDie j.card.signal)
           (¬ reached → e / 2 ^ 62 = 3 ∧ e / 2 ^ 32 % 2 ^ 8 = 0x03 ∧ (j.card.sv = true → t.getDword sig = s.getDword sig)) ∧
           (j.failed = none → reached → j.card.slots = [] →
             (j.card.sv = false → e / 2 ^ 62 = 2) ∧
             (j.card.sv = true → owned = true → up = true → e / 2 ^ 62 = 2 ∧
               t.getDword sig = (s.getDword sig + j.card.sigval.toNat) % 2 ^ 64) ∧
             (j.card.sv = true → owned = true → up = false → e / 2 ^ 62 = 3 ∧ e / 2 ^ 32 % 2 ^ 8 = 0x03 ∧ t.getDword sig = s.getDword sig) ∧
             (j.card.sv = true → owned = false → e / 2 ^ 62 = 2 ∧ e / 2 ^ 32 % 2 ^ 8 = 0x0A)))) ∧
     (∀ (j : Job) (h : Share), s.findJob s.args.item = some j → j.shares.find? (fun h => h.die == s.args.die % 4) = some h →
       let d := s.args.die % 4
       let least := max j.card.minchunk 1
       let becomes (k : Job) : Prop := ∃ t, exec .spreadSteal s = .next t ∧ t.hart = s.hart ∧ t.others = s.others ∧ t.gangs = s.gangs ∧
         t.findJob j.key = some k
       (h.lo < h.hi ∨ h.stopped = true ∨ j.card.spread = false → becomes j) ∧
       (h.hi ≤ h.lo → h.stopped = false → j.card.spread = true →
         (∀ v, largestReport (j.shares.filter (fun o => o.die != d && s.linkUp d o.die)) = some v →
           let half := v.lo + (v.hi - v.lo + 1) / 2
           let m := if j.card.det then (half + j.card.grain - 1) / j.card.grain * j.card.grain else half
           (∀ o ∈ j.shares, o.die ≠ d → s.linkUp d o.die = true → o.reported ≤ v.reported) ∧ s.linkUp d v.die = true ∧ v.die ≠ d ∧
           (m < v.hi → least < v.hi - v.lo →
             becomes { j with steals := j.steals + 1, shares := j.shares.map (fun o =>
               if o.die = v.die then { o with hi := m } else if o.die = d then { o with lo := m, hi := v.hi } else o) })) ∧
         ((∀ o ∈ j.shares, o.die ≠ d → s.linkUp d o.die = true → o.hi - o.lo ≤ least) →
           becomes { j with shares := j.shares.map (fun o => if o.die = d then { o with stopped := true } else o) }))) ∧
     (∃ t, exec .declineDelay s = .next t ∧ t.hart = s.hart ∧ t.mem = s.mem ∧ t.jobs = s.jobs ∧
       ∀ k, k ∈ (t.die s.args.die).declined ↔ k ∈ (s.die s.args.die).declined ∧ k ≠ s.args.item))

/-- R335 to R340, R368: a scan disables a queue whose record is bad and journals it; it accepts the next command of a mapped queue that has
nothing else in hand, raising HEAD, by the slot's copy of the record (entry 47), or journals it as failed; an indirect command is accepted and
started with its first buffer command. A queue that is not mapped takes a slot with every enabled queue of its gang at once, or none of them
does; a queue with a command in hand keeps its slot. A scan asks a hart of the lowest job to
give way, and wakes a parked hart that the front end had asked. That a queue has at most one accepted command that has not started, and which
hart and which job a request goes to, is entry 28. -/
def Obligations.ScanPasses : Prop :=
  ∀ (s : State), s.Inv →
    let d := s.args.die % 4
    let x := s.die d
    (∀ (q : Nat), x.pend = [q] → q < 4096 → s.queueEnabled d q = true → q ∉ x.blocked → s.accepting d q = false →
      (∀ code, s.queueFault d q = some code → ∃ t, exec .summitScan s = .next t ∧ t.queueEnabled d q = false ∧ q ∉ (t.die d).pend ∧
        (t.die d).seq = x.seq + 1 ∧
        (let e := t.getDword (journalKey d (x.seq + 1) + 8)
         e / 2 ^ 62 = 3 ∧ e / 2 ^ 40 % 2 ^ 8 = 0xFE ∧ e / 2 ^ 32 % 2 ^ 8 = code ∧ e % 2 ^ 12 = q)) ∧
      (∀ (u : List Byte), s.queueFault d q = none → (x.slotOf q).isSome = true → s.openParent d q = none → 0 < s.queueDepth d q →
        let s0 := s.refreshSlot d q
        let w := s0.slotDword d q 0
        let head := s.queueHead d q
        let s1 := s0.setQueueDword d q 2 ((head + 1) % 2 ^ 32)
        s1.frontRead (s1.queueView d q) (BitVec.ofNat 64 (w % 2 ^ 56 / 64 * 64 + 64 * (head % 2 ^ (w % 32)))) 64 = some u →
        (∀ card, s1.acceptCheck d q u false = .ok card → unitInd u = false →
          ∃ (t : State) (c : Command), exec .summitScan s = .next t ∧ t.queueHead d q = (head + 1) % 2 ^ 32 ∧ (t.die d).seq = x.seq + 1 ∧
            c ∈ (t.die d).commands ∧ c.seq = x.seq + 1 ∧ c.queue = q ∧ c.unit = u ∧ c.card = card ∧ c.phase = .accepted ∧ c.parent = none) ∧
        (∀ code, s1.acceptCheck d q u false = .error code → s.queueDepth d q = 1 →
          ∃ t, exec .summitScan s = .next t ∧ t.queueHead d q = (head + 1) % 2 ^ 32 ∧ (t.die d).seq = x.seq + 1 ∧
            (t.die d).commands = x.commands ∧ q ∉ (t.die d).pend ∧
            (let e := t.getDword (journalKey d (x.seq + 1) + 8)
             e / 2 ^ 62 = 3 ∧ e / 2 ^ 40 % 2 ^ 8 = unitDword u 0 % 2 ^ 8 ∧ e / 2 ^ 32 % 2 ^ 8 = code)) ∧
        (∀ (card : Option Card) (p : Command) (ub : List Byte), s1.acceptCheck d q u false = .ok card → unitInd u = true →
          let s2 := s1.acceptUnit d q (BitVec.ofNat 64 (w % 2 ^ 56 / 64 * 64 + 64 * (head % 2 ^ (w % 32)))) none
          let s3 := (s2.startCommand d p).updateCommand d p.seq (fun c => { c with left := p.left.tail })
          s2.openParent d q = some p → s3.frontRead (s3.queueView d q) (BitVec.ofNat 64 (unitDword u 1)) 64 = some ub →
          ∀ cb, s3.acceptCheck d q ub true = .ok cb →
          ∃ (t : State) (a b : Command), exec .summitScan s = .next t ∧ t.queueHead d q = (head + 1) % 2 ^ 32 ∧ (t.die d).seq = x.seq + 2 ∧
            a ∈ (t.die d).commands ∧ a.seq = x.seq + 1 ∧ a.queue = q ∧ a.unit = u ∧ a.phase = .started ∧ a.parent = none ∧
            a.left = (List.range (unitDword u 2)).tail ∧ b ∈ (t.die d).commands ∧ b.seq = x.seq + 2 ∧ b.queue = q ∧ b.unit = ub ∧
            b.card = cb ∧ b.phase = .accepted ∧ b.parent = some (x.seq + 1))) ∧
      (s.queueFault d q = none →
        let g := s.queueGang d q
        let gang : List Nat := if g = 0 then [q] else (List.range 4096).filter (fun o => s.queueEnabled d o && s.queueGang d o == g)
        let new := gang.filter (fun o => (x.slotOf o).isNone)
        ∃ t, exec .summitScan s = .next t ∧
          (∀ e ∈ x.slots, e.queue ≠ q → (∃ c ∈ x.commands, c.queue = e.queue) → (t.die d).slotOf e.queue = x.slotOf e.queue) ∧
          (x.slotOf q = none → x.slots.length + new.length ≤ 64 →
            (∀ o ∈ gang, ((t.die d).slotOf o).isSome = true) ∧ ∀ e ∈ x.slots, (t.die d).slotOf e.queue = x.slotOf e.queue) ∧
          (x.slotOf q = none → 64 < x.slots.length + new.length →
            (∀ e ∈ x.slots, (∃ c ∈ x.commands, c.queue = e.queue) ∨ s.scanPrio d q ≤ s.queuePrio d e.queue ∨ e.queue ∈ gang) →
            (t.die d).slots = x.slots ∧ (t.die d).commands = x.commands ∧ (t.die d).seq = x.seq ∧ (t.die d).pend = x.pend))) ∧
    (x.pend = [] → ∃ t, exec .summitScan s = .next t ∧ t.mem = s.mem ∧ (t.die d).commands = x.commands ∧ (t.die d).seq = x.seq) ∧
    (∀ (w o : Waiting) (ws : List Waiting) (k key : Nat), x.pend = [] → (s.harts.map Hart.key).Nodup → s.waitingGangs d = o :: ws →
      (o :: ws).find? (fun v => v.prio == o.prio && v.job.supent != 0) = some w → x.request = none →
      ((s.jobsOn d).filter (fun j => decide (j.prio < w.prio) && j.supent != 0 && !x.declined.contains j.key)).findSome?
        (fun j => (s.requestTarget d j).map (fun k => (k, j.key))) = some (k, key) →
      ∃ (t : State) (h : Hart), exec .summitScan s = .next t ∧ t.findHart k = some h ∧ h.eff.ppend = true ∧ h.eff.requester = 0xFF ∧
        h.eff.message = BitVec.ofNat 64 (2 ^ 63 + w.prio * 2 ^ 48 + w.job.queue) ∧ (t.die d).request = some (k, key)) ∧
    (∀ (h : Hart) (rd : Reg) (first : Nat), x.pend = [] → (s.harts.map Hart.key).Nodup → s.waitingGangs d = [] → h ∈ s.harts →
      h.id.core / 8 = d → h.cond = .parked rd → h.eff.lastFrontEnd = true → (∀ o ∈ s.harts, o.key ≠ h.key → ∀ r, o.cond ≠ .parked r) →
      freeBlock (s.usedBlocks h.id.core) h.id.lanes = some first →
      ∃ (t : State) (o : Hart), exec .summitScan s = .next t ∧ t.findHart h.key = some o ∧ o.cond = .running ∧
        o.id = { h.id with first := first } ∧ (rd ≠ 0#5 → o.x[rd.toNat]'(rd.isLt) = 0x8000000000000000))

/-! ### Commands -/

/-- R241, R339, R340, R346, R360, R367: NOP and FENCE complete, FENCE and SIGNAL once the earlier commands of their queue have and the stores that
these left on their way are home; SIGNAL adds its value to a signal of its context; WAIT completes once its signal has reached its threshold;
an id that names no signal of the context, or one behind a link that is down, fails, the latter with code 0x03 (entry 34, DESIGN CHOICE). That
the die's whole queue of stores goes is the model's
choice (entry 38). -/
def Obligations.PlainCommands : Prop :=
  ∀ (s : State) (c : Command), s.Inv →
    let d := s.argDie
    let id := unitDword c.unit 1
    let v := unitDword c.unit 2
    let owned := s.ownsSignal id (s.commandCtx c)
    let up := s.linkUp d (signalDie id)
    let home := s.drain d
    (∀ o ∈ (home.die d).outbound, s.linkUp d (homeOf o.pa) = false) ∧
    (Picked s 0 c → Ends .nop s c 2 0) ∧
    (Picked s 6 c → (s.earlierDone d c = false → exec .fenceCommand s = .next s) ∧
      (s.earlierDone d c = true → ∃ t, exec .fenceCommand s = .next t ∧ Finished home t c 2 0 Nowhere ∧ t.hart = s.hart ∧
        (t.die d).outbound = (home.die d).outbound)) ∧
    (Picked s 3 c → (s.earlierDone d c = false → exec .signal s = .next s) ∧
      (s.earlierDone d c = true → owned = false → Ends .signal s c 3 0x0A) ∧
      (s.earlierDone d c = true → owned = true → up = false → Ends .signal s c 3 0x03) ∧
      (s.earlierDone d c = true → owned = true → up = true →
        ∃ t, exec .signal s = .next t ∧ Finished home t c 2 0 (Span (signalKey id) 8) ∧ (t.die d).outbound = (home.die d).outbound ∧
          t.getDword (signalKey id) = (home.getDword (signalKey id) + v) % 2 ^ 64)) ∧
    (Picked s 4 c → (owned = false → Ends .wait s c 3 0x0A) ∧ (owned = true → up = false → Ends .wait s c 3 0x03) ∧
      (owned = true → up = true → s.getDword (signalKey id) < v → exec .wait s = .next s) ∧
      (owned = true → up = true → v ≤ s.getDword (signalKey id) → Ends .wait s c 2 0)) ∧
    (∀ op, (∀ c, ¬ Picked s op c) → (op = 0 → exec .nop s = .next s) ∧ (op = 6 → exec .fenceCommand s = .next s) ∧
      (op = 3 → exec .signal s = .next s) ∧ (op = 4 → exec .wait s = .next s))

/-- R22, R339, R340, R342, R344, R366 to R368: what acceptance finds of a unit, and of the card of a JOB, which is read then; a JOB accepted launches
with its card, or with SPREAD fails with code 0x03 where a die that would take a share cannot be reached (entry 34, DESIGN CHOICE); the buffer
commands of an indirect command are accepted one at a time, each in its turn (entry 28). Which of several codes that apply a unit or a card
fails with is entry 28 (DESIGN CHOICE). -/
def Obligations.JobCommands : Prop :=
  ∀ (s : State) (c : Command), s.Inv →
    let d := s.argDie
    (∀ (q : Nat) (u : List Byte) (b : Bool),
      let signal := ∃ id, acceptSignal u = some id ∧ s.ownsSignal id (s.queueCtx d q) = false
      let addr := BitVec.ofNat 64 (unitDword u 1)
      let job := unitDword u 0 % 2 ^ 9 = 1
      let read := s.frontRead (s.queueView d q) addr 256
      (unitOk u b = false → s.acceptCheck d q u b = .error 0x02) ∧
      (unitOk u b = true → signal → s.acceptCheck d q u b = .error 0x0A) ∧
      (unitOk u b = true → ¬ signal → ¬ job → s.acceptCheck d q u b = .ok none) ∧
      (unitOk u b = true → job →
        (read = none → s.acceptCheck d q u b = .error 0x03) ∧
        (∀ bs, read = some bs →
          let card := cardOf addr bs
          let signed := card.sv = true → s.ownsSignal card.signal (s.queueCtx d q) = true
          (cardOk bs = false → s.acceptCheck d q u b = .error 0x02) ∧
          (cardOk bs = true → card.shapeOk = false → s.acceptCheck d q u b = .error 0x04) ∧
          (cardOk bs = true → card.shapeOk = true → ¬ signed → s.acceptCheck d q u b = .error 0x0A) ∧
          (cardOk bs = true → card.shapeOk = true → signed → s.acceptCheck d q u b = .ok (some card))))) ∧
    (Picked s 1 c →
      (s.launched d c.seq = true ∨ c.card = none → exec .job s = .next s) ∧
      let reached (card : Card) : Prop := card.spread = false ∨ ∀ e < 4, s.linkUp d e = true
      (∀ card, s.launched d c.seq = false → c.card = some card → ¬ reached card → Ends .job s c 3 0x03) ∧
      (∀ card, s.launched d c.seq = false → c.card = some card → reached card → ∃ (t : State) (j : Job), exec .job s = .next t ∧ t.jobs = s.jobs ++ [j] ∧
        t.nextKey = s.nextKey + 1 ∧ t.hart = s.hart ∧ t.others = s.others ∧ t.dies = s.dies ∧ t.mem = s.mem ∧ j.key = s.nextKey ∧
        j.card = card ∧ j.seq = c.seq ∧ j.queue = c.queue ∧ j.die = d ∧ j.prio = s.queuePrio d c.queue ∧ j.ctx = s.queueCtx d c.queue ∧
        j.root = s.queueRoot d c.queue ∧ j.supent = s.queueSupent d c.queue ∧ j.failed = none ∧
        (card.spread = false → j.shares = [⟨d, 0, card.trips, List.range card.gangs, false, card.trips⟩]) ∧
        (card.spread = true → j.shares.map (fun h => h.die) = [0, 1, 2, 3] ∧ ∀ h ∈ j.shares, h.unplaced = List.range card.gangs))) ∧
    (∀ (k : Nat) (rest : List Nat) (u : List Byte), s.findCommand d s.args.item = some c → c.left = k :: rest →
      (s.accepting d c.queue = true → exec .indirect s = .next s) ∧
      (s.accepting d c.queue = false → c.phase = .accepted ∨ c.phase = .started →
        let s0 := if c.phase = .accepted then s.startCommand d c else s
        let s1 := s0.updateCommand d c.seq (fun c => { c with left := rest })
        s1.frontRead (s1.queueView d c.queue) (BitVec.ofNat 64 (unitDword c.unit 1) + BitVec.ofNat 64 (64 * k)) 64 = some u →
        ∀ card, s1.acceptCheck d c.queue u true = .ok card →
        ∃ (t : State) (b p : Command), exec .indirect s = .next t ∧ b ∈ (t.die d).commands ∧ b.seq = (s.die d).seq + 1 ∧ b.unit = u ∧
          b.card = card ∧
          b.queue = c.queue ∧ b.phase = .accepted ∧ b.parent = some c.seq ∧ t.findCommand d c.seq = some p ∧ p.left = rest ∧
          p.phase = .started ∧ (t.die d).seq = (s.die d).seq + 1 ∧ t.hart = s.hart ∧ t.others = s.others))

/-- R244, R247, R340, R360, R366, R367: a COPY starts its transfer on the lowest core of its die with a channel for it, as a user access of its
queue's context, or BLOCKS its queue; it completes with its last chunk, and adds its signal's value, or fails with code 0x03 where the signal
lies behind a link that is down (entry 34, DESIGN CHOICE for the code). That a COPY's record is read in the command's own step, and what its addition follows, is entry 29; that code 0x06 comes before
0x0A, and which COPY is served first, entry 28. -/
def Obligations.CopyCommands : Prop :=
  ∀ (s : State) (c : Command), s.Inv →
    let d := s.argDie
    let u := unitDword c.unit
    (Picked s 2 c →
      let read := s.frontRead (s.queueView d c.queue) (BitVec.ofNat 64 (u 3)) 32
      (read = none → Ends .copy s c 3 0x03) ∧
      (∀ bs, read = some bs →
        let r (i : Nat) : Word := leWord ((bs.drop (8 * i)).take 8)
        let src := BitVec.ofNat 64 (u 2)
        let ok := recordFields (r 0) (r 1) (r 2) (r 3)
        let cs := 1024 * ((r 0).extractLsb' 32 6).toNat + 1024
        let len := ((r 0).extractLsb' 0 31).toNat
        let can (core : Nat) : Bool := s.channelFor core 8
        (ok = false → Ends .copy s c 3 0x02) ∧
        (ok = true → s.copyFirst c = false ∨ (∀ core, core / 8 = d → can core = false) →
          ∃ t, exec .copy s = .next t ∧ t.transfers = s.transfers ∧ t.hart = s.hart ∧ t.others = s.others ∧ t.mem = s.mem ∧
            c.queue ∈ (t.die d).blocked ∧ t.findCommand d c.seq = s.findCommand d c.seq) ∧
        (∀ core, ok = true → s.copyFirst c = true → core / 8 = d → can core = true → (∀ k, k / 8 = d → k < core → can k = false) →
          ∃ (t : State) (x : Transfer) (p : Command), exec .copy s = .next t ∧ t.transfers = s.transfers ++ [x] ∧ t.hart = s.hart ∧
            t.others = s.others ∧ x.key = s.nextKey ∧ t.nextKey = s.nextKey + 1 ∧ x.owner = .copy d c.seq ∧ x.core = core ∧
            x.ctx = s.queueCtx d c.queue ∧ x.sup = false ∧ x.dst = BitVec.ofNat 64 (u 1) ∧ x.src = src ∧ x.len = len ∧ x.cs = cs ∧
            x.pending = List.range ((len + cs - 1) / cs) ∧ t.findCommand d c.seq = some p ∧ p.phase = .started ∧
            c.queue ∉ (t.die d).blocked))) ∧
    (∀ x, s.findCommand d s.args.item = some c → s.copyTransfer d s.args.item = some x →
      let w := u 4
      let sig := signalKey (w % 2 ^ 14)
      (x.pending ≠ [] → exec .copyComplete s = .next s) ∧
      (x.pending = [] → ∃ t, exec .copyComplete s = .next t ∧ t.findCommand d c.seq = none ∧ t.hart = s.hart ∧ t.others = s.others ∧
        (∀ y, y ∈ t.transfers ↔ y ∈ s.transfers ∧ y.key ≠ x.key) ∧
        (c.parent = none → (s.die d).outbound = [] → s.getDword (journalKey d c.seq) = c.seq →
          let e := t.getDword (journalKey d c.seq + 8)
          let owned := s.ownsSignal (w % 2 ^ 14) (s.commandCtx c)
          let lost := w.testBit 63 = true ∧ owned = true ∧ s.linkUp d (signalDie (w % 2 ^ 14)) = false
          (lost → e / 2 ^ 62 = 3 ∧ e / 2 ^ 32 % 2 ^ 8 = 0x03 ∧ t.getDword sig = s.getDword sig) ∧
          (¬ lost → e / 2 ^ 62 = 2 ∧ (x.badCount ≠ 0 → e / 2 ^ 32 % 2 ^ 8 = 0x06) ∧
            (x.badCount = 0 → w.testBit 63 = true → owned = false → e / 2 ^ 32 % 2 ^ 8 = 0x0A) ∧
            (w.testBit 63 = true → owned = true → t.getDword sig = (s.getDword sig + u 5) % 2 ^ 64) ∧
            (w.testBit 63 = false ∨ owned = false → t.getDword sig = s.getDword sig)))))

/-- R13, R176, R199, R271, R273, R278, R290, R339, R360, R366, R367: what each STREAMADMIN request does and answers; one whose result cannot be written,
or whose record cannot be read, fails and changes nothing else. A store made smaller drops cairns only when the tiers cannot take the blocks.
A signal behind a link that is down is not freed, and the command fails with code 0x03 (entry 34, DESIGN CHOICE for the code). That a record's
misaligned address answers −6 is entry 29. -/
def Obligations.StreamAdmin : Prop :=
  ∀ (s : State) (c : Command), s.Inv → Picked s 5 c →
    let d := s.argDie
    let sub := unitDword c.unit 1
    let a := unitDword c.unit 2
    let b := unitDword c.unit 3
    let v := s.queueView d c.queue
    let ctx := s.commandCtx c
    let can := s.frontWritable v (BitVec.ofNat 64 (unitDword c.unit 4)) 8
    let fails (i : Instr) (n : Nat) : Prop := sub = n → can = false → Ends i s c 3 0x03
    fails .createStream 1 ∧ fails .destroyStream 2 ∧ fails .cairnStoreSize 3 ∧ fails .spillAreas 4 ∧ fails .invalidate 5 ∧
    fails .allocateSignal 6 ∧ fails .freeSignal 7 ∧
    (sub = 1 → can = true →
      (a % 8 ≠ 0 → Answers .createStream s c (-6) s) ∧
      (a % 8 = 0 → s.frontRead v (BitVec.ofNat 64 a) 512 = none → Ends .createStream s c 3 0x03) ∧
      (∀ bs, a % 8 = 0 → s.frontRead v (BitVec.ofNat 64 a) 512 = some bs →
        (streamOfRecord ctx (s.queueRoot d c.queue) bs = none → Answers .createStream s c (-6) s) ∧
        (∀ x, streamOfRecord ctx (s.queueRoot d c.queue) bs = some x →
          (s.streamPages d x = none → Answers .createStream s c (-6) s) ∧
          ((s.streamPages d x).isSome = true → s.freeStream d = none → Answers .createStream s c (-8) s) ∧
          (∀ id, (s.streamPages d x).isSome = true → s.freeStream d = some id →
            Answers .createStream s c id { s with streams := s.streams ++ [{ x with id := id }] } ∧
            id / 2 ^ 20 = d ∧ (∀ y ∈ s.streams, streamDie y.id = d → y.id % 2 ^ 20 ≠ id % 2 ^ 20))))) ∧
    (sub = 2 → can = true →
      let found := (s.streamsOf d).find? (fun t => t.id == a && t.ctx == ctx)
      (found = none → Answers .destroyStream s c (-2) s) ∧
      (∀ x, found = some x →
        (x.bound ≠ 0 ∨ x.filling = true → Answers .destroyStream s c (-3) s) ∧
        (x.bound = 0 → x.filling = false → ∃ u, Answers .destroyStream s c 0 u ∧ u.mem = s.mem ∧ u.hart = s.hart ∧ u.others = s.others ∧
          ∀ y, y ∈ u.streams ↔ y ∈ s.streams ∧ y.id ≠ a))) ∧
    (sub = 3 → can = true → ∃ u, Answers .cairnStoreSize s c 0 u ∧ (u.die d).storeMiB = a ∧ u.mem = s.mem ∧ u.hart = s.hart ∧
      u.others = s.others ∧ (∀ y ∈ u.streams, ∃ z ∈ s.streams, z.id = y.id) ∧
      (s.cairnUsed d ≤ 256 * (a + (s.die d).dramMiB + (s.die d).lpMiB) → u.streams = s.streams ∧ u.cairnBlocks = s.cairnBlocks)) ∧
    (sub = 4 → can = true → ∃ u, Answers .spillAreas s c 0 u ∧ (u.die d).dramMiB = a ∧ (u.die d).lpMiB = b ∧ u.mem = s.mem ∧
      u.hart = s.hart ∧ u.others = s.others) ∧
    (sub = 5 → can = true → ∃ u, Answers .invalidate s c 0 u ∧ u.mem = s.mem ∧ u.hart = s.hart ∧ u.others = s.others ∧
      ∀ e, e ∈ (u.die d).tlb ↔ e ∈ (s.die d).tlb ∧ ¬(e.ctx = BitVec.ofNat 16 a ∧ (b = 0 ∨ e.region = b / 2 ^ 16))) ∧
    (sub = 6 → can = true →
      ((∀ i < 4096, (s.die d).signals.any (fun p => p.1 == i) = true) → Answers .allocateSignal s c (-8) s) ∧
      (∀ i < 4096, (s.die d).signals.any (fun p => p.1 == i) = false → (∀ k < i, (s.die d).signals.any (fun p => p.1 == k) = true) →
        ∃ u, Answers .allocateSignal s c (d * 2 ^ 12 + i : Nat) u ∧ (u.die d).signals = (i, ctx) :: (s.die d).signals ∧
          u.getDword (signalKey (d * 2 ^ 12 + i)) = a ∧ u.hart = s.hart ∧ u.others = s.others)) ∧
    (sub = 7 → can = true →
      (s.ownsSignal a ctx = false → Answers .freeSignal s c (-2) s) ∧
      (s.ownsSignal a ctx = true → s.linkUp d (signalDie a) = false → Ends .freeSignal s c 3 0x03) ∧
      (s.ownsSignal a ctx = true → s.linkUp d (signalDie a) = true → ∃ u, Answers .freeSignal s c 0 u ∧ u.signalContext a = none ∧
        (∀ e < 4, s.linkUp e (signalDie a) = true → ∀ w ∈ (u.die e).commands, w.phase = .accepted → w.op = 4 → unitDword w.unit 1 ≠ a) ∧
        (s.hart.waitsOn a = false → (∀ h ∈ s.others, h.waitsOn a = false) → u.hart = s.hart ∧ u.others = s.others) ∧
        (s.hart.waitsOn a = true → s.linkUp s.dieOf (signalDie a) = true → s.pends = [] → s.others = [] →
          ∃ w : State, w.hart = s.hart ∧ u = w.deliver w.illegal)))


/-! ### The fabric -/

/-- R1, R251, R335, R349 to R353, R359, R360: what each request of the fabric reads and writes, and when it is refused; reserved bits read as
zero. That offsets the spec does not list are refused is entry 32's choice; that the transport's give-up is a step of its own, whose operand
says whether the header of a compressed chunk arrived, is entry 14 (DESIGN CHOICE). -/
def Obligations.FabricRequests : Prop :=
  ∀ (s : State), s.Inv →
    let d := s.args.die % 4
    let q := s.args.queue % 4096
    let a := s.args.addr.toNat
    let bs := s.args.bytes
    let up := s.module.stage.answers
    let refused (i : Instr) : Prop := exec i s = .next s.refuse
    let outside (t : State) : Prop := t.hart = s.hart ∧ t.others = s.others ∧ t.jobs = s.jobs ∧ t.gangs = s.gangs ∧ t.transfers = s.transfers
    (up = false → exec .tailWrite s = .next s ∧ exec .controlRegionWrite s = .next s ∧ exec .rdmaWrite s = .next s ∧
      exec .rdmaRead s = .next s ∧ exec .fabricAtomic s = .next s ∧ exec .connectionSetup s = .next s) ∧
    (up = true →
      refused .fabricAtomic ∧
      (s.args.mode = .unreliable ∨ s.args.mode = .idempotent → refused .connectionSetup) ∧
      (s.args.mode = .rod ∨ s.args.mode = .rud → exec .connectionSetup s = .next { s with module :=
        { s.module with answer := [], refusedLast := false, connections := s.module.connections ++ [s.args.mode] } }) ∧
      (s.module.stage ≠ .full → refused .tailWrite) ∧
      (s.controlReach d a bs.length = false → refused .controlRegionWrite ∧ (s.args.control = true → refused .rdmaWrite)) ∧
      (s.controlReach d a s.args.count = false → s.args.control = true → refused .rdmaRead) ∧
      (s.memoryReach d a bs.length = false → s.args.control = false → refused .rdmaWrite) ∧
      (s.memoryReach d a s.args.count = false → s.journalReach d a s.args.count = false → s.args.control = false → refused .rdmaRead) ∧
      (s.module.stage = .full → ∃ t, exec .tailWrite s = .next t ∧ outside t ∧ t.module.refusedLast = false ∧ t.queueTail d q = a % 2 ^ 32 ∧
        (s.queueEnabled d q = false → a % 2 ^ 32 ≠ s.queueHead d q → q ∈ (t.die d).pend) ∧
        (s.queueEnabled d q = true → s.queueRecordOk d q = true → a < 2 ^ 32 →
          let n := (a + 2 ^ 32 - s.queueHead d q) % 2 ^ 32
          (2 ^ (s.queueDword d q 0 % 32) < n → t.queueEnabled d q = false ∧ q ∉ (t.die d).pend) ∧
          (n ≤ 2 ^ (s.queueDword d q 0 % 32) → n ≠ 0 → t.queueEnabled d q = true ∧ q ∈ (t.die d).pend))) ∧
      (s.controlReach d a bs.length = true → (∀ k, ¬(64 * k + 8 < a + bs.length ∧ a < 64 * k + 16 ∧ k < 4096)) →
        ¬(d = 0 ∧ 0x80000 < a + bs.length ∧ a < 0x80008) →
        ∀ i : Instr, i = .controlRegionWrite ∨ (i = .rdmaWrite ∧ s.args.control = true) → ∃ t, exec i s = .next t ∧ outside t ∧
          t.dies = s.dies ∧ t.module = { s.module with answer := [], refusedLast := false } ∧
          (∀ k < bs.length, Sparse.get 0 t.mem (Space.control d (a + k)) =
            if areaOf (a + k) = .readWrite then bs[k]?.getD 0 else Sparse.get 0 s.mem (Space.control d (a + k))) ∧
          (∀ key, ¬ Span (Space.control d a) bs.length key → Sparse.get 0 t.mem key = Sparse.get 0 s.mem key)) ∧
      (s.memoryReach d a bs.length = true → s.args.control = false → ∃ t, exec .rdmaWrite s = .next t ∧ outside t ∧ t.dies = s.dies ∧
        t.module = { s.module with answer := [], refusedLast := false } ∧ Sparse.getList 0 t.mem a bs.length = bs ∧
        ∀ key, ¬ Span a bs.length key → Sparse.get 0 t.mem key = Sparse.get 0 s.mem key) ∧
      (s.memoryReach d a s.args.count = true ∨ s.journalReach d a s.args.count = true → s.args.control = false →
        exec .rdmaRead s = .next { s with module :=
          { s.module with answer := Sparse.getList 0 s.mem a s.args.count, refusedLast := false } }) ∧
      (s.controlReach d a s.args.count = true → s.args.control = true → ∃ t, exec .rdmaRead s = .next t ∧
        t = { s with module := t.module } ∧ t.module = { s.module with answer := t.module.answer, refusedLast := false } ∧
        t.module.answer.length = s.args.count ∧
        ∀ k < s.args.count, areaOf (a + k) = .readWrite → t.module.answer[k]? =
          some (Sparse.get 0 s.mem (Space.control d (a + k)) &&& BitVec.ofNat 8 (namedBits (a + k) / 2 ^ (8 * ((a + k) % 8)))))) ∧
    (∃ t, exec .transportGiveUp s = .next t ∧ outside { t with transfers := s.transfers } ∧ t.mem = s.mem ∧ t.dies = s.dies ∧
      t.transfers.length = s.transfers.length ∧
      ∀ (k : Nat) (x : Transfer), s.transfers[k]? = some x → ∃ y, t.transfers[k]? = some y ∧
        y = { x with gaveUp := y.gaveUp, noHeader := y.noHeader } ∧
        (x.key ≠ s.args.item ∨ s.args.chunk ∉ x.pending → y = x) ∧
        (x.key = s.args.item → s.args.chunk ∈ x.pending →
          (let there (k : Acc) (a : Word) (n : Nat) : Prop := ∃ p ∈ piecesOf a n, ∃ w o, s.resolve x.view k p.1 = .ok (.remote w o)
           let source (n : Nat → Nat) : Prop :=
             if x.expand then ∃ a, s.cbfStart x s.args.chunk = .ok a ∧ there .load a (n ((s.cbfHeader x a s.args.chunk).toOption.getD 64))
             else there .load (x.src + BitVec.ofNat 64 (s.args.chunk * x.cs)) (x.chunkLen s.args.chunk)
           (there .store (x.dst + BitVec.ofNat 64 (s.args.chunk * x.cs)) (x.chunkLen s.args.chunk) ∨ source id →
             y.gaveUp = s.args.chunk :: x.gaveUp ∧
             (s.args.control = true → x.expand = true → source (fun _ => 64) → y.noHeader = s.args.chunk :: x.noHeader) ∧
             (s.args.control = false ∨ x.expand = false ∨ ¬ source (fun _ => 64) → y.noHeader = x.noHeader)) ∧
           (¬ there .store (x.dst + BitVec.ofNat 64 (s.args.chunk * x.cs)) (x.chunkLen s.args.chunk) → ¬ source id → y = x))))

/-- R353 to R358, R362 to R364: the stages of start, and what each mailbox request does and answers; the response's dwords without a meaning
are free values (entry 13), and so are the certificate chain and the report (entry 12). Memory after reset is entry 2's choice; that RESET is
not answered, what RESUME answers in stages 1 and 2, that ATTEST names its nonce by an offset in the control region of die 0, and that code
0x06 is charged to the slot that was running, entry 33's; the signature scheme is presumed (entry 30). -/
def Obligations.StartAndMailbox : Prop :=
  ∀ (s : State), s.Inv →
    let m := s.module
    let r := s.requestDword
    let key := Space.control 0 0x80040
    let reads (t : State) (k : Nat) : Nat := leNat (Sparse.getList 0 t.mem (key + 8 * k) 8)
    let tag := leNat ((m.request.drop 4).take 4)
    let answered (t : State) (status : Int) : Prop := t.module.request = [] ∧ reads t 0 = tag * 2 ^ 32 + wrapInt 32 status ∧
      t.hart = s.hart ∧ t.others = s.others ∧ t.dies = s.dies ∧ t.jobs = s.jobs
    let asked (op : Nat) : Prop := m.stage.answers = true ∧ m.request ≠ [] ∧ r 0 % 2 ^ 8 = op
    let quiet (t : State) : Prop := t.hart = .vacant ∧ t.others = [] ∧ t.gangs = [] ∧ t.jobs = [] ∧ t.transfers = [] ∧ t.streams = [] ∧
      t.dies = Vector.replicate 4 .reset ∧ (∀ k < 2 ^ 63, Sparse.get 0 t.mem k = 0) ∧
      (∀ k, 2 ^ 63 ≤ k → Sparse.get 0 t.mem k = Sparse.get 0 s.mem k) ∧ t.module.selected = m.selected ∧ t.module.svn = m.svn ∧
      t.module.lasting = m.lasting ∧ t.module.trained = false ∧ t.module.shutdown = false ∧ t.module.retiredBlocks = [] ∧
      t.module.links = allLinks
    (asked 1 → ∃ t, exec .ident s = .next t ∧ answered t 0 ∧ reads t 1 = Config.certificateChain.length % 2 ^ 64 ∧
      ∀ k < 0x4000, Sparse.get 0 t.mem (Space.control 0 (0x84000 + k)) =
        Config.certificateChain[k]?.getD (Sparse.get 0 s.mem (Space.control 0 (0x84000 + k)))) ∧
    (asked 2 → (1 < r 1 ∨ 65536 < r 3 ∨ 2 ^ 26 < r 2 + r 3 → ∃ t, exec .upload s = .next t ∧ answered t (-1)) ∧
      (r 1 ≤ 1 → r 3 ≤ 65536 → r 2 + r 3 ≤ 2 ^ 26 →
        (m.running = some (r 1) → ∃ t, exec .upload s = .next t ∧ answered t (-2) ∧
          ∀ k, 2 ^ 63 ≤ k → Sparse.get 0 t.mem k = Sparse.get 0 s.mem k) ∧
        (m.running ≠ some (r 1) → ∃ t, exec .upload s = .next t ∧ answered t 0 ∧
          (∀ k < r 3, Sparse.get 0 t.mem (Space.flash (r 1) (r 2 + k)) = Sparse.get 0 s.mem (Space.control 0 (0x90000 + k))) ∧
          (∀ k < 2 ^ 26, k < r 2 ∨ r 2 + r 3 ≤ k → Sparse.get 0 t.mem (Space.flash (r 1) k) =
            if r 2 = 0 then 0 else Sparse.get 0 s.mem (Space.flash (r 1) k)) ∧
          (∀ k < 2 ^ 26, Sparse.get 0 t.mem (Space.flash (1 - r 1) k) = Sparse.get 0 s.mem (Space.flash (1 - r 1) k))))) ∧
    (asked 3 → (1 < r 1 → ∃ t, exec .select s = .next t ∧ answered t (-1) ∧ t.module.selected = m.selected) ∧
      (r 1 ≤ 1 → ∃ t, exec .select s = .next t ∧ answered t 0 ∧ t.module.selected = r 1)) ∧
    (asked 4 → ∃ t, exec .reset s = .next t ∧ quiet t ∧ t.module.stage = .held) ∧
    (asked 5 → ∃ t, exec .status s = .next t ∧ answered t 0 ∧ reads t 1 = m.stage.number ∧ reads t 2 = m.selected % 2 ^ 64 ∧
      reads t 3 = m.failA % 2 ^ 64 ∧ reads t 4 = m.failB % 2 ^ 64 ∧ reads t 5 = m.svn % 2 ^ 64) ∧
    (asked 6 → (r 1 < 0x90000 ∨ 0xA0000 < r 1 + 32 → ∃ t, exec .attest s = .next t ∧ answered t (-1)) ∧
      (0x90000 ≤ r 1 → r 1 + 32 ≤ 0xA0000 → ∃ t, exec .attest s = .next t ∧ answered t 0 ∧
        let report := Config.attestationReport (Sparse.getList 0 s.mem (Space.control 0 (r 1)) 32) s.runningImage
          ((m.running.map s.slotSvn).getD 0) m.svn 4
        reads t 1 = report.length % 2 ^ 64 ∧ ∀ k < 0x4000, ∀ b, report[k]? = some b →
          Sparse.get 0 t.mem (Space.control 0 (0x84000 + k)) = b)) ∧
    (asked 7 → (m.shutdown = false → ∃ t, exec .resumeRequest s = .next t ∧ answered t (-2)) ∧
      (m.shutdown = true → (∃ x ∈ s.dies.toList, 95 * 16 ≤ x.junction.toInt) → ∃ t, exec .resumeRequest s = .next t ∧ answered t (-3)) ∧
      (m.shutdown = true → (∀ x ∈ s.dies.toList, x.junction.toInt < 95 * 16) →
        (m.stage = .base → m.stageTwoFailed = false → ∃ t, exec .resumeRequest s = .next t ∧ answered t 0 ∧
          t.module.starting = true ∧ t.module.resuming = true) ∧
        (m.stage = .base → m.stageTwoFailed = true → ∃ t, exec .resumeRequest s = .next t ∧ quiet t ∧ t.module.stage = .held) ∧
        (m.stage ≠ .base → ∃ t, exec .resumeRequest s = .next t ∧ answered t 0 ∧ t.module.stage = m.stage))) ∧
    (m.stage = .off → ∃ t, exec .powerGood s = .next t ∧ quiet t ∧ t.module.stage = .held) ∧
    (m.stage ≠ .off → exec .powerGood s = .next s) ∧
    (∃ t, exec .mainInputOff s = .next t ∧ quiet t ∧ t.module.stage = .off) ∧
    (m.stage = .held → exec .baseMode s = .next { s with module := { m with stage := .base, starting := true } }) ∧
    (m.stage ≠ .held → exec .baseMode s = .next s) ∧
    (m.stage = .base → m.starting = true → m.selected ≤ 1 → ∃ t, exec .firmwareVerify s = .next t ∧ t = { s with module := t.module } ∧
      t.module.starting = false ∧
      (let first := s.slotCode m.selected
       let second := s.slotCode (1 - m.selected)
       (first = 0 → t.module.stage = .verified ∧ t.module.running = some m.selected ∧
         t.module.svn = max m.svn (s.slotSvn m.selected)) ∧
       (first ≠ 0 → second = 0 → t.module.stage = .verified ∧ t.module.running = some (1 - m.selected)) ∧
       (first ≠ 0 → second ≠ 0 → t.module.stage = .base ∧ t.module.running = m.running ∧ t.module.svn = m.svn ∧
         t.module.failA = s.slotCode 0 ∧ t.module.failB = s.slotCode 1))) ∧
    (m.stage = .base → m.starting = false → ∃ t, exec .firmwareVerify s = .next t ∧ t.module = m) ∧
    (m.stage = .verified → s.args.good = true → exec .memoryTraining s = .next { s with module :=
      { m with stage := .full, trained := true, resuming := false } }) ∧
    (m.stage = .verified → s.args.good = false → ∃ t, exec .memoryTraining s = .next t ∧ t = { s with module := t.module } ∧
      t.module.stage = .base ∧ t.module.running = none ∧ t.module.stageTwoFailed = m.resuming ∧
      (∀ k, m.running = some k → (if k = 0 then t.module.failA else t.module.failB) = 0x06)) ∧
    (∀ k < 2, (s.slotErased k = true → s.slotCode k = 1) ∧
      (s.slotErased k = false → leNat (s.flashBytes k 0 4) ≠ 0x4D465843 → s.slotCode k = 2) ∧
      (s.slotCode k = 0 → leNat (s.flashBytes k 0 4) = 0x4D465843 ∧ s.slotLen k ≤ 2 ^ 26 - 1024 ∧ m.svn ≤ s.slotSvn k ∧
        ∃ i < 4, (Config.fusedKeyHash i).toNat = leNat (sha256 (s.flashBytes k 64 384)) ∧ Config.keyRevoked i = false))

/-! ### Errors, links and heat -/

/-- R237, R359 to R361, R363, R364: what an error, a retry and a temperature leave; at 105 °C the module shuts down; no store passes a link that
is down. Which words of an entry are free, and where entry n lies, is the model's (entry 13), and so are the units whose errors retire a
block, the further 16 failures that take a link down, and the clock kept between 95 and 100 °C (entry 34). -/
def Obligations.CareEvents : Prop :=
  ∀ (s : State), s.Inv →
    let d := s.args.die % 4
    let x := s.die d
    let up := s.module.stage.answers
    let pa := s.args.addr.toNat
    let unit := s.args.unit.toNat
    let core (t : State) : Prop := t.hart = s.hart ∧ t.others = s.others ∧ t.jobs = s.jobs ∧ t.transfers = s.transfers
    let logged (t : State) (e : Nat) (cls unit addr : Nat) : Prop :=
      let serial := (s.die e).logSerial + 1
      let key := Space.control (e % 4) (0x100000 + 32 * ((serial - 1) % 4096))
      (t.die e).logSerial = serial ∧ t.getDword key = (4 * serial + cls) % 2 ^ 64 ∧ t.getDword (key + 8) = 2 ^ 32 + unit ∧
        t.getDword (key + 16) = addr
    let timed (t : State) : Prop := { t.module with nanos := s.module.nanos } = s.module
    let a := min d (s.args.item % 4)
    let b := max d (s.args.item % 4)
    (up = true → ∃ t, exec .singleBitError s = .next t ∧ core t ∧ logged t s.args.die 0 unit pa ∧ timed t) ∧
    (up = true → s.args.good = true → ∃ t v, exec .uncorrectableRead s = .next t ∧ core t ∧ logged t s.args.die 1 unit v ∧
      (1 ≤ unit → unit ≤ 3 → v = pa) ∧ timed t) ∧
    (up = true → s.args.good = false → ∃ t v, exec .uncorrectableRead s = .next t ∧ core t ∧ logged t s.args.die 2 unit v ∧
      (1 ≤ unit → unit ≤ 3 → v = pa) ∧
      t.module.lasting.length = s.module.lasting.length + 1 ∧
      (unit = 4 → inCoreSram pa = true → ∀ key, key / 2 ^ 16 = pa / 2 ^ 16 → t.retiredAt key = true) ∧
      (1 ≤ unit → unit ≤ 3 → ∀ e key, key / 2 ^ 16 = pa / 2 ^ 16 → t.lost e key = true)) ∧
    (up = false → exec .singleBitError s = .next s ∧ exec .uncorrectableRead s = .next s) ∧
    (∀ l, s.module.links.find? (fun l => l.d1 == a && l.d2 == b) = some l → up = true → l.quarters ≠ 0 →
      (s.args.good = true → ∃ t, exec .linkFlitRetry s = .next t ∧ core t ∧ logged t a 1 5 (4 * a + b) ∧
        t.module.links.find? (fun l => l.d1 == a && l.d2 == b) = some { l with failures := 0 }) ∧
      (s.args.good = false → ∃ (t : State) (k : Link), exec .linkFlitRetry s = .next t ∧ core t ∧
        t.module.links.find? (fun l => l.d1 == a && l.d2 == b) = some k ∧
        (l.failures < 15 → k = { l with failures := l.failures + 1 }) ∧
        (15 ≤ l.failures → k = { l with quarters := l.quarters / 2, failures := 0 }) ∧
        (15 ≤ l.failures → l.quarters = 1 → logged t a 2 5 (4 * a + b)))) ∧
    (s.module.links.find? (fun l => l.d1 == a && l.d2 == b) = none → exec .linkFlitRetry s = .next s) ∧
    (let j := s.args.temps.1.toInt
     let l0 := s.args.temps.2.1
     let l1 := s.args.temps.2.2
     (up = false → exec .thermalSample s = .next s) ∧
     (up = true → j < 105 * 16 → ∃ (t : State) (y : Die), exec .thermalSample s = .next t ∧ core t ∧ t.mem = s.mem ∧ t.module = s.module ∧ t.die d = y ∧
       y.junction = s.args.temps.1 ∧ y.layer0 = l0 ∧ y.layer1 = l1 ∧ y.refresh0 = decide (85 * 16 < l0.toInt) ∧
       y.refresh1 = decide (85 * 16 < l1.toInt) ∧
       y.clock = (if j < 95 * 16 then .full else if 103 * 16 ≤ j then .slow else if 100 * 16 ≤ j ∧ x.clock ≠ .slow then .throttled
         else x.clock)) ∧
     (105 * 16 ≤ j → up = true → ∃ t, exec .thermalSample s = .next t ∧ t.hart = .vacant ∧ t.others = [] ∧ t.jobs = [] ∧ t.transfers = [] ∧
       t.module.stage = .base ∧ t.module.shutdown = true ∧ t.module.trained = s.module.trained ∧ (∀ e, (t.die e).commands = []) ∧
       (∀ e q, e < 4 → q < 4096 → t.queueEnabled e q = false ∧ t.queueHead e q = s.queueHead e q ∧ t.queueTail e q = s.queueTail e q) ∧
       (∀ e, (t.die e).seq = (s.die e).seq) ∧ (∀ y ∈ t.streams, y.bound = 0) ∧
       ∀ k < 2 ^ 62, inJournal k = false → Sparse.get 0 t.mem k = Sparse.get 0 s.mem k)) ∧
    (splitStore s.args.item x.outbound = none → exec .storeReachesHome s = .next s) ∧
    (∀ o rest, splitStore s.args.item x.outbound = some (o, rest) → s.linkUp d s.args.item = false → exec .storeReachesHome s = .next s) ∧
    (∀ o rest, splitStore s.args.item x.outbound = some (o, rest) → s.linkUp d s.args.item = true → ∃ t, exec .storeReachesHome s = .next t ∧ core t ∧
      (t.die d).outbound = rest ∧ homeOf o.pa = s.args.item ∧ (∀ p ∈ rest, p ∈ x.outbound) ∧
      Sparse.getList 0 t.mem o.pa o.bytes.length = o.bytes ∧
      ∀ key, ¬ Span o.pa o.bytes.length key → Sparse.get 0 t.mem key = Sparse.get 0 s.mem key)

/-! ### The machine -/

/-- R25, R28, R43: a step of a running hart fetches the bytes at its pc, and is the meaning of the instruction they decode to, in the state
with those words noted; words that decode to nothing, and a fetch that fails, are the steps that raise their effects. What the model does
around it is its own: the order of turns (entry 3: with an empty agenda the hart in front runs at every step but each sixteenth, and an
agenda names whose turn it is); and how what a loose turn held or read early and what waits in a queue takes its turn (`prepare`, `runLater`,
`standsBack`, `heldBack`, `ahead`, `readyFor`, `answered` and `spent`, entries 5 and 24), of which nothing is left for a hart in program order with no instruction
in its queues but this: one that waits for an engine waits in its queue. -/
def Obligations.StepRunsDecoded : Prop :=
  ∀ (s : State),
    let attempts (t : State) (w u : IWord) : Prop :=
      (∀ i, decode w u = .ok i → step s =
        spent w (if t.standsBack w u || t.heldBack w u then .next (t.putOff w u)
        else t.answered w u (exec i (t.ahead.readyFor w u)))) ∧
      (∀ e, decode w u = .error e → step s = spent w (t.answered w u (exec .illegalInstruction (t.ahead.readyFor w u))))
    let mine (t : State) : Prop :=
      let p := t.prepare
      (p.hart.preemptible = true → step s = exec .preempt { p with args := { p.args with hart := p.hart.key } }) ∧
      (∀ v, p.hart.preemptible = false → (p.hart.cond = .running ∨ ∃ w, p.hart.cond = .waiting w) → p.runLater = some v → step s = .next v) ∧
      (p.hart.cond = .running → p.hart.preemptible = false → p.runLater = none →
        (∀ w u n, p.fetchCode p.hart.pc = .ok (w, u, n) → attempts (p.fetched w u n) w u) ∧
        (∀ e a, p.fetchCode p.hart.pc = .error (e, a) →
          (p.pends = [] → step s = exec .instructionFetchFault { p with args := { p.args with effect := e, addr := a } }) ∧
          (p.pends ≠ [] → step s = .next p))) ∧
      (∀ w, p.hart.cond = .waiting w → p.hart.preemptible = false → p.runLater = none → attempts p p.hart.iw0 p.hart.iw1)
    let tick := { s with ticks := s.ticks + 1, stopAfter := 0, loose := false }
    (s.agenda = [] → (∀ d < 4, (s.die d).unsealed = []) → (s.ticks + 1) % 16 ≠ 0 → mine tick) ∧
    (∀ rest, s.hart.cond ≠ .vacant → s.agenda = .hart s.hart.key :: rest → mine { tick with agenda := rest }) ∧
    (∀ rest, s.hart.cond ≠ .vacant → s.agenda = .loose s.hart.key :: rest → mine { tick with agenda := rest, loose := true }) ∧
    (∀ i a rest, s.agenda = .event i a :: rest → isEvent i = true → step s = exec i { tick with agenda := rest, args := a }) ∧
    (∀ i a rest, s.agenda = .unsealed i a :: rest → isEvent i = true →
      step s = exec i { tick with agenda := rest, args := a, loose := true }) ∧
    (s.hart.order = .start → s.pends = [] → s.prepare = s ∧ s.runLater = none ∧ ∀ w u,
      s.ahead = s ∧ s.readyFor w u = s ∧ s.standsBack w u = false ∧ s.heldBack w u = false ∧
      ∀ i, (∀ t, exec i s = .next t → t.hart.cond ≠ .waiting .engine) → s.answered w u (exec i s) = exec i s) ∧
    (∀ w o, (∀ t, o = .next t → t.hart.order.early = []) → spent w o = o)

/-- R25 to R44: words that the spec prints for instructions of every kind decode to those instructions. -/
def Obligations.DecodeWords : Prop :=
  decode 0x00000800 0 = .ok (.addi 0 0 0) ∧
  decode 0x000C400C 0 = .ok (.loop false 12 0x000C) ∧
  decode 0x600435E0 0 = .ok (.bge 15 0 4) ∧
  decode 0x40204400 0 = .ok (.crw 0 0x020 0) ∧
  decode 0x7A40560D 0 = .ok (.setvl 16 13 2 true 15) ∧
  decode 0x00015C00 0 = .ok .bar ∧
  decode 0x01005000 0 = .ok .fenceSv ∧
  decode 0x00006040 0 = .ok .mstop ∧
  decode 0x3003C4E5 0 = .ok (.hpush 7 5 6) ∧
  decode 0x0004C400 0 = .ok .hpop ∧
  decode 0x6005C14B 0 = .ok (.lmatch 10 11 12) ∧
  decode 0x0100B8A0 0 = .ok (.sunbind 5) ∧
  decode 0x6400BC0B 0 = .ok (.qsig 11 12) ∧
  decode 0x0000D000 0x10000001 = .ok (.opa ⟨0, 0, false, false, false, 2, 0, 0, 0, 0, 1⟩)

/-- R41: the all-zero word, a word of major 0x00 with fn11 = 0 and the parcel 0xFFFF are no instruction, and words that are none raise
IllegalInstruction: at once, where no older instruction of the hart still waits in a queue, and else as any instruction behind it does. -/
def Obligations.NoInstruction : Prop :=
  (∀ u, ∃ e, decode 0x00000000 u = .error e) ∧
  (∀ w u : IWord, w.extractLsb' 10 6 = 0x00#6 → w.extractLsb' 16 11 = 0x000#11 → ∃ e, decode w u = .error e) ∧
  (∀ w u : IWord, w.extractLsb' 0 16 = 0xFFFF#16 → ∃ e, decode w u = .error e) ∧
  (∀ s : State, exec .illegalInstruction s = .next (s.deliver ⟨0x0001, s.hart.iw0.setWidth 64, s.hart.iw1.setWidth 64, 0, false⟩)) ∧
  (∀ (s : State) (w u : IWord) (n : Nat), s.fetchCode s.hart.pc = .ok (w, u, n) →
    (w = 0 ∨ w.extractLsb' 0 16 = 0xFFFF#16 ∨ (w.extractLsb' 10 6 = 0x00#6 ∧ w.extractLsb' 16 11 = 0x000#11)) →
    (s.pends = [] → s.issue = .next (((s.fetched w u n).readyFor w u).deliver ⟨0x0001, w.setWidth 64, u.setWidth 64, 0, false⟩)) ∧
    ∀ i, decodeCode w u ≠ .ok i)

/-- R25 to R44: every well-formed instruction of a hart has words that decode to it, with every operand at every value; a step of another
agent has none. -/
def Obligations.DecodeEncode : Prop :=
  ∀ (i : Instr), i.wf = true →
    (isEvent i = false → i ≠ .illegalInstruction → i ≠ .instructionFetchFault → ∃ w u, encode i = some (w, u) ∧ decode w u = .ok i) ∧
    (isEvent i = true ∨ i = .illegalInstruction ∨ i = .instructionFetchFault → encode i = none)

/-- R356: when training fails, the module stays in base mode with failure code 0x06, which is the code of the slot that was running
(entry 33). -/
def Obligations.TrainingFails : Prop :=
  ∀ (s : State) (k : Nat), s.module.stage = .verified → s.module.running = some k → s.args.good = false →
    ∃ t, exec .memoryTraining s = .next t ∧ t = { s with module := t.module } ∧ t.module.stage = .base ∧ t.module.running = none ∧
      (if k = 0 then t.module.failA else t.module.failB) = 0x06

/-- R308, R313, R359: `tdrop` frees a live token, one-shot or multi-shot; its value is dead, so no resumption continues the performer through it. A
record in a retired block it reports instead, with the argument that entry 27 picks (DESIGN CHOICE). -/
def Obligations.TokenDropped : Prop :=
  ∀ (s : State) (rs1 rs2 : Reg) (n : Nat) (o : Token) (f : Frame), s.findToken (s.getX rs1) = .live n o f → (f.priv = true → s.hart.priv.sup = true) →
    (∀ tr, s.lostTarn (s.recordAddr n) 128 .load = some tr → Traps (.tdrop rs1) s tr) ∧
    (s.hart.order.loads = [] → s.lostTarn (s.recordAddr n) 128 .load = none →
    ∃ t, exec (.tdrop rs1) s = .next t ∧ t.getX rs1 = s.getX rs1 ∧ (∃ q, t.hart.eff.tokens[n]? = some q ∧ q.kind = .free ∧ q.gen = o.gen) ∧
      t.findToken (t.getX rs1) = .dead ∧
      Traps (.resume rs1 rs2) t ⟨0x000C, s.getX rs1, 0, 0, false⟩ ∧ Traps (.abort rs1 rs2) t ⟨0x000C, s.getX rs1, 0, 0, false⟩ ∧
      Traps (.tkeep rs1 rs2) { t with hart := { t.hart with eff := { t.hart.eff with vcap := 0, pcap := 0 } } } ⟨0x000C, s.getX rs1, 0, 0, false⟩ ∧
      (∀ (u : State) (v : Word), (∀ q, u.hart.eff.tokens[v.toNat % 64]? = some q → q.kind = .free ∨ q.gen ≠ v.extractLsb' 32 32) → u.findToken v = .dead))

/-- R134, R140, R202, R295: VTAGS keeps its legal entries, MCOLS its bound and HSP its alignment, whatever the step; so do memory, register images
and tiles their canonical form and the harts their core numbers, which are the model's own form and no rule's. -/
def Obligations.InvKept : Prop := ∀ s t, s.Inv → step s = .next t → t.Inv

/-- R353, R13, R11: at reset the module holds reset, no hart is placed, nothing runs and memory lists nothing, each die has 512 MiB of cairn
store, and every link is at full width; the invariant holds. Other values at reset are the model's (entries 1 and 2). -/
def Obligations.ResetState : Prop :=
  let s := State.reset
  s.Inv ∧ s.module.stage = .held ∧ s.harts = [] ∧ s.gangs = [] ∧ s.jobs = [] ∧ s.transfers = [] ∧ s.streams = [] ∧ s.mem = [] ∧ s.waits = [] ∧
    (∀ d, (s.die d).storeMiB = 512 ∧ (s.die d).seq = 0 ∧ (s.die d).jseq = 0 ∧ (s.die d).commands = [] ∧ (s.die d).outbound = [] ∧
      (s.die d).signals = [] ∧ (s.die d).clock = .full) ∧
    (∀ a b, a < b → b < 4 → ∃ l ∈ s.module.links, l.d1 = a ∧ l.d2 = b ∧ l.quarters = 4) ∧ s.module.links.length = 6
end

