-- ==== Sys2Proof/Laws/State.lean ====
section
/-! SUPPORT. What each update of the state leaves alone and what it sets: one lemma per field. -/

namespace Sys2Proof.Laws

open Sys2Proof.Machine

/-! ### setPc -/

section
variable (s : State) (v : Word)
@[simp] theorem setPc_others : (s.setPc v).others = s.others := rfl
@[simp] theorem setPc_gangs : (s.setPc v).gangs = s.gangs := rfl
@[simp] theorem setPc_jobs : (s.setPc v).jobs = s.jobs := rfl
@[simp] theorem setPc_transfers : (s.setPc v).transfers = s.transfers := rfl
@[simp] theorem setPc_streams : (s.setPc v).streams = s.streams := rfl
@[simp] theorem setPc_cairnBlocks : (s.setPc v).cairnBlocks = s.cairnBlocks := rfl
@[simp] theorem setPc_nextKey : (s.setPc v).nextKey = s.nextKey := rfl
@[simp] theorem setPc_dies : (s.setPc v).dies = s.dies := rfl
@[simp] theorem setPc_module : (s.setPc v).module = s.module := rfl
@[simp] theorem setPc_mem : (s.setPc v).mem = s.mem := rfl
@[simp] theorem setPc_stale : (s.setPc v).stale = s.stale := rfl
@[simp] theorem setPc_waits : (s.setPc v).waits = s.waits := rfl
@[simp] theorem setPc_ticks : (s.setPc v).ticks = s.ticks := rfl
@[simp] theorem setPc_agenda : (s.setPc v).agenda = s.agenda := rfl
@[simp] theorem setPc_args : (s.setPc v).args = s.args := rfl
@[simp] theorem setPc_stopAfter : (s.setPc v).stopAfter = s.stopAfter := rfl
@[simp] theorem setPc_loose : (s.setPc v).loose = s.loose := rfl
@[simp] theorem setPc_hart_id : (s.setPc v).hart.id = s.hart.id := rfl
@[simp] theorem setPc_hart_cond : (s.setPc v).hart.cond = s.hart.cond := rfl
@[simp] theorem setPc_hart_pc : (s.setPc v).hart.pc = v := rfl
@[simp] theorem setPc_hart_x : (s.setPc v).hart.x = s.hart.x := rfl
@[simp] theorem setPc_hart_retired : (s.setPc v).hart.retired = s.hart.retired := rfl
@[simp] theorem setPc_hart_iw0 : (s.setPc v).hart.iw0 = s.hart.iw0 := rfl
@[simp] theorem setPc_hart_iw1 : (s.setPc v).hart.iw1 = s.hart.iw1 := rfl
@[simp] theorem setPc_hart_loop0 : (s.setPc v).hart.loop0 = s.hart.loop0 := rfl
@[simp] theorem setPc_hart_loop1 : (s.setPc v).hart.loop1 = s.hart.loop1 := rfl
@[simp] theorem setPc_hart_fp : (s.setPc v).hart.fp = s.hart.fp := rfl
@[simp] theorem setPc_hart_vec : (s.setPc v).hart.vec = s.hart.vec := rfl
@[simp] theorem setPc_hart_mat : (s.setPc v).hart.mat = s.hart.mat := rfl
@[simp] theorem setPc_hart_chain : (s.setPc v).hart.chain = s.hart.chain := rfl
@[simp] theorem setPc_hart_priv : (s.setPc v).hart.priv = s.hart.priv := rfl
@[simp] theorem setPc_hart_eff : (s.setPc v).hart.eff = s.hart.eff := rfl
@[simp] theorem setPc_hart_eng : (s.setPc v).hart.eng = s.hart.eng := rfl
@[simp] theorem setPc_hart_order : (s.setPc v).hart.order = s.hart.order := rfl

end

/-! ### setFp -/

section
variable (s : State) (v : FpState)
@[simp] theorem setFp_others : (s.setFp v).others = s.others := rfl
@[simp] theorem setFp_gangs : (s.setFp v).gangs = s.gangs := rfl
@[simp] theorem setFp_jobs : (s.setFp v).jobs = s.jobs := rfl
@[simp] theorem setFp_transfers : (s.setFp v).transfers = s.transfers := rfl
@[simp] theorem setFp_streams : (s.setFp v).streams = s.streams := rfl
@[simp] theorem setFp_cairnBlocks : (s.setFp v).cairnBlocks = s.cairnBlocks := rfl
@[simp] theorem setFp_nextKey : (s.setFp v).nextKey = s.nextKey := rfl
@[simp] theorem setFp_dies : (s.setFp v).dies = s.dies := rfl
@[simp] theorem setFp_module : (s.setFp v).module = s.module := rfl
@[simp] theorem setFp_mem : (s.setFp v).mem = s.mem := rfl
@[simp] theorem setFp_stale : (s.setFp v).stale = s.stale := rfl
@[simp] theorem setFp_waits : (s.setFp v).waits = s.waits := rfl
@[simp] theorem setFp_ticks : (s.setFp v).ticks = s.ticks := rfl
@[simp] theorem setFp_agenda : (s.setFp v).agenda = s.agenda := rfl
@[simp] theorem setFp_args : (s.setFp v).args = s.args := rfl
@[simp] theorem setFp_stopAfter : (s.setFp v).stopAfter = s.stopAfter := rfl
@[simp] theorem setFp_loose : (s.setFp v).loose = s.loose := rfl
@[simp] theorem setFp_hart_id : (s.setFp v).hart.id = s.hart.id := rfl
@[simp] theorem setFp_hart_cond : (s.setFp v).hart.cond = s.hart.cond := rfl
@[simp] theorem setFp_hart_pc : (s.setFp v).hart.pc = s.hart.pc := rfl
@[simp] theorem setFp_hart_x : (s.setFp v).hart.x = s.hart.x := rfl
@[simp] theorem setFp_hart_retired : (s.setFp v).hart.retired = s.hart.retired := rfl
@[simp] theorem setFp_hart_iw0 : (s.setFp v).hart.iw0 = s.hart.iw0 := rfl
@[simp] theorem setFp_hart_iw1 : (s.setFp v).hart.iw1 = s.hart.iw1 := rfl
@[simp] theorem setFp_hart_loop0 : (s.setFp v).hart.loop0 = s.hart.loop0 := rfl
@[simp] theorem setFp_hart_loop1 : (s.setFp v).hart.loop1 = s.hart.loop1 := rfl
@[simp] theorem setFp_hart_fp : (s.setFp v).hart.fp = v := rfl
@[simp] theorem setFp_hart_vec : (s.setFp v).hart.vec = s.hart.vec := rfl
@[simp] theorem setFp_hart_mat : (s.setFp v).hart.mat = s.hart.mat := rfl
@[simp] theorem setFp_hart_chain : (s.setFp v).hart.chain = s.hart.chain := rfl
@[simp] theorem setFp_hart_priv : (s.setFp v).hart.priv = s.hart.priv := rfl
@[simp] theorem setFp_hart_eff : (s.setFp v).hart.eff = s.hart.eff := rfl
@[simp] theorem setFp_hart_eng : (s.setFp v).hart.eng = s.hart.eng := rfl
@[simp] theorem setFp_hart_order : (s.setFp v).hart.order = s.hart.order := rfl

end

/-! ### setVec -/

section
variable (s : State) (v : VecState)
@[simp] theorem setVec_others : (s.setVec v).others = s.others := rfl
@[simp] theorem setVec_gangs : (s.setVec v).gangs = s.gangs := rfl
@[simp] theorem setVec_jobs : (s.setVec v).jobs = s.jobs := rfl
@[simp] theorem setVec_transfers : (s.setVec v).transfers = s.transfers := rfl
@[simp] theorem setVec_streams : (s.setVec v).streams = s.streams := rfl
@[simp] theorem setVec_cairnBlocks : (s.setVec v).cairnBlocks = s.cairnBlocks := rfl
@[simp] theorem setVec_nextKey : (s.setVec v).nextKey = s.nextKey := rfl
@[simp] theorem setVec_dies : (s.setVec v).dies = s.dies := rfl
@[simp] theorem setVec_module : (s.setVec v).module = s.module := rfl
@[simp] theorem setVec_mem : (s.setVec v).mem = s.mem := rfl
@[simp] theorem setVec_stale : (s.setVec v).stale = s.stale := rfl
@[simp] theorem setVec_waits : (s.setVec v).waits = s.waits := rfl
@[simp] theorem setVec_ticks : (s.setVec v).ticks = s.ticks := rfl
@[simp] theorem setVec_agenda : (s.setVec v).agenda = s.agenda := rfl
@[simp] theorem setVec_args : (s.setVec v).args = s.args := rfl
@[simp] theorem setVec_stopAfter : (s.setVec v).stopAfter = s.stopAfter := rfl
@[simp] theorem setVec_loose : (s.setVec v).loose = s.loose := rfl
@[simp] theorem setVec_hart_id : (s.setVec v).hart.id = s.hart.id := rfl
@[simp] theorem setVec_hart_cond : (s.setVec v).hart.cond = s.hart.cond := rfl
@[simp] theorem setVec_hart_pc : (s.setVec v).hart.pc = s.hart.pc := rfl
@[simp] theorem setVec_hart_x : (s.setVec v).hart.x = s.hart.x := rfl
@[simp] theorem setVec_hart_retired : (s.setVec v).hart.retired = s.hart.retired := rfl
@[simp] theorem setVec_hart_iw0 : (s.setVec v).hart.iw0 = s.hart.iw0 := rfl
@[simp] theorem setVec_hart_iw1 : (s.setVec v).hart.iw1 = s.hart.iw1 := rfl
@[simp] theorem setVec_hart_loop0 : (s.setVec v).hart.loop0 = s.hart.loop0 := rfl
@[simp] theorem setVec_hart_loop1 : (s.setVec v).hart.loop1 = s.hart.loop1 := rfl
@[simp] theorem setVec_hart_fp : (s.setVec v).hart.fp = s.hart.fp := rfl
@[simp] theorem setVec_hart_vec : (s.setVec v).hart.vec = v := rfl
@[simp] theorem setVec_hart_mat : (s.setVec v).hart.mat = s.hart.mat := rfl
@[simp] theorem setVec_hart_chain : (s.setVec v).hart.chain = s.hart.chain := rfl
@[simp] theorem setVec_hart_priv : (s.setVec v).hart.priv = s.hart.priv := rfl
@[simp] theorem setVec_hart_eff : (s.setVec v).hart.eff = s.hart.eff := rfl
@[simp] theorem setVec_hart_eng : (s.setVec v).hart.eng = s.hart.eng := rfl
@[simp] theorem setVec_hart_order : (s.setVec v).hart.order = s.hart.order := rfl

end

/-! ### setMat -/

section
variable (s : State) (v : MatState)
@[simp] theorem setMat_others : (s.setMat v).others = s.others := rfl
@[simp] theorem setMat_gangs : (s.setMat v).gangs = s.gangs := rfl
@[simp] theorem setMat_jobs : (s.setMat v).jobs = s.jobs := rfl
@[simp] theorem setMat_transfers : (s.setMat v).transfers = s.transfers := rfl
@[simp] theorem setMat_streams : (s.setMat v).streams = s.streams := rfl
@[simp] theorem setMat_cairnBlocks : (s.setMat v).cairnBlocks = s.cairnBlocks := rfl
@[simp] theorem setMat_nextKey : (s.setMat v).nextKey = s.nextKey := rfl
@[simp] theorem setMat_dies : (s.setMat v).dies = s.dies := rfl
@[simp] theorem setMat_module : (s.setMat v).module = s.module := rfl
@[simp] theorem setMat_mem : (s.setMat v).mem = s.mem := rfl
@[simp] theorem setMat_stale : (s.setMat v).stale = s.stale := rfl
@[simp] theorem setMat_waits : (s.setMat v).waits = s.waits := rfl
@[simp] theorem setMat_ticks : (s.setMat v).ticks = s.ticks := rfl
@[simp] theorem setMat_agenda : (s.setMat v).agenda = s.agenda := rfl
@[simp] theorem setMat_args : (s.setMat v).args = s.args := rfl
@[simp] theorem setMat_stopAfter : (s.setMat v).stopAfter = s.stopAfter := rfl
@[simp] theorem setMat_loose : (s.setMat v).loose = s.loose := rfl
@[simp] theorem setMat_hart_id : (s.setMat v).hart.id = s.hart.id := rfl
@[simp] theorem setMat_hart_cond : (s.setMat v).hart.cond = s.hart.cond := rfl
@[simp] theorem setMat_hart_pc : (s.setMat v).hart.pc = s.hart.pc := rfl
@[simp] theorem setMat_hart_x : (s.setMat v).hart.x = s.hart.x := rfl
@[simp] theorem setMat_hart_retired : (s.setMat v).hart.retired = s.hart.retired := rfl
@[simp] theorem setMat_hart_iw0 : (s.setMat v).hart.iw0 = s.hart.iw0 := rfl
@[simp] theorem setMat_hart_iw1 : (s.setMat v).hart.iw1 = s.hart.iw1 := rfl
@[simp] theorem setMat_hart_loop0 : (s.setMat v).hart.loop0 = s.hart.loop0 := rfl
@[simp] theorem setMat_hart_loop1 : (s.setMat v).hart.loop1 = s.hart.loop1 := rfl
@[simp] theorem setMat_hart_fp : (s.setMat v).hart.fp = s.hart.fp := rfl
@[simp] theorem setMat_hart_vec : (s.setMat v).hart.vec = s.hart.vec := rfl
@[simp] theorem setMat_hart_mat : (s.setMat v).hart.mat = v := rfl
@[simp] theorem setMat_hart_chain : (s.setMat v).hart.chain = s.hart.chain := rfl
@[simp] theorem setMat_hart_priv : (s.setMat v).hart.priv = s.hart.priv := rfl
@[simp] theorem setMat_hart_eff : (s.setMat v).hart.eff = s.hart.eff := rfl
@[simp] theorem setMat_hart_eng : (s.setMat v).hart.eng = s.hart.eng := rfl
@[simp] theorem setMat_hart_order : (s.setMat v).hart.order = s.hart.order := rfl

end

/-! ### setChain -/

section
variable (s : State) (v : ChainState)
@[simp] theorem setChain_others : (s.setChain v).others = s.others := rfl
@[simp] theorem setChain_gangs : (s.setChain v).gangs = s.gangs := rfl
@[simp] theorem setChain_jobs : (s.setChain v).jobs = s.jobs := rfl
@[simp] theorem setChain_transfers : (s.setChain v).transfers = s.transfers := rfl
@[simp] theorem setChain_streams : (s.setChain v).streams = s.streams := rfl
@[simp] theorem setChain_cairnBlocks : (s.setChain v).cairnBlocks = s.cairnBlocks := rfl
@[simp] theorem setChain_nextKey : (s.setChain v).nextKey = s.nextKey := rfl
@[simp] theorem setChain_dies : (s.setChain v).dies = s.dies := rfl
@[simp] theorem setChain_module : (s.setChain v).module = s.module := rfl
@[simp] theorem setChain_mem : (s.setChain v).mem = s.mem := rfl
@[simp] theorem setChain_stale : (s.setChain v).stale = s.stale := rfl
@[simp] theorem setChain_waits : (s.setChain v).waits = s.waits := rfl
@[simp] theorem setChain_ticks : (s.setChain v).ticks = s.ticks := rfl
@[simp] theorem setChain_agenda : (s.setChain v).agenda = s.agenda := rfl
@[simp] theorem setChain_args : (s.setChain v).args = s.args := rfl
@[simp] theorem setChain_stopAfter : (s.setChain v).stopAfter = s.stopAfter := rfl
@[simp] theorem setChain_loose : (s.setChain v).loose = s.loose := rfl
@[simp] theorem setChain_hart_id : (s.setChain v).hart.id = s.hart.id := rfl
@[simp] theorem setChain_hart_cond : (s.setChain v).hart.cond = s.hart.cond := rfl
@[simp] theorem setChain_hart_pc : (s.setChain v).hart.pc = s.hart.pc := rfl
@[simp] theorem setChain_hart_x : (s.setChain v).hart.x = s.hart.x := rfl
@[simp] theorem setChain_hart_retired : (s.setChain v).hart.retired = s.hart.retired := rfl
@[simp] theorem setChain_hart_iw0 : (s.setChain v).hart.iw0 = s.hart.iw0 := rfl
@[simp] theorem setChain_hart_iw1 : (s.setChain v).hart.iw1 = s.hart.iw1 := rfl
@[simp] theorem setChain_hart_loop0 : (s.setChain v).hart.loop0 = s.hart.loop0 := rfl
@[simp] theorem setChain_hart_loop1 : (s.setChain v).hart.loop1 = s.hart.loop1 := rfl
@[simp] theorem setChain_hart_fp : (s.setChain v).hart.fp = s.hart.fp := rfl
@[simp] theorem setChain_hart_vec : (s.setChain v).hart.vec = s.hart.vec := rfl
@[simp] theorem setChain_hart_mat : (s.setChain v).hart.mat = s.hart.mat := rfl
@[simp] theorem setChain_hart_chain : (s.setChain v).hart.chain = v := rfl
@[simp] theorem setChain_hart_priv : (s.setChain v).hart.priv = s.hart.priv := rfl
@[simp] theorem setChain_hart_eff : (s.setChain v).hart.eff = s.hart.eff := rfl
@[simp] theorem setChain_hart_eng : (s.setChain v).hart.eng = s.hart.eng := rfl
@[simp] theorem setChain_hart_order : (s.setChain v).hart.order = s.hart.order := rfl

end

/-! ### setPriv -/

section
variable (s : State) (v : PrivState)
@[simp] theorem setPriv_others : (s.setPriv v).others = s.others := rfl
@[simp] theorem setPriv_gangs : (s.setPriv v).gangs = s.gangs := rfl
@[simp] theorem setPriv_jobs : (s.setPriv v).jobs = s.jobs := rfl
@[simp] theorem setPriv_transfers : (s.setPriv v).transfers = s.transfers := rfl
@[simp] theorem setPriv_streams : (s.setPriv v).streams = s.streams := rfl
@[simp] theorem setPriv_cairnBlocks : (s.setPriv v).cairnBlocks = s.cairnBlocks := rfl
@[simp] theorem setPriv_nextKey : (s.setPriv v).nextKey = s.nextKey := rfl
@[simp] theorem setPriv_dies : (s.setPriv v).dies = s.dies := rfl
@[simp] theorem setPriv_module : (s.setPriv v).module = s.module := rfl
@[simp] theorem setPriv_mem : (s.setPriv v).mem = s.mem := rfl
@[simp] theorem setPriv_stale : (s.setPriv v).stale = s.stale := rfl
@[simp] theorem setPriv_waits : (s.setPriv v).waits = s.waits := rfl
@[simp] theorem setPriv_ticks : (s.setPriv v).ticks = s.ticks := rfl
@[simp] theorem setPriv_agenda : (s.setPriv v).agenda = s.agenda := rfl
@[simp] theorem setPriv_args : (s.setPriv v).args = s.args := rfl
@[simp] theorem setPriv_stopAfter : (s.setPriv v).stopAfter = s.stopAfter := rfl
@[simp] theorem setPriv_loose : (s.setPriv v).loose = s.loose := rfl
@[simp] theorem setPriv_hart_id : (s.setPriv v).hart.id = s.hart.id := rfl
@[simp] theorem setPriv_hart_cond : (s.setPriv v).hart.cond = s.hart.cond := rfl
@[simp] theorem setPriv_hart_pc : (s.setPriv v).hart.pc = s.hart.pc := rfl
@[simp] theorem setPriv_hart_x : (s.setPriv v).hart.x = s.hart.x := rfl
@[simp] theorem setPriv_hart_retired : (s.setPriv v).hart.retired = s.hart.retired := rfl
@[simp] theorem setPriv_hart_iw0 : (s.setPriv v).hart.iw0 = s.hart.iw0 := rfl
@[simp] theorem setPriv_hart_iw1 : (s.setPriv v).hart.iw1 = s.hart.iw1 := rfl
@[simp] theorem setPriv_hart_loop0 : (s.setPriv v).hart.loop0 = s.hart.loop0 := rfl
@[simp] theorem setPriv_hart_loop1 : (s.setPriv v).hart.loop1 = s.hart.loop1 := rfl
@[simp] theorem setPriv_hart_fp : (s.setPriv v).hart.fp = s.hart.fp := rfl
@[simp] theorem setPriv_hart_vec : (s.setPriv v).hart.vec = s.hart.vec := rfl
@[simp] theorem setPriv_hart_mat : (s.setPriv v).hart.mat = s.hart.mat := rfl
@[simp] theorem setPriv_hart_chain : (s.setPriv v).hart.chain = s.hart.chain := rfl
@[simp] theorem setPriv_hart_priv : (s.setPriv v).hart.priv = v := rfl
@[simp] theorem setPriv_hart_eff : (s.setPriv v).hart.eff = s.hart.eff := rfl
@[simp] theorem setPriv_hart_eng : (s.setPriv v).hart.eng = s.hart.eng := rfl
@[simp] theorem setPriv_hart_order : (s.setPriv v).hart.order = s.hart.order := rfl

end

/-! ### setEff -/

section
variable (s : State) (v : EffState)
@[simp] theorem setEff_others : (s.setEff v).others = s.others := rfl
@[simp] theorem setEff_gangs : (s.setEff v).gangs = s.gangs := rfl
@[simp] theorem setEff_jobs : (s.setEff v).jobs = s.jobs := rfl
@[simp] theorem setEff_transfers : (s.setEff v).transfers = s.transfers := rfl
@[simp] theorem setEff_streams : (s.setEff v).streams = s.streams := rfl
@[simp] theorem setEff_cairnBlocks : (s.setEff v).cairnBlocks = s.cairnBlocks := rfl
@[simp] theorem setEff_nextKey : (s.setEff v).nextKey = s.nextKey := rfl
@[simp] theorem setEff_dies : (s.setEff v).dies = s.dies := rfl
@[simp] theorem setEff_module : (s.setEff v).module = s.module := rfl
@[simp] theorem setEff_mem : (s.setEff v).mem = s.mem := rfl
@[simp] theorem setEff_stale : (s.setEff v).stale = s.stale := rfl
@[simp] theorem setEff_waits : (s.setEff v).waits = s.waits := rfl
@[simp] theorem setEff_ticks : (s.setEff v).ticks = s.ticks := rfl
@[simp] theorem setEff_agenda : (s.setEff v).agenda = s.agenda := rfl
@[simp] theorem setEff_args : (s.setEff v).args = s.args := rfl
@[simp] theorem setEff_stopAfter : (s.setEff v).stopAfter = s.stopAfter := rfl
@[simp] theorem setEff_loose : (s.setEff v).loose = s.loose := rfl
@[simp] theorem setEff_hart_id : (s.setEff v).hart.id = s.hart.id := rfl
@[simp] theorem setEff_hart_cond : (s.setEff v).hart.cond = s.hart.cond := rfl
@[simp] theorem setEff_hart_pc : (s.setEff v).hart.pc = s.hart.pc := rfl
@[simp] theorem setEff_hart_x : (s.setEff v).hart.x = s.hart.x := rfl
@[simp] theorem setEff_hart_retired : (s.setEff v).hart.retired = s.hart.retired := rfl
@[simp] theorem setEff_hart_iw0 : (s.setEff v).hart.iw0 = s.hart.iw0 := rfl
@[simp] theorem setEff_hart_iw1 : (s.setEff v).hart.iw1 = s.hart.iw1 := rfl
@[simp] theorem setEff_hart_loop0 : (s.setEff v).hart.loop0 = s.hart.loop0 := rfl
@[simp] theorem setEff_hart_loop1 : (s.setEff v).hart.loop1 = s.hart.loop1 := rfl
@[simp] theorem setEff_hart_fp : (s.setEff v).hart.fp = s.hart.fp := rfl
@[simp] theorem setEff_hart_vec : (s.setEff v).hart.vec = s.hart.vec := rfl
@[simp] theorem setEff_hart_mat : (s.setEff v).hart.mat = s.hart.mat := rfl
@[simp] theorem setEff_hart_chain : (s.setEff v).hart.chain = s.hart.chain := rfl
@[simp] theorem setEff_hart_priv : (s.setEff v).hart.priv = s.hart.priv := rfl
@[simp] theorem setEff_hart_eff : (s.setEff v).hart.eff = v := rfl
@[simp] theorem setEff_hart_eng : (s.setEff v).hart.eng = s.hart.eng := rfl
@[simp] theorem setEff_hart_order : (s.setEff v).hart.order = s.hart.order := rfl

end

/-! ### setEng -/

section
variable (s : State) (v : EngState)
@[simp] theorem setEng_others : (s.setEng v).others = s.others := rfl
@[simp] theorem setEng_gangs : (s.setEng v).gangs = s.gangs := rfl
@[simp] theorem setEng_jobs : (s.setEng v).jobs = s.jobs := rfl
@[simp] theorem setEng_transfers : (s.setEng v).transfers = s.transfers := rfl
@[simp] theorem setEng_streams : (s.setEng v).streams = s.streams := rfl
@[simp] theorem setEng_cairnBlocks : (s.setEng v).cairnBlocks = s.cairnBlocks := rfl
@[simp] theorem setEng_nextKey : (s.setEng v).nextKey = s.nextKey := rfl
@[simp] theorem setEng_dies : (s.setEng v).dies = s.dies := rfl
@[simp] theorem setEng_module : (s.setEng v).module = s.module := rfl
@[simp] theorem setEng_mem : (s.setEng v).mem = s.mem := rfl
@[simp] theorem setEng_stale : (s.setEng v).stale = s.stale := rfl
@[simp] theorem setEng_waits : (s.setEng v).waits = s.waits := rfl
@[simp] theorem setEng_ticks : (s.setEng v).ticks = s.ticks := rfl
@[simp] theorem setEng_agenda : (s.setEng v).agenda = s.agenda := rfl
@[simp] theorem setEng_args : (s.setEng v).args = s.args := rfl
@[simp] theorem setEng_stopAfter : (s.setEng v).stopAfter = s.stopAfter := rfl
@[simp] theorem setEng_loose : (s.setEng v).loose = s.loose := rfl
@[simp] theorem setEng_hart_id : (s.setEng v).hart.id = s.hart.id := rfl
@[simp] theorem setEng_hart_cond : (s.setEng v).hart.cond = s.hart.cond := rfl
@[simp] theorem setEng_hart_pc : (s.setEng v).hart.pc = s.hart.pc := rfl
@[simp] theorem setEng_hart_x : (s.setEng v).hart.x = s.hart.x := rfl
@[simp] theorem setEng_hart_retired : (s.setEng v).hart.retired = s.hart.retired := rfl
@[simp] theorem setEng_hart_iw0 : (s.setEng v).hart.iw0 = s.hart.iw0 := rfl
@[simp] theorem setEng_hart_iw1 : (s.setEng v).hart.iw1 = s.hart.iw1 := rfl
@[simp] theorem setEng_hart_loop0 : (s.setEng v).hart.loop0 = s.hart.loop0 := rfl
@[simp] theorem setEng_hart_loop1 : (s.setEng v).hart.loop1 = s.hart.loop1 := rfl
@[simp] theorem setEng_hart_fp : (s.setEng v).hart.fp = s.hart.fp := rfl
@[simp] theorem setEng_hart_vec : (s.setEng v).hart.vec = s.hart.vec := rfl
@[simp] theorem setEng_hart_mat : (s.setEng v).hart.mat = s.hart.mat := rfl
@[simp] theorem setEng_hart_chain : (s.setEng v).hart.chain = s.hart.chain := rfl
@[simp] theorem setEng_hart_priv : (s.setEng v).hart.priv = s.hart.priv := rfl
@[simp] theorem setEng_hart_eff : (s.setEng v).hart.eff = s.hart.eff := rfl
@[simp] theorem setEng_hart_eng : (s.setEng v).hart.eng = v := rfl
@[simp] theorem setEng_hart_order : (s.setEng v).hart.order = s.hart.order := rfl

end

/-! ### setCond -/

section
variable (s : State) (v : Condition)
@[simp] theorem setCond_others : (s.setCond v).others = s.others := rfl
@[simp] theorem setCond_gangs : (s.setCond v).gangs = s.gangs := rfl
@[simp] theorem setCond_jobs : (s.setCond v).jobs = s.jobs := rfl
@[simp] theorem setCond_transfers : (s.setCond v).transfers = s.transfers := rfl
@[simp] theorem setCond_streams : (s.setCond v).streams = s.streams := rfl
@[simp] theorem setCond_cairnBlocks : (s.setCond v).cairnBlocks = s.cairnBlocks := rfl
@[simp] theorem setCond_nextKey : (s.setCond v).nextKey = s.nextKey := rfl
@[simp] theorem setCond_dies : (s.setCond v).dies = s.dies := rfl
@[simp] theorem setCond_module : (s.setCond v).module = s.module := rfl
@[simp] theorem setCond_mem : (s.setCond v).mem = s.mem := rfl
@[simp] theorem setCond_stale : (s.setCond v).stale = s.stale := rfl
@[simp] theorem setCond_waits : (s.setCond v).waits = s.waits := rfl
@[simp] theorem setCond_ticks : (s.setCond v).ticks = s.ticks := rfl
@[simp] theorem setCond_agenda : (s.setCond v).agenda = s.agenda := rfl
@[simp] theorem setCond_args : (s.setCond v).args = s.args := rfl
@[simp] theorem setCond_stopAfter : (s.setCond v).stopAfter = s.stopAfter := rfl
@[simp] theorem setCond_loose : (s.setCond v).loose = s.loose := rfl
@[simp] theorem setCond_hart_id : (s.setCond v).hart.id = s.hart.id := rfl
@[simp] theorem setCond_hart_cond : (s.setCond v).hart.cond = v := rfl
@[simp] theorem setCond_hart_pc : (s.setCond v).hart.pc = s.hart.pc := rfl
@[simp] theorem setCond_hart_x : (s.setCond v).hart.x = s.hart.x := rfl
@[simp] theorem setCond_hart_retired : (s.setCond v).hart.retired = s.hart.retired := rfl
@[simp] theorem setCond_hart_iw0 : (s.setCond v).hart.iw0 = s.hart.iw0 := rfl
@[simp] theorem setCond_hart_iw1 : (s.setCond v).hart.iw1 = s.hart.iw1 := rfl
@[simp] theorem setCond_hart_loop0 : (s.setCond v).hart.loop0 = s.hart.loop0 := rfl
@[simp] theorem setCond_hart_loop1 : (s.setCond v).hart.loop1 = s.hart.loop1 := rfl
@[simp] theorem setCond_hart_fp : (s.setCond v).hart.fp = s.hart.fp := rfl
@[simp] theorem setCond_hart_vec : (s.setCond v).hart.vec = s.hart.vec := rfl
@[simp] theorem setCond_hart_mat : (s.setCond v).hart.mat = s.hart.mat := rfl
@[simp] theorem setCond_hart_chain : (s.setCond v).hart.chain = s.hart.chain := rfl
@[simp] theorem setCond_hart_priv : (s.setCond v).hart.priv = s.hart.priv := rfl
@[simp] theorem setCond_hart_eff : (s.setCond v).hart.eff = s.hart.eff := rfl
@[simp] theorem setCond_hart_eng : (s.setCond v).hart.eng = s.hart.eng := rfl
@[simp] theorem setCond_hart_order : (s.setCond v).hart.order = s.hart.order := rfl

end

/-! ### setOrder -/

section
variable (s : State) (v : OrderState)
@[simp] theorem setOrder_others : (s.setOrder v).others = s.others := rfl
@[simp] theorem setOrder_gangs : (s.setOrder v).gangs = s.gangs := rfl
@[simp] theorem setOrder_jobs : (s.setOrder v).jobs = s.jobs := rfl
@[simp] theorem setOrder_transfers : (s.setOrder v).transfers = s.transfers := rfl
@[simp] theorem setOrder_streams : (s.setOrder v).streams = s.streams := rfl
@[simp] theorem setOrder_cairnBlocks : (s.setOrder v).cairnBlocks = s.cairnBlocks := rfl
@[simp] theorem setOrder_nextKey : (s.setOrder v).nextKey = s.nextKey := rfl
@[simp] theorem setOrder_dies : (s.setOrder v).dies = s.dies := rfl
@[simp] theorem setOrder_module : (s.setOrder v).module = s.module := rfl
@[simp] theorem setOrder_mem : (s.setOrder v).mem = s.mem := rfl
@[simp] theorem setOrder_stale : (s.setOrder v).stale = s.stale := rfl
@[simp] theorem setOrder_waits : (s.setOrder v).waits = s.waits := rfl
@[simp] theorem setOrder_ticks : (s.setOrder v).ticks = s.ticks := rfl
@[simp] theorem setOrder_agenda : (s.setOrder v).agenda = s.agenda := rfl
@[simp] theorem setOrder_args : (s.setOrder v).args = s.args := rfl
@[simp] theorem setOrder_stopAfter : (s.setOrder v).stopAfter = s.stopAfter := rfl
@[simp] theorem setOrder_loose : (s.setOrder v).loose = s.loose := rfl
@[simp] theorem setOrder_hart_id : (s.setOrder v).hart.id = s.hart.id := rfl
@[simp] theorem setOrder_hart_cond : (s.setOrder v).hart.cond = s.hart.cond := rfl
@[simp] theorem setOrder_hart_pc : (s.setOrder v).hart.pc = s.hart.pc := rfl
@[simp] theorem setOrder_hart_x : (s.setOrder v).hart.x = s.hart.x := rfl
@[simp] theorem setOrder_hart_retired : (s.setOrder v).hart.retired = s.hart.retired := rfl
@[simp] theorem setOrder_hart_iw0 : (s.setOrder v).hart.iw0 = s.hart.iw0 := rfl
@[simp] theorem setOrder_hart_iw1 : (s.setOrder v).hart.iw1 = s.hart.iw1 := rfl
@[simp] theorem setOrder_hart_loop0 : (s.setOrder v).hart.loop0 = s.hart.loop0 := rfl
@[simp] theorem setOrder_hart_loop1 : (s.setOrder v).hart.loop1 = s.hart.loop1 := rfl
@[simp] theorem setOrder_hart_fp : (s.setOrder v).hart.fp = s.hart.fp := rfl
@[simp] theorem setOrder_hart_vec : (s.setOrder v).hart.vec = s.hart.vec := rfl
@[simp] theorem setOrder_hart_mat : (s.setOrder v).hart.mat = s.hart.mat := rfl
@[simp] theorem setOrder_hart_chain : (s.setOrder v).hart.chain = s.hart.chain := rfl
@[simp] theorem setOrder_hart_priv : (s.setOrder v).hart.priv = s.hart.priv := rfl
@[simp] theorem setOrder_hart_eff : (s.setOrder v).hart.eff = s.hart.eff := rfl
@[simp] theorem setOrder_hart_eng : (s.setOrder v).hart.eng = s.hart.eng := rfl
@[simp] theorem setOrder_hart_order : (s.setOrder v).hart.order = v := rfl

end

/-! ### setX -/

section
variable (s : State) (v : Word)
@[simp] theorem setX_others (r : Reg) : (s.setX r v).others = s.others := by unfold State.setX; split <;> rfl
@[simp] theorem setX_gangs (r : Reg) : (s.setX r v).gangs = s.gangs := by unfold State.setX; split <;> rfl
@[simp] theorem setX_jobs (r : Reg) : (s.setX r v).jobs = s.jobs := by unfold State.setX; split <;> rfl
@[simp] theorem setX_transfers (r : Reg) : (s.setX r v).transfers = s.transfers := by unfold State.setX; split <;> rfl
@[simp] theorem setX_streams (r : Reg) : (s.setX r v).streams = s.streams := by unfold State.setX; split <;> rfl
@[simp] theorem setX_cairnBlocks (r : Reg) : (s.setX r v).cairnBlocks = s.cairnBlocks := by unfold State.setX; split <;> rfl
@[simp] theorem setX_nextKey (r : Reg) : (s.setX r v).nextKey = s.nextKey := by unfold State.setX; split <;> rfl
@[simp] theorem setX_dies (r : Reg) : (s.setX r v).dies = s.dies := by unfold State.setX; split <;> rfl
@[simp] theorem setX_module (r : Reg) : (s.setX r v).module = s.module := by unfold State.setX; split <;> rfl
@[simp] theorem setX_mem (r : Reg) : (s.setX r v).mem = s.mem := by unfold State.setX; split <;> rfl
@[simp] theorem setX_stale (r : Reg) : (s.setX r v).stale = s.stale := by unfold State.setX; split <;> rfl
@[simp] theorem setX_waits (r : Reg) : (s.setX r v).waits = s.waits := by unfold State.setX; split <;> rfl
@[simp] theorem setX_ticks (r : Reg) : (s.setX r v).ticks = s.ticks := by unfold State.setX; split <;> rfl
@[simp] theorem setX_agenda (r : Reg) : (s.setX r v).agenda = s.agenda := by unfold State.setX; split <;> rfl
@[simp] theorem setX_args (r : Reg) : (s.setX r v).args = s.args := by unfold State.setX; split <;> rfl
@[simp] theorem setX_stopAfter (r : Reg) : (s.setX r v).stopAfter = s.stopAfter := by unfold State.setX; split <;> rfl
@[simp] theorem setX_loose (r : Reg) : (s.setX r v).loose = s.loose := by unfold State.setX; split <;> rfl
@[simp] theorem setX_hart_id (r : Reg) : (s.setX r v).hart.id = s.hart.id := by unfold State.setX; split <;> rfl
@[simp] theorem setX_hart_cond (r : Reg) : (s.setX r v).hart.cond = s.hart.cond := by unfold State.setX; split <;> rfl
@[simp] theorem setX_hart_pc (r : Reg) : (s.setX r v).hart.pc = s.hart.pc := by unfold State.setX; split <;> rfl
@[simp] theorem setX_hart_retired (r : Reg) : (s.setX r v).hart.retired = s.hart.retired := by unfold State.setX; split <;> rfl
@[simp] theorem setX_hart_iw0 (r : Reg) : (s.setX r v).hart.iw0 = s.hart.iw0 := by unfold State.setX; split <;> rfl
@[simp] theorem setX_hart_iw1 (r : Reg) : (s.setX r v).hart.iw1 = s.hart.iw1 := by unfold State.setX; split <;> rfl
@[simp] theorem setX_hart_loop0 (r : Reg) : (s.setX r v).hart.loop0 = s.hart.loop0 := by unfold State.setX; split <;> rfl
@[simp] theorem setX_hart_loop1 (r : Reg) : (s.setX r v).hart.loop1 = s.hart.loop1 := by unfold State.setX; split <;> rfl
@[simp] theorem setX_hart_fp (r : Reg) : (s.setX r v).hart.fp = s.hart.fp := by unfold State.setX; split <;> rfl
@[simp] theorem setX_hart_vec (r : Reg) : (s.setX r v).hart.vec = s.hart.vec := by unfold State.setX; split <;> rfl
@[simp] theorem setX_hart_mat (r : Reg) : (s.setX r v).hart.mat = s.hart.mat := by unfold State.setX; split <;> rfl
@[simp] theorem setX_hart_chain (r : Reg) : (s.setX r v).hart.chain = s.hart.chain := by unfold State.setX; split <;> rfl
@[simp] theorem setX_hart_priv (r : Reg) : (s.setX r v).hart.priv = s.hart.priv := by unfold State.setX; split <;> rfl
@[simp] theorem setX_hart_eff (r : Reg) : (s.setX r v).hart.eff = s.hart.eff := by unfold State.setX; split <;> rfl
@[simp] theorem setX_hart_eng (r : Reg) : (s.setX r v).hart.eng = s.hart.eng := by unfold State.setX; split <;> rfl
@[simp] theorem setX_hart_order (r : Reg) : (s.setX r v).hart.order = s.hart.order := by unfold State.setX; split <;> rfl

end

/-! ### setLoop -/

section
variable (s : State) (v : Loop)
@[simp] theorem setLoop_others (k : Bool) : (s.setLoop k v).others = s.others := by cases k <;> rfl
@[simp] theorem setLoop_gangs (k : Bool) : (s.setLoop k v).gangs = s.gangs := by cases k <;> rfl
@[simp] theorem setLoop_jobs (k : Bool) : (s.setLoop k v).jobs = s.jobs := by cases k <;> rfl
@[simp] theorem setLoop_transfers (k : Bool) : (s.setLoop k v).transfers = s.transfers := by cases k <;> rfl
@[simp] theorem setLoop_streams (k : Bool) : (s.setLoop k v).streams = s.streams := by cases k <;> rfl
@[simp] theorem setLoop_cairnBlocks (k : Bool) : (s.setLoop k v).cairnBlocks = s.cairnBlocks := by cases k <;> rfl
@[simp] theorem setLoop_nextKey (k : Bool) : (s.setLoop k v).nextKey = s.nextKey := by cases k <;> rfl
@[simp] theorem setLoop_dies (k : Bool) : (s.setLoop k v).dies = s.dies := by cases k <;> rfl
@[simp] theorem setLoop_module (k : Bool) : (s.setLoop k v).module = s.module := by cases k <;> rfl
@[simp] theorem setLoop_mem (k : Bool) : (s.setLoop k v).mem = s.mem := by cases k <;> rfl
@[simp] theorem setLoop_stale (k : Bool) : (s.setLoop k v).stale = s.stale := by cases k <;> rfl
@[simp] theorem setLoop_waits (k : Bool) : (s.setLoop k v).waits = s.waits := by cases k <;> rfl
@[simp] theorem setLoop_ticks (k : Bool) : (s.setLoop k v).ticks = s.ticks := by cases k <;> rfl
@[simp] theorem setLoop_agenda (k : Bool) : (s.setLoop k v).agenda = s.agenda := by cases k <;> rfl
@[simp] theorem setLoop_args (k : Bool) : (s.setLoop k v).args = s.args := by cases k <;> rfl
@[simp] theorem setLoop_stopAfter (k : Bool) : (s.setLoop k v).stopAfter = s.stopAfter := by cases k <;> rfl
@[simp] theorem setLoop_loose (k : Bool) : (s.setLoop k v).loose = s.loose := by cases k <;> rfl
@[simp] theorem setLoop_hart_id (k : Bool) : (s.setLoop k v).hart.id = s.hart.id := by cases k <;> rfl
@[simp] theorem setLoop_hart_cond (k : Bool) : (s.setLoop k v).hart.cond = s.hart.cond := by cases k <;> rfl
@[simp] theorem setLoop_hart_pc (k : Bool) : (s.setLoop k v).hart.pc = s.hart.pc := by cases k <;> rfl
@[simp] theorem setLoop_hart_x (k : Bool) : (s.setLoop k v).hart.x = s.hart.x := by cases k <;> rfl
@[simp] theorem setLoop_hart_retired (k : Bool) : (s.setLoop k v).hart.retired = s.hart.retired := by cases k <;> rfl
@[simp] theorem setLoop_hart_iw0 (k : Bool) : (s.setLoop k v).hart.iw0 = s.hart.iw0 := by cases k <;> rfl
@[simp] theorem setLoop_hart_iw1 (k : Bool) : (s.setLoop k v).hart.iw1 = s.hart.iw1 := by cases k <;> rfl
@[simp] theorem setLoop_hart_fp (k : Bool) : (s.setLoop k v).hart.fp = s.hart.fp := by cases k <;> rfl
@[simp] theorem setLoop_hart_vec (k : Bool) : (s.setLoop k v).hart.vec = s.hart.vec := by cases k <;> rfl
@[simp] theorem setLoop_hart_mat (k : Bool) : (s.setLoop k v).hart.mat = s.hart.mat := by cases k <;> rfl
@[simp] theorem setLoop_hart_chain (k : Bool) : (s.setLoop k v).hart.chain = s.hart.chain := by cases k <;> rfl
@[simp] theorem setLoop_hart_priv (k : Bool) : (s.setLoop k v).hart.priv = s.hart.priv := by cases k <;> rfl
@[simp] theorem setLoop_hart_eff (k : Bool) : (s.setLoop k v).hart.eff = s.hart.eff := by cases k <;> rfl
@[simp] theorem setLoop_hart_eng (k : Bool) : (s.setLoop k v).hart.eng = s.hart.eng := by cases k <;> rfl
@[simp] theorem setLoop_hart_order (k : Bool) : (s.setLoop k v).hart.order = s.hart.order := by cases k <;> rfl

end

/-! ### setMem -/

section
variable (s : State) (v : Image)
@[simp] theorem setMem_others : (s.setMem v).others = s.others := rfl
@[simp] theorem setMem_gangs : (s.setMem v).gangs = s.gangs := rfl
@[simp] theorem setMem_jobs : (s.setMem v).jobs = s.jobs := rfl
@[simp] theorem setMem_transfers : (s.setMem v).transfers = s.transfers := rfl
@[simp] theorem setMem_streams : (s.setMem v).streams = s.streams := rfl
@[simp] theorem setMem_cairnBlocks : (s.setMem v).cairnBlocks = s.cairnBlocks := rfl
@[simp] theorem setMem_nextKey : (s.setMem v).nextKey = s.nextKey := rfl
@[simp] theorem setMem_dies : (s.setMem v).dies = s.dies := rfl
@[simp] theorem setMem_module : (s.setMem v).module = s.module := rfl
@[simp] theorem setMem_mem : (s.setMem v).mem = v := rfl
@[simp] theorem setMem_stale : (s.setMem v).stale = s.stale := rfl
@[simp] theorem setMem_waits : (s.setMem v).waits = s.waits := rfl
@[simp] theorem setMem_ticks : (s.setMem v).ticks = s.ticks := rfl
@[simp] theorem setMem_agenda : (s.setMem v).agenda = s.agenda := rfl
@[simp] theorem setMem_args : (s.setMem v).args = s.args := rfl
@[simp] theorem setMem_stopAfter : (s.setMem v).stopAfter = s.stopAfter := rfl
@[simp] theorem setMem_loose : (s.setMem v).loose = s.loose := rfl
@[simp] theorem setMem_hart : (s.setMem v).hart = s.hart := rfl

end

/-! ### setDie -/

section
variable (s : State) (v : Die)
@[simp] theorem setDie_others (d : Nat) : (s.setDie d v).others = s.others := rfl
@[simp] theorem setDie_gangs (d : Nat) : (s.setDie d v).gangs = s.gangs := rfl
@[simp] theorem setDie_jobs (d : Nat) : (s.setDie d v).jobs = s.jobs := rfl
@[simp] theorem setDie_transfers (d : Nat) : (s.setDie d v).transfers = s.transfers := rfl
@[simp] theorem setDie_streams (d : Nat) : (s.setDie d v).streams = s.streams := rfl
@[simp] theorem setDie_cairnBlocks (d : Nat) : (s.setDie d v).cairnBlocks = s.cairnBlocks := rfl
@[simp] theorem setDie_nextKey (d : Nat) : (s.setDie d v).nextKey = s.nextKey := rfl
@[simp] theorem setDie_module (d : Nat) : (s.setDie d v).module = s.module := rfl
@[simp] theorem setDie_mem (d : Nat) : (s.setDie d v).mem = s.mem := rfl
@[simp] theorem setDie_stale (d : Nat) : (s.setDie d v).stale = s.stale := rfl
@[simp] theorem setDie_waits (d : Nat) : (s.setDie d v).waits = s.waits := rfl
@[simp] theorem setDie_ticks (d : Nat) : (s.setDie d v).ticks = s.ticks := rfl
@[simp] theorem setDie_agenda (d : Nat) : (s.setDie d v).agenda = s.agenda := rfl
@[simp] theorem setDie_args (d : Nat) : (s.setDie d v).args = s.args := rfl
@[simp] theorem setDie_stopAfter (d : Nat) : (s.setDie d v).stopAfter = s.stopAfter := rfl
@[simp] theorem setDie_loose (d : Nat) : (s.setDie d v).loose = s.loose := rfl
@[simp] theorem setDie_hart (d : Nat) : (s.setDie d v).hart = s.hart := rfl

end

/-! ### onDie -/

section
variable (s : State) (v : Die → Die)
@[simp] theorem onDie_others (d : Nat) : (s.onDie d v).others = s.others := rfl
@[simp] theorem onDie_gangs (d : Nat) : (s.onDie d v).gangs = s.gangs := rfl
@[simp] theorem onDie_jobs (d : Nat) : (s.onDie d v).jobs = s.jobs := rfl
@[simp] theorem onDie_transfers (d : Nat) : (s.onDie d v).transfers = s.transfers := rfl
@[simp] theorem onDie_streams (d : Nat) : (s.onDie d v).streams = s.streams := rfl
@[simp] theorem onDie_cairnBlocks (d : Nat) : (s.onDie d v).cairnBlocks = s.cairnBlocks := rfl
@[simp] theorem onDie_nextKey (d : Nat) : (s.onDie d v).nextKey = s.nextKey := rfl
@[simp] theorem onDie_module (d : Nat) : (s.onDie d v).module = s.module := rfl
@[simp] theorem onDie_mem (d : Nat) : (s.onDie d v).mem = s.mem := rfl
@[simp] theorem onDie_stale (d : Nat) : (s.onDie d v).stale = s.stale := rfl
@[simp] theorem onDie_waits (d : Nat) : (s.onDie d v).waits = s.waits := rfl
@[simp] theorem onDie_ticks (d : Nat) : (s.onDie d v).ticks = s.ticks := rfl
@[simp] theorem onDie_agenda (d : Nat) : (s.onDie d v).agenda = s.agenda := rfl
@[simp] theorem onDie_args (d : Nat) : (s.onDie d v).args = s.args := rfl
@[simp] theorem onDie_stopAfter (d : Nat) : (s.onDie d v).stopAfter = s.stopAfter := rfl
@[simp] theorem onDie_loose (d : Nat) : (s.onDie d v).loose = s.loose := rfl
@[simp] theorem onDie_hart (d : Nat) : (s.onDie d v).hart = s.hart := rfl

end

/-! ### setPends -/

section
variable (s : State) (ps : List Pend)
@[simp] theorem setPends_hart : (s.setPends ps).hart = s.hart := rfl
@[simp] theorem setPends_others : (s.setPends ps).others = s.others := rfl
@[simp] theorem setPends_gangs : (s.setPends ps).gangs = s.gangs := rfl
@[simp] theorem setPends_jobs : (s.setPends ps).jobs = s.jobs := rfl
@[simp] theorem setPends_transfers : (s.setPends ps).transfers = s.transfers := rfl
@[simp] theorem setPends_streams : (s.setPends ps).streams = s.streams := rfl
@[simp] theorem setPends_cairnBlocks : (s.setPends ps).cairnBlocks = s.cairnBlocks := rfl
@[simp] theorem setPends_nextKey : (s.setPends ps).nextKey = s.nextKey := rfl
@[simp] theorem setPends_dies : (s.setPends ps).dies = s.dies := rfl
@[simp] theorem setPends_module : (s.setPends ps).module = s.module := rfl
@[simp] theorem setPends_mem : (s.setPends ps).mem = s.mem := rfl
@[simp] theorem setPends_stale : (s.setPends ps).stale = s.stale := rfl
@[simp] theorem setPends_ticks : (s.setPends ps).ticks = s.ticks := rfl
@[simp] theorem setPends_agenda : (s.setPends ps).agenda = s.agenda := rfl
@[simp] theorem setPends_args : (s.setPends ps).args = s.args := rfl
@[simp] theorem setPends_stopAfter : (s.setPends ps).stopAfter = s.stopAfter := rfl
@[simp] theorem setPends_loose : (s.setPends ps).loose = s.loose := rfl

/-- What waits for the hart is what was put there, where nothing of another's was. -/
theorem setPends_pends (h : ∀ p ∈ ps, p.active s.hart.key = true) : (s.setPends ps).pends = ps := by
  simp only [State.pends, State.setPends, List.filter_append, List.filter_filter]
  rw [List.filter_eq_nil_iff.mpr (by intro p _; cases p.active s.hart.key <;> simp), List.filter_eq_self.mpr h]; rfl

end

/-! ### dropPends -/

section
variable (s : State) (k : Nat)
@[simp] theorem dropPends_hart : (s.dropPends k).hart = s.hart := rfl
@[simp] theorem dropPends_others : (s.dropPends k).others = s.others := rfl
@[simp] theorem dropPends_gangs : (s.dropPends k).gangs = s.gangs := rfl
@[simp] theorem dropPends_jobs : (s.dropPends k).jobs = s.jobs := rfl
@[simp] theorem dropPends_transfers : (s.dropPends k).transfers = s.transfers := rfl
@[simp] theorem dropPends_streams : (s.dropPends k).streams = s.streams := rfl
@[simp] theorem dropPends_cairnBlocks : (s.dropPends k).cairnBlocks = s.cairnBlocks := rfl
@[simp] theorem dropPends_nextKey : (s.dropPends k).nextKey = s.nextKey := rfl
@[simp] theorem dropPends_dies : (s.dropPends k).dies = s.dies := rfl
@[simp] theorem dropPends_module : (s.dropPends k).module = s.module := rfl
@[simp] theorem dropPends_mem : (s.dropPends k).mem = s.mem := rfl
@[simp] theorem dropPends_stale : (s.dropPends k).stale = s.stale := rfl
@[simp] theorem dropPends_ticks : (s.dropPends k).ticks = s.ticks := rfl
@[simp] theorem dropPends_agenda : (s.dropPends k).agenda = s.agenda := rfl
@[simp] theorem dropPends_args : (s.dropPends k).args = s.args := rfl
@[simp] theorem dropPends_stopAfter : (s.dropPends k).stopAfter = s.stopAfter := rfl
@[simp] theorem dropPends_loose : (s.dropPends k).loose = s.loose := rfl

end

/-! ### markActed -/

section
variable (s : State)
@[simp] theorem markActed_hart : (s.markActed).hart = s.hart := rfl
@[simp] theorem markActed_others : (s.markActed).others = s.others := rfl
@[simp] theorem markActed_gangs : (s.markActed).gangs = s.gangs := rfl
@[simp] theorem markActed_jobs : (s.markActed).jobs = s.jobs := rfl
@[simp] theorem markActed_transfers : (s.markActed).transfers = s.transfers := rfl
@[simp] theorem markActed_streams : (s.markActed).streams = s.streams := rfl
@[simp] theorem markActed_cairnBlocks : (s.markActed).cairnBlocks = s.cairnBlocks := rfl
@[simp] theorem markActed_nextKey : (s.markActed).nextKey = s.nextKey := rfl
@[simp] theorem markActed_dies : (s.markActed).dies = s.dies := rfl
@[simp] theorem markActed_module : (s.markActed).module = s.module := rfl
@[simp] theorem markActed_mem : (s.markActed).mem = s.mem := rfl
@[simp] theorem markActed_stale : (s.markActed).stale = s.stale := rfl
@[simp] theorem markActed_ticks : (s.markActed).ticks = s.ticks := rfl
@[simp] theorem markActed_agenda : (s.markActed).agenda = s.agenda := rfl
@[simp] theorem markActed_args : (s.markActed).args = s.args := rfl
@[simp] theorem markActed_stopAfter : (s.markActed).stopAfter = s.stopAfter := rfl
@[simp] theorem markActed_loose : (s.markActed).loose = s.loose := rfl

end

/-! ### withdrawPends -/

section
variable (s : State) (i : Nat)
@[simp] theorem withdrawPends_hart : (s.withdrawPends i).hart = s.hart := rfl
@[simp] theorem withdrawPends_others : (s.withdrawPends i).others = s.others := rfl
@[simp] theorem withdrawPends_gangs : (s.withdrawPends i).gangs = s.gangs := rfl
@[simp] theorem withdrawPends_jobs : (s.withdrawPends i).jobs = s.jobs := rfl
@[simp] theorem withdrawPends_transfers : (s.withdrawPends i).transfers = s.transfers := rfl
@[simp] theorem withdrawPends_streams : (s.withdrawPends i).streams = s.streams := rfl
@[simp] theorem withdrawPends_cairnBlocks : (s.withdrawPends i).cairnBlocks = s.cairnBlocks := rfl
@[simp] theorem withdrawPends_nextKey : (s.withdrawPends i).nextKey = s.nextKey := rfl
@[simp] theorem withdrawPends_dies : (s.withdrawPends i).dies = s.dies := rfl
@[simp] theorem withdrawPends_module : (s.withdrawPends i).module = s.module := rfl
@[simp] theorem withdrawPends_mem : (s.withdrawPends i).mem = s.mem := rfl
@[simp] theorem withdrawPends_stale : (s.withdrawPends i).stale = s.stale := rfl
@[simp] theorem withdrawPends_ticks : (s.withdrawPends i).ticks = s.ticks := rfl
@[simp] theorem withdrawPends_agenda : (s.withdrawPends i).agenda = s.agenda := rfl
@[simp] theorem withdrawPends_args : (s.withdrawPends i).args = s.args := rfl
@[simp] theorem withdrawPends_stopAfter : (s.withdrawPends i).stopAfter = s.stopAfter := rfl
@[simp] theorem withdrawPends_loose : (s.withdrawPends i).loose = s.loose := rfl

end

end Sys2Proof.Laws
end

