-- ==== Sys2Proof/Laws/Memory.lean ====
section
/-! SUPPORT. Keyed data reads what was written, and every operation on memory keeps the canonical form. -/

namespace Sys2Proof.Laws

open Sys2Proof.Machine

/-! ### Reading after writing -/

section Sparse
variable {α : Type} [DecidableEq α] (d : α)

/-- Below the lowest key everything reads as unlisted. -/
theorem get_below : ∀ (m : Sparse α) (low a : Nat), Sparse.wfFrom d low m = true → a < low → Sparse.get d m a = d
  | [], _, _, _, _ => rfl
  | (k, v) :: m, low, a, h, ha => by
    simp only [Sparse.wfFrom, Bool.and_eq_true, decide_eq_true_eq] at h
    unfold Sparse.get
    rw [if_neg (by omega)]
    exact get_below m (k + 1) a h.2 (by omega)

theorem get_set_same : ∀ (m : Sparse α) (low a : Nat) (b : α), Sparse.wfFrom d low m = true →
    Sparse.get d (Sparse.set d m a b) a = b
  | [], _, a, b, _ => by
    unfold Sparse.set; split <;> simp_all [Sparse.get]
  | (k, v) :: m, low, a, b, h => by
    simp only [Sparse.wfFrom, Bool.and_eq_true, decide_eq_true_eq] at h
    unfold Sparse.set
    split
    · split
      · rename_i h1 h2
        unfold Sparse.get; rw [if_neg (by omega), h2]
        exact get_below d m (k + 1) a h.2 (by omega)
      · simp [Sparse.get]
    · split
      · split
        · rename_i h1 h2 h3
          rw [h3, h2]; exact get_below d m (k + 1) k h.2 (by omega)
        · simp [Sparse.get]
      · unfold Sparse.get; rw [if_neg (by omega)]
        exact get_set_same m (k + 1) a b h.2

theorem get_set_other : ∀ (m : Sparse α) (a c : Nat) (b : α), c ≠ a → Sparse.get d (Sparse.set d m a b) c = Sparse.get d m c
  | [], a, c, b, h => by
    unfold Sparse.set; split
    · rfl
    · simp [Sparse.get, h]
  | (k, v) :: m, a, c, b, h => by
    unfold Sparse.set
    split
    · split
      · rfl
      · conv_lhs => unfold Sparse.get
        rw [if_neg h]
    · split
      · rename_i h1 h2
        split
        · conv_rhs => unfold Sparse.get
          rw [if_neg (by omega)]
        · simp only [Sparse.get, if_neg h, if_neg (show ¬ c = k by omega)]
      · simp only [Sparse.get]
        split
        · rfl
        · exact get_set_other m a c b h

/-! ### The canonical form -/

theorem wfFrom_mono : ∀ (m : Sparse α) (low low' : Nat), low' ≤ low → Sparse.wfFrom d low m = true → Sparse.wfFrom d low' m = true
  | [], _, _, _, _ => rfl
  | (k, v) :: m, low, low', h, hm => by
    simp only [Sparse.wfFrom, Bool.and_eq_true, decide_eq_true_eq] at *
    exact ⟨⟨by omega, hm.1.2⟩, hm.2⟩

theorem wfFrom_set : ∀ (m : Sparse α) (low a : Nat) (b : α), low ≤ a → Sparse.wfFrom d low m = true →
    Sparse.wfFrom d low (Sparse.set d m a b) = true
  | [], low, a, b, ha, _ => by
    unfold Sparse.set; split <;> simp_all [Sparse.wfFrom]
  | (k, v) :: m, low, a, b, ha, h => by
    have h' := h
    simp only [Sparse.wfFrom, Bool.and_eq_true, decide_eq_true_eq] at h'
    unfold Sparse.set
    split
    · split
      · exact h
      · rename_i h1 h2
        simp only [Sparse.wfFrom, Bool.and_eq_true, decide_eq_true_eq]
        exact ⟨⟨ha, h2⟩, ⟨by omega, h'.1.2⟩, h'.2⟩
    · split
      · split
        · exact wfFrom_mono d m (k + 1) low (by omega) h'.2
        · rename_i h1 h2 h3
          simp only [Sparse.wfFrom, Bool.and_eq_true, decide_eq_true_eq]
          exact ⟨⟨ha, h3⟩, by rw [h2]; exact h'.2⟩
      · simp only [Sparse.wfFrom, Bool.and_eq_true, decide_eq_true_eq]
        exact ⟨h'.1, wfFrom_set m (k + 1) a b (by omega) h'.2⟩

theorem wf_set (m : Sparse α) (a : Nat) (b : α) (h : Sparse.wf d m = true) : Sparse.wf d (Sparse.set d m a b) = true :=
  wfFrom_set d m 0 a b (Nat.zero_le a) h

theorem wf_setList : ∀ (bs : List α) (m : Sparse α) (a : Nat), Sparse.wf d m = true → Sparse.wf d (Sparse.setList d m a bs) = true
  | [], _, _, h => h
  | b :: bs, m, a, h => wf_setList bs (Sparse.set d m a b) (a + 1) (wf_set d m a b h)

theorem wfFrom_filter (p : Nat × α → Bool) : ∀ (m : Sparse α) (low : Nat), Sparse.wfFrom d low m = true →
    Sparse.wfFrom d low (m.filter p) = true
  | [], _, _ => rfl
  | (k, v) :: m, low, h => by
    simp only [Sparse.wfFrom, Bool.and_eq_true, decide_eq_true_eq] at h
    rw [List.filter_cons]
    have ih := wfFrom_filter p m (k + 1) h.2
    split
    · simp only [Sparse.wfFrom, Bool.and_eq_true, decide_eq_true_eq]
      exact ⟨h.1, ih⟩
    · exact wfFrom_mono d _ (k + 1) low (by omega) ih

theorem wf_filter (p : Nat × α → Bool) (m : Sparse α) (h : Sparse.wf d m = true) : Sparse.wf d (m.filter p) = true :=
  wfFrom_filter d p m 0 h

/-- A list of values written reads back, and every other key reads as before. -/
theorem get_setList : ∀ (bs : List α) (m : Sparse α) (a c : Nat), Sparse.wf d m = true →
    Sparse.get d (Sparse.setList d m a bs) c =
      if a ≤ c ∧ c < a + bs.length then bs[c - a]?.getD d else Sparse.get d m c
  | [], m, a, c, _ => by
    rw [if_neg (by simp)]; rfl
  | b :: bs, m, a, c, h => by
    show Sparse.get d (Sparse.setList d (Sparse.set d m a b) (a + 1) bs) c = _
    rw [get_setList bs (Sparse.set d m a b) (a + 1) c (wf_set d m a b h)]
    by_cases hc : c = a
    · subst hc
      rw [if_neg (by omega), if_pos (by simp), Nat.sub_self, get_set_same d m 0 c b h]
      rfl
    · by_cases h1 : a + 1 ≤ c ∧ c < a + 1 + bs.length
      · rw [if_pos h1, if_pos (by simp only [List.length_cons]; omega)]
        rw [show c - a = (c - (a + 1)) + 1 by omega, List.getElem?_cons_succ]
      · rw [if_neg h1, if_neg (by simp only [List.length_cons]; omega), get_set_other d m a c b hc]

/-- Equal readings make equal data. -/
theorem ext_from : ∀ (m n : Sparse α) (low : Nat), Sparse.wfFrom d low m = true → Sparse.wfFrom d low n = true →
    (∀ a, Sparse.get d m a = Sparse.get d n a) → m = n
  | [], [], _, _, _, _ => rfl
  | [], (k, v) :: n, low, _, h, e => by
    simp only [Sparse.wfFrom, Bool.and_eq_true, decide_eq_true_eq] at h
    exact absurd (by simpa [Sparse.get] using (e k).symm) h.1.2
  | (k, v) :: m, [], low, h, _, e => by
    simp only [Sparse.wfFrom, Bool.and_eq_true, decide_eq_true_eq] at h
    exact absurd (by simpa [Sparse.get] using e k) h.1.2
  | (k, v) :: m, (k', v') :: n, low, h, h', e => by
    have w := h
    have w' := h'
    simp only [Sparse.wfFrom, Bool.and_eq_true, decide_eq_true_eq] at w w'
    have hk : k = k' := by
      rcases Nat.lt_trichotomy k k' with hlt | heq | hgt
      · have e1 := e k
        simp only [Sparse.get, if_true, if_neg (show ¬ k = k' by omega)] at e1
        rw [get_below d n (k' + 1) k w'.2 (by omega)] at e1
        exact absurd e1 w.1.2
      · exact heq
      · have e1 := e k'
        simp only [Sparse.get, if_true, if_neg (show ¬ k' = k by omega)] at e1
        rw [get_below d m (k + 1) k' w.2 (by omega)] at e1
        exact absurd e1.symm w'.1.2
    subst hk
    have hv : v = v' := by simpa [Sparse.get] using e k
    subst hv
    rw [ext_from m n (k + 1) w.2 w'.2 (fun a => by
      by_cases ha : a = k
      · subst ha; rw [get_below d m (a + 1) a w.2 (by omega), get_below d n (a + 1) a w'.2 (by omega)]
      · have e1 := e a
        simpa only [Sparse.get, if_neg ha] using e1)]

end Sparse

/-! ### Memory under the operations on it -/

/-- A change of the state keeps memory canonical. -/
def KeepsMemory (s t : State) : Prop := Memory.wf s.mem = true → Memory.wf t.mem = true

theorem keeps_refl (s : State) : KeepsMemory s s := id

theorem keeps_trans {s t u : State} (h : KeepsMemory s t) (k : KeepsMemory t u) : KeepsMemory s u := fun w => k (h w)

theorem keeps_same {s t : State} (h : t.mem = s.mem) : KeepsMemory s t := fun w => by rw [h]; exact w

theorem keeps_fold {α : Type} (f : State → α → State) (h : ∀ s a, KeepsMemory s (f s a)) :
    ∀ (l : List α) (s : State), KeepsMemory s (l.foldl f s)
  | [], s => keeps_refl s
  | a :: l, s => keeps_trans (h s a) (keeps_fold f h l (f s a))

theorem reset_memory : Memory.wf State.reset.mem = true := rfl

theorem keeps_setList (s : State) (key : Nat) (bs : List Byte) : KeepsMemory s (s.setMem (Sparse.setList 0 s.mem key bs)) :=
  fun w => wf_setList 0#8 bs s.mem key w

theorem keeps_set (s : State) (key : Nat) (b : Byte) : KeepsMemory s (s.setMem (Sparse.set 0 s.mem key b)) :=
  fun w => wf_set 0#8 s.mem key b w

theorem keeps_filter (s : State) (p : Nat × Byte → Bool) : KeepsMemory s (s.setMem (s.mem.filter p)) :=
  fun w => wf_filter 0#8 p s.mem w

@[simp] theorem markWritten_mem (s : State) (pa n : Nat) : (s.markWritten pa n).mem = s.mem := rfl

@[simp] theorem writeHome_mem (s : State) (key : Nat) (bs : List Byte) :
    (s.writeHome key bs).mem = Sparse.setList 0 s.mem key bs := by
  unfold State.writeHome; split <;> rfl

theorem keeps_writeHome (s : State) (key : Nat) (bs : List Byte) : KeepsMemory s (s.writeHome key bs) := fun w => by
  rw [writeHome_mem]; exact wf_setList 0#8 bs s.mem key w

@[simp] theorem noteStale_mem (s : State) (die key n : Nat) : (s.noteStale die key n).mem = s.mem := by
  unfold State.noteStale; split <;> rfl

theorem keeps_writeFrom (s : State) (die key : Nat) (bs : List Byte) : KeepsMemory s (s.writeFrom die key bs) := by
  unfold State.writeFrom
  dsimp only
  split
  · exact keeps_same (by simp)
  · exact keeps_trans (keeps_same (noteStale_mem s die key bs.length)) (keeps_writeHome _ key bs)

theorem keeps_drainTo (s : State) (die home : Nat) : KeepsMemory s (s.drainTo die home) := by
  unfold State.drainTo
  exact fun w => keeps_fold _ (fun s (o : OutStore) => keeps_writeHome s o.pa o.bytes) _ _ w

theorem keeps_drain (s : State) (die : Nat) : KeepsMemory s (s.drain die) := by
  unfold State.drain
  exact fun w => keeps_fold _ (fun s (o : OutStore) => keeps_writeHome s o.pa o.bytes) _ _ w

@[simp] theorem noteUse_mem (s : State) (v : View) (a : Word) : (s.noteUse v a).mem = s.mem := by
  unfold State.noteUse
  dsimp only
  split
  · rfl
  · split <;> rfl

theorem keeps_writeOwn (s : State) (key : Nat) (bs : List Byte) : KeepsMemory s (s.writeOwn key bs) := by
  unfold State.writeOwn
  exact keeps_trans (keeps_same (setOrder_mem s _)) (keeps_writeFrom _ _ key bs)

theorem keeps_land (s : State) (h : HeldStore) : KeepsMemory s (s.land h) := by
  unfold State.land
  have h1 : KeepsMemory s (match h.rel with
      | some scope => if 4 ≤ scope.toNat then s.drain s.dieOf else s
      | none => s) := by
    split
    · split
      · exact keeps_drain s _
      · exact keeps_refl s
    · exact keeps_refl s
  dsimp only
  split
  · exact keeps_trans h1 (keeps_trans (keeps_same (setOrder_mem _ _)) (keeps_writeOwn _ _ _))
  · exact keeps_trans h1 (keeps_writeOwn _ _ _)

theorem sawVector_mem : ∀ (l : List (Nat × Nat)) (s : State), (s.sawVector l).mem = s.mem
  | [], _ => rfl
  | _ :: l, _ => sawVector_mem l _

@[simp] theorem finishLoad_mem (s : State) (l : HeldLoad) : (s.finishLoad l).mem = s.mem := by
  cases l with
  | scalar rd key n sx =>
    show (State.setX _ _ _).mem = s.mem
    rw [setX_mem]; rfl
  | vector vd nibble size es => exact sawVector_mem _ s

theorem fold_finishLoad_mem : ∀ (l : List HeldLoad) (s : State), (l.foldl State.finishLoad s).mem = s.mem
  | [], _ => rfl
  | a :: l, s => (fold_finishLoad_mem l (s.finishLoad a)).trans (finishLoad_mem s a)

/-- A load that is held back changes no memory when it reads. -/
@[simp] theorem finishLoads_mem (s : State) (p : HeldLoad → Bool) : (s.finishLoads p).mem = s.mem :=
  fold_finishLoad_mem _ _

theorem keeps_landWhere (s : State) (p : HeldStore → Bool) : KeepsMemory s (s.landWhere p) := by
  unfold State.landWhere
  dsimp only
  refine keeps_trans ?_ (keeps_fold _ keeps_land _ _)
  split
  · exact keeps_same (by simp)
  · exact keeps_same (by simp)

theorem keeps_settle (s : State) : KeepsMemory s s.settle := by
  unfold State.settle
  exact keeps_trans (keeps_same (finishLoads_mem s _)) (keeps_trans (keeps_landWhere _ _) (keeps_same rfl))

theorem keeps_streamWrite (s : State) (vec : Bool) (group : Option Nat) (key : Nat) (bs : List Byte) :
    KeepsMemory s (s.streamWrite vec group key bs) := by
  unfold State.streamWrite
  dsimp only
  split
  · exact keeps_same (by simp)
  · refine keeps_trans ?_ (keeps_writeOwn _ key bs)
    unfold State.makeWay
    exact keeps_trans (keeps_same (by simp)) (keeps_landWhere _ _)

theorem keeps_scalarWrite (s : State) (key : Nat) (bs : List Byte) : KeepsMemory s (s.scalarWrite key bs) :=
  keeps_streamWrite s false none key bs

theorem keeps_vectorWrite (s : State) (key : Nat) (bs : List Byte) : KeepsMemory s (s.vectorWrite key bs) :=
  keeps_streamWrite s true none key bs

theorem keeps_storeNat (s t : State) (a : Word) (n v : Nat) (h : s.storeNat a n v = .ok t) : KeepsMemory s t := by
  unfold State.storeNat at h
  split at h
  · cases h
  · cases h
    exact keeps_trans (keeps_same (noteUse_mem _ _ _)) (keeps_scalarWrite _ _ _)

end Sys2Proof.Laws
end

