-- ==== Sys2Proof/Laws/Order.lean ====
section
/-! SUPPORT. A hart that performs its accesses in program order: nothing is held, so every operation over what is held changes nothing, and
its accesses are those of memory. -/

namespace Sys2Proof.Laws

open Sys2Proof.Machine

theorem overlay_nil : ∀ (bs : List Byte) (key : Nat), overlay [] key bs = bs
  | [], _ => rfl
  | b :: bs, key => by
    show (heldByte [] key).getD b :: overlay [] (key + 1) bs = _
    rw [overlay_nil bs]; rfl

/-- A state is its own when its order is put back. -/
theorem setOrder_self (s : State) : s.setOrder s.hart.order = s := rfl

theorem setOrder_start {s : State} (h : s.hart.order = .start) : s.setOrder .start = s := by rw [← h]; rfl

section
variable {s : State} (h : s.hart.order = .start)
include h

@[simp] theorem finishLoads_start (p : HeldLoad → Bool) : s.finishLoads p = s := by
  unfold State.finishLoads; rw [h]; exact setOrder_start h

@[simp] theorem landWhere_start (p : HeldStore → Bool) : s.landWhere p = s := by
  unfold State.landWhere
  dsimp only
  rw [show s.hart.order.stores = [] by rw [h]; rfl]
  show s.setOrder { s.hart.order with stores := [] } = s
  rw [h]; exact setOrder_start h

@[simp] theorem settle_start : s.settle = s := by
  unfold State.settle
  rw [finishLoads_start h, landWhere_start h]
  show s.setOrder { s.hart.order with epoch := 0 } = s
  rw [h]; exact setOrder_start h

@[simp] theorem acquire_start : s.acquire = s := by
  unfold State.acquire; rw [h]; exact setOrder_start h

@[simp] theorem ordered_start : s.ordered = s := by
  unfold State.ordered; rw [settle_start h, acquire_start h]

@[simp] theorem clearWay_start (key n : Nat) : s.clearWay key n = s := by
  unfold State.clearWay
  rw [landWhere_start h]
  show s.setOrder (s.hart.order.forget key n) = s
  rw [h]; exact setOrder_start h

@[simp] theorem makeWay_start (vec : Bool) (key n : Nat) : s.makeWay vec key n = s := by
  unfold State.makeWay; rw [finishLoads_start h, landWhere_start h]

@[simp] theorem sawScalar_start (key n : Nat) : s.sawScalar key n = s := by
  unfold State.sawScalar; rw [h]; exact setOrder_start h

@[simp] theorem sawVector_start (l : List (Nat × Nat)) : s.sawVector l = s := by
  unfold State.sawVector
  induction l with
  | nil => rfl
  | cons a l ih =>
    show l.foldl _ (s.setOrder (s.hart.order.saw true a.1 a.2)) = s
    rw [h]
    show l.foldl _ (s.setOrder .start) = s
    rw [setOrder_start h]; exact ih

theorem foundBytes_start (vec : Bool) (key n : Nat) : s.foundBytes vec key n = s.bytesAt s.dieOf key n := by
  unfold State.foundBytes; rw [h]; exact overlay_nil _ key

end

/-- In program order a stream reads memory as the hart's die finds it (R228). -/
theorem streamBytes_calm {s : State} (h : Calm s) (vec : Bool) (key n : Nat) : s.streamBytes vec key n = s.bytesAt s.dieOf key n := by
  unfold State.streamBytes State.earlyBytes
  rw [h.2]
  exact foundBytes_start h.1 vec key n

/-- In program order a store of a stream is written at once (R237). -/
theorem streamWrite_calm {s : State} (h : Calm s) (vec : Bool) (group : Option Nat) (key : Nat) (bs : List Byte) :
    s.streamWrite vec group key bs = s.writeFrom s.dieOf key bs := by
  unfold State.streamWrite
  rw [h.1, h.2]
  show ((s.setOrder .start).makeWay vec key bs.length).writeOwn key bs = _
  rw [setOrder_start h.1, makeWay_start h.1]
  rfl

end Sys2Proof.Laws
end

