-- ==== Sys2Proof/Laws/Effects.lean ====
section
/-! SUPPORT. Everything that taking an effect can do (R301 to R307), and the writes of records and slots that keep memory canonical. -/

namespace Sys2Proof.Laws

open Sys2Proof.Machine

/-! ### What a delivery is -/

/-- A delivery first lets held scalar loads read and forgets what was read early; then it halts the hart or enters one frame's handler through
one record; the effect entered is the trap's own, or TokenExhausted at a supervisor frame. -/
theorem deliverAs_cases (s : State) (t : Trap) (kind : BitVec 2) (vec : Bool) (resume : ResumeKind) (byRequest : Bool) :
    let u := (s.finishLoads HeldLoad.isScalar).acquire
    (∃ id, s.deliverAs t kind vec resume byRequest = u.halt id) ∨
    (∃ i k f, u.freeToken (List.range 63) = some i ∧
      u.search (fun f => f.matches t.id u.hart.priv.sup) 256 u.hart.eff.srch = .frame k f ∧
      s.deliverAs t kind vec resume byRequest = u.enter i k f t kind vec resume byRequest) ∨
    (∃ i k f r, u.freeToken [63] = some i ∧
      u.search (fun f => f.priv && f.matches effExhausted true) 256 u.hart.eff.srch = .frame k f ∧
      s.deliverAs t kind vec resume byRequest =
        u.enter i k f ⟨effExhausted, t.id.setWidth 64, t.arg, 0, t.underPf⟩ 1 false r false) := by
  intro u
  have h : s.deliverAs t kind vec resume byRequest =
      (match u.search (fun f => f.matches t.id u.hart.priv.sup) 256 u.hart.eff.srch with
      | .nothing => u.halt t.id
      | .spillFault e => u.halt e
      | .frame k f =>
        match u.freeToken (List.range 63) with
        | some i => u.enterThrough i k f t kind vec resume byRequest
        | none => u.exhausted t resume) := rfl
  rw [h]
  clear_value u
  split
  · exact .inl ⟨_, rfl⟩
  · exact .inl ⟨_, rfl⟩
  · rename_i k f hf
    split
    · rename_i i hi
      unfold State.enterThrough
      split
      · exact .inl ⟨_, rfl⟩
      · exact .inr (.inl ⟨i, k, f, hi, hf, rfl⟩)
    · unfold State.exhausted State.enterThrough
      split
      · exact .inl ⟨_, rfl⟩
      · rename_i i hi
        split
        · rename_i k' f' hf'
          split
          · exact .inl ⟨_, rfl⟩
          · exact .inr (.inr ⟨i, k', f', _, hi, hf', rfl⟩)
        · exact .inl ⟨_, rfl⟩
        · exact .inl ⟨_, rfl⟩

/-- A hart that halts changes its condition and its job, and nothing else. -/
theorem halt_eq (s : State) (id : BitVec 16) :
    s.halt id = { s with
      hart := { s.hart with cond := .halted id (s.hart.pc &&& 0x00FFFFFFFFFFFFFE) }
      jobs := (s.updateJob s.hart.id.job (fun j =>
        if j.failed = none then { j with failed := some (id, s.hart.pc &&& 0x00FFFFFFFFFFFFFE) } else j)).jobs } := rfl

/-! ### What an entry changes, where the hart holds no access back -/

section
variable {s : State} (ho : s.hart.order = .start) (i k : Nat) (f : Frame) (t : Trap) (kind : BitVec 2) (vec : Bool) (resume : ResumeKind) (byRequest : Bool)
include ho

@[simp] theorem enter_others : (s.enter i k f t kind vec resume byRequest).others = s.others := by simp [State.enter, ho]
@[simp] theorem enter_gangs : (s.enter i k f t kind vec resume byRequest).gangs = s.gangs := by simp [State.enter, ho]
@[simp] theorem enter_jobs : (s.enter i k f t kind vec resume byRequest).jobs = s.jobs := by simp [State.enter, ho]
@[simp] theorem enter_transfers : (s.enter i k f t kind vec resume byRequest).transfers = s.transfers := by simp [State.enter, ho]
@[simp] theorem enter_streams : (s.enter i k f t kind vec resume byRequest).streams = s.streams := by simp [State.enter, ho]
@[simp] theorem enter_cairns : (s.enter i k f t kind vec resume byRequest).cairnBlocks = s.cairnBlocks := by simp [State.enter, ho]
@[simp] theorem enter_dies : (s.enter i k f t kind vec resume byRequest).dies = s.dies := by simp [State.enter, ho]
@[simp] theorem enter_module : (s.enter i k f t kind vec resume byRequest).module = s.module := by simp [State.enter, ho]
@[simp] theorem enter_stale : (s.enter i k f t kind vec resume byRequest).stale = s.stale := by simp [State.enter, ho]
@[simp] theorem enter_agenda : (s.enter i k f t kind vec resume byRequest).agenda = s.agenda := by simp [State.enter, ho]
@[simp] theorem enter_ticks : (s.enter i k f t kind vec resume byRequest).ticks = s.ticks := by simp [State.enter, ho]
@[simp] theorem enter_cond : (s.enter i k f t kind vec resume byRequest).hart.cond = .running := by simp [State.enter, ho]
@[simp] theorem enter_pc : (s.enter i k f t kind vec resume byRequest).hart.pc = f.target := by simp [State.enter, ho]
@[simp] theorem enter_priv : (s.enter i k f t kind vec resume byRequest).hart.priv = { s.hart.priv with sup := f.priv } := by simp [State.enter, ho]
@[simp] theorem enter_id : (s.enter i k f t kind vec resume byRequest).hart.id = s.hart.id := by simp [State.enter, ho]
@[simp] theorem enter_fp : (s.enter i k f t kind vec resume byRequest).hart.fp = s.hart.fp := by simp [State.enter, ho]
@[simp] theorem enter_mat : (s.enter i k f t kind vec resume byRequest).hart.mat = s.hart.mat := by simp [State.enter, ho]
@[simp] theorem enter_chain : (s.enter i k f t kind vec resume byRequest).hart.chain = s.hart.chain := by simp [State.enter, ho]
@[simp] theorem enter_eng : (s.enter i k f t kind vec resume byRequest).hart.eng = s.hart.eng := by simp [State.enter, ho]
@[simp] theorem enter_order : (s.enter i k f t kind vec resume byRequest).hart.order = s.hart.order := by simp [State.enter, ho]
@[simp] theorem enter_retired : (s.enter i k f t kind vec resume byRequest).hart.retired = s.hart.retired := by simp [State.enter, ho]
@[simp] theorem enter_loop0 : (s.enter i k f t kind vec resume byRequest).hart.loop0 = s.hart.loop0 := by simp [State.enter, ho]
@[simp] theorem enter_loop1 : (s.enter i k f t kind vec resume byRequest).hart.loop1 = s.hart.loop1 := by simp [State.enter, ho]
@[simp] theorem enter_iw0 : (s.enter i k f t kind vec resume byRequest).hart.iw0 = s.hart.iw0 := by simp [State.enter, ho]
@[simp] theorem enter_iw1 : (s.enter i k f t kind vec resume byRequest).hart.iw1 = s.hart.iw1 := by simp [State.enter, ho]
@[simp] theorem enter_vec : (s.enter i k f t kind vec resume byRequest).hart.vec = { s.hart.vec with pe := t.pm } := by simp [State.enter, ho]
@[simp] theorem enter_frames : (s.enter i k f t kind vec resume byRequest).hart.eff.frames = s.hart.eff.frames := by simp [State.enter, ho]
@[simp] theorem enter_depth : (s.enter i k f t kind vec resume byRequest).hart.eff.depth = s.hart.eff.depth := by simp [State.enter, ho]

@[simp] theorem enter_loose : (s.enter i k f t kind vec resume byRequest).loose = s.loose := by simp [State.enter, ho]
@[simp] theorem enter_waits : (s.enter i k f t kind vec resume byRequest).waits = (s.withdrawPends i).waits := by simp [State.enter, ho]
@[simp] theorem enter_nextKey : (s.enter i k f t kind vec resume byRequest).nextKey = s.nextKey := by simp [State.enter, ho]

end

section
variable (s : State) (i k : Nat) (f : Frame) (t : Trap) (kind : BitVec 2) (vec : Bool) (resume : ResumeKind) (byRequest : Bool)

theorem keeps_clearWay (key n : Nat) : KeepsMemory s (s.clearWay key n) := by
  unfold State.clearWay
  exact keeps_trans (keeps_landWhere s _) (keeps_same rfl)

/-- An entry writes bytes at the record, after the held stores that reach it. -/
theorem enter_mem : ∃ (key : Nat) (bs : List Byte), (s.enter i k f t kind vec resume byRequest).mem =
    Sparse.setList 0 ((s.withdrawPends i).clearWay (s.recordKey i 0) 128).mem key bs :=
  ⟨_, _, by simp only [State.enter, setPc_mem, setCond_mem, setX_mem, setPriv_mem, setVec_mem, setEff_mem]; rfl⟩

theorem keeps_enter : KeepsMemory s (s.enter i k f t kind vec resume byRequest) := fun w => by
  obtain ⟨key, bs, h⟩ := enter_mem s i k f t kind vec resume byRequest
  rw [h]; exact wf_setList 0#8 bs _ key (keeps_clearWay (s.withdrawPends i) _ _ w)

theorem keeps_halt (id : BitVec 16) : KeepsMemory s (s.halt id) := keeps_same rfl

theorem keeps_deliverAs : KeepsMemory s (s.deliverAs t kind vec resume byRequest) := by
  have hu : KeepsMemory s ((s.finishLoads HeldLoad.isScalar).acquire) := keeps_same (finishLoads_mem s _)
  rcases deliverAs_cases s t kind vec resume byRequest with ⟨_, h⟩ | ⟨_, _, _, _, _, h⟩ | ⟨_, _, _, _, _, _, h⟩ <;> rw [h]
  · exact keeps_trans hu (keeps_halt _ _)
  all_goals exact keeps_trans hu (keeps_enter _ _ _ _ _ _ _ _ _)

theorem keeps_deliver : KeepsMemory s (s.deliver t) := keeps_deliverAs s t _ _ _ _

/-- What no delivery changes, where the hart holds no access back. -/
theorem deliver_world (ho : s.hart.order = .start) : (s.deliver t).others = s.others ∧ (s.deliver t).gangs = s.gangs ∧
    (s.deliver t).transfers = s.transfers ∧ (s.deliver t).streams = s.streams ∧ (s.deliver t).dies = s.dies ∧
    (s.deliver t).module = s.module ∧ (s.deliver t).agenda = s.agenda ∧ (s.deliver t).ticks = s.ticks ∧ (s.deliver t).stale = s.stale := by
  unfold State.deliver
  rcases deliverAs_cases s t 1 false (if t.underPf || s.hart.eff.underPf then .underPf else .again) false with
    ⟨_, h⟩ | ⟨_, _, _, _, _, h⟩ | ⟨_, _, _, _, _, _, h⟩ <;> rw [h] <;> simp [halt_eq, ho]

end

/-! ### Results -/

/-- A meaning's result is a next state, whichever it is. -/
theorem out_next (r : Result) : ∃ t, r.out = .next t := by cases r <;> exact ⟨_, rfl⟩

theorem keeps_out (s : State) (r : Result) (h : (∃ t, r = .done t ∧ KeepsMemory s t) ∨ ∃ t u, r = .trap t u ∧ KeepsMemory s u) :
    ∃ t, r.out = .next t ∧ KeepsMemory s t := by
  rcases h with ⟨t, rfl, k⟩ | ⟨tr, u, rfl, k⟩
  · exact ⟨t, rfl, k⟩
  · exact ⟨_, rfl, keeps_trans k (keeps_deliver u tr)⟩

@[simp] theorem check_none (s : State) (rest : Result) : check none s rest = rest := rfl
@[simp] theorem check_some (t : Trap) (s : State) (rest : Result) : check (some t) s rest = .trap t s := rfl

/-! ### Other writes -/

theorem keeps_writeSlot (s : State) (f : Nat) (bs : List Byte) : KeepsMemory s (s.writeSlot f bs) := by
  unfold State.writeSlot
  split
  · exact keeps_trans (keeps_clearWay s _ _) (keeps_setList _ _ bs)
  · exact keeps_refl s

theorem keeps_setDword (s : State) (key v : Nat) : KeepsMemory s (s.setDword key v) := keeps_setList s key _

theorem keeps_putControl : ∀ (bs : List Byte) (s : State) (d off : Nat), KeepsMemory s (s.putControl d off bs)
  | [], s, _, _ => keeps_refl s
  | b :: bs, s, d, off => by
    unfold State.putControl
    refine keeps_trans ?_ (keeps_putControl bs _ d (off + 1))
    split
    · exact keeps_set s _ b
    · exact keeps_refl s

end Sys2Proof.Laws
end

