-- ==== Sys2Proof/Laws/Encoding.lean ====
section
/-! SUPPORT. Fields of words that are laid side by side, and how a decoded word answers: what the round trips of the encodings
rest on. -/

set_option linter.unusedSimpArgs false

namespace Sys2Proof.Laws

/-! ### Fields -/

theorem field_high {m n : Nat} (x : BitVec m) (y : BitVec n) (k l : Nat) (h : n ≤ k) :
    (x ++ y).extractLsb' k l = x.extractLsb' (k - n) l := by
  ext i hi
  simp only [BitVec.getElem_extractLsb', BitVec.getLsbD_append]
  rw [if_neg (by omega)]
  congr 1; omega

theorem field_low {m n : Nat} (x : BitVec m) (y : BitVec n) (k l : Nat) (h : k + l ≤ n) :
    (x ++ y).extractLsb' k l = y.extractLsb' k l := by
  ext i hi
  simp only [BitVec.getElem_extractLsb', BitVec.getLsbD_append]
  rw [if_pos (by omega)]

theorem field_whole {n : Nat} (x : BitVec n) (k : Nat) (h : k = 0) : x.extractLsb' k n = x := by
  subst h; simp

theorem field_join {n a b : Nat} (x : BitVec n) (h : n = a + b) :
    (x.extractLsb' b a ++ x.extractLsb' 0 b) = x.cast h := by
  subst h
  ext i hi
  simp only [BitVec.getElem_append, BitVec.getElem_extractLsb', BitVec.getElem_cast]
  split
  · simp [BitVec.getLsbD_eq_getElem hi]
  · rw [show b + (i - b) = i by omega, BitVec.getLsbD_eq_getElem hi]

theorem bit_high {m n : Nat} (x : BitVec m) (y : BitVec n) (k : Nat) (h : n ≤ k) :
    (x ++ y).getLsbD k = x.getLsbD (k - n) := by
  rw [BitVec.getLsbD_append, if_neg (by omega)]

theorem bit_low {m n : Nat} (x : BitVec m) (y : BitVec n) (k : Nat) (h : k < n) :
    (x ++ y).getLsbD k = y.getLsbD k := by
  rw [BitVec.getLsbD_append, if_pos h]

theorem bit_flag (b : Bool) (k : Nat) (h : k = 0) : (bit1 b).getLsbD k = b := by
  subst h; cases b <;> rfl

theorem bit_field {n : Nat} (x : BitVec n) (s l k : Nat) (h : k < l) : (x.extractLsb' s l).getLsbD k = x.getLsbD (s + k) := by
  simp [h]

/-! ### Answers -/

/-- The words of an encoded instruction. -/
theorem words {a b w u : IWord} (h : some (a, b) = some (w, u)) : a = w ∧ b = u := by
  cases h; exact ⟨rfl, rfl⟩

/-- Fields that are read as a well-formed instruction decode to it. -/
theorem decoded {w u : IWord} {c : Code} {i : Instr} (h : decodeFields w u = .ok c) (hi : c.instr = i) (hw : c.wf = true) :
    decode w u = .ok i := by
  simp only [decode, decodeCode, h, hw, if_true, hi]

/-! ### Fields of the formats -/

section Formats
variable (rs2 rd rs1 : Reg) (m : BitVec 6)

theorem major_R (fn : BitVec 11) : fMajor (packR rs2 fn m rd rs1) = m := by
  simp (disch := decide) only [fMajor, packR, field_high, field_low, field_whole, Nat.reduceSub]

theorem fn_R (fn : BitVec 11) : fFn11 (packR rs2 fn m rd rs1) = fn := by
  simp (disch := decide) only [fFn11, packR, field_high, field_low, field_whole, Nat.reduceSub]

theorem rd_R (fn : BitVec 11) : fRd (packR rs2 fn m rd rs1) = rd := by
  simp (disch := decide) only [fRd, packR, field_high, field_low, field_whole, Nat.reduceSub]

theorem rs1_R (fn : BitVec 11) : fRs1 (packR rs2 fn m rd rs1) = rs1 := by
  simp (disch := decide) only [fRs1, packR, field_high, field_low, field_whole, Nat.reduceSub]

theorem rs2_R (fn : BitVec 11) : fRs2 (packR rs2 fn m rd rs1) = rs2 := by
  simp (disch := decide) only [fRs2, packR, field_high, field_low, field_whole, Nat.reduceSub]

theorem major_I (imm : BitVec 16) : fMajor (packI imm m rd rs1) = m := by
  simp (disch := decide) only [fMajor, packI, field_high, field_low, field_whole, Nat.reduceSub]

theorem imm_I (imm : BitVec 16) : fImm16 (packI imm m rd rs1) = imm := by
  simp (disch := decide) only [fImm16, packI, field_high, field_low, field_whole, Nat.reduceSub]

theorem rd_I (imm : BitVec 16) : fRd (packI imm m rd rs1) = rd := by
  simp (disch := decide) only [fRd, packI, field_high, field_low, field_whole, Nat.reduceSub]

theorem rs1_I (imm : BitVec 16) : fRs1 (packI imm m rd rs1) = rs1 := by
  simp (disch := decide) only [fRs1, packI, field_high, field_low, field_whole, Nat.reduceSub]

theorem major_B (c : BitVec 3) (imm : BitVec 13) : fMajor (packB c imm m rd rs1) = m := by
  simp (disch := decide) only [fMajor, packB, field_high, field_low, field_whole, Nat.reduceSub]

theorem cond_B (c : BitVec 3) (imm : BitVec 13) : (packB c imm m rd rs1).extractLsb' 29 3 = c := by
  simp (disch := decide) only [packB, field_high, field_low, field_whole, Nat.reduceSub]

theorem imm_B (c : BitVec 3) (imm : BitVec 13) : (packB c imm m rd rs1).extractLsb' 16 13 = imm := by
  simp (disch := decide) only [packB, field_high, field_low, field_whole, Nat.reduceSub]

theorem rd_B (c : BitVec 3) (imm : BitVec 13) : fRd (packB c imm m rd rs1) = rd := by
  simp (disch := decide) only [fRd, packB, field_high, field_low, field_whole, Nat.reduceSub]

theorem rs1_B (c : BitVec 3) (imm : BitVec 13) : fRs1 (packB c imm m rd rs1) = rs1 := by
  simp (disch := decide) only [fRs1, packB, field_high, field_low, field_whole, Nat.reduceSub]

theorem major_mem (size : BitVec 3) (off : BitVec 13) : fMajor (memWord m size off rd rs1) = m := major_I rd rs1 m _

theorem rd_mem (size : BitVec 3) (off : BitVec 13) : fRd (memWord m size off rd rs1) = rd := rd_I rd rs1 m _

theorem rs1_mem (size : BitVec 3) (off : BitVec 13) : fRs1 (memWord m size off rd rs1) = rs1 := rs1_I rd rs1 m _

theorem size_mem (size : BitVec 3) (off : BitVec 13) : (memWord m size off rd rs1).extractLsb' 16 3 = size := by
  simp (disch := decide) only [memWord, packI, field_high, field_low, field_whole, Nat.reduceSub]

theorem off_mem (size : BitVec 3) (off : BitVec 13) : (memWord m size off rd rs1).extractLsb' 19 13 = off := by
  simp (disch := decide) only [memWord, packI, field_high, field_low, field_whole, Nat.reduceSub]

theorem major_fp (op : BitVec 6) (a : FArgs) : fMajor (fpWord op a) = 0x12#6 := major_R _ _ _ _ _

theorem op_fp (op : BitVec 6) (a : FArgs) : (fpWord op a).extractLsb' 16 6 = op := by
  simp (disch := decide) only [fpWord, packR, field_high, field_low, field_whole, Nat.reduceSub]

theorem args_fp (op : BitVec 6) (a : FArgs) : fF (fpWord op a) = a := by
  simp (disch := decide) only [fF, fRs1, fRs2, fRd, fpWord, packR, field_high, field_low, field_whole, Nat.reduceSub]

theorem major_amo (op : BitVec 4) (a : AmoArgs) : fMajor (amoWord op a) = 0x13#6 := major_R _ _ _ _ _

theorem op_amo (op : BitVec 4) (a : AmoArgs) : (amoWord op a).extractLsb' 23 4 = op := by
  simp (disch := decide) only [amoWord, packR, field_high, field_low, field_whole, Nat.reduceSub]

theorem args_amo (op : BitVec 4) (a : AmoArgs) : fA (amoWord op a) = a := by
  simp (disch := decide) only [fA, fRs1, fRs2, fRd, amoWord, packR, field_high, field_low, field_whole, Nat.reduceSub]

theorem major_ladder (pd : BitVec 6) (fn : BitVec 5) : fMajor (ladderWord rs2 pd fn rd rs1) = 0x30#6 := major_R _ _ _ _ _

theorem rd_ladder (pd : BitVec 6) (fn : BitVec 5) : fRd (ladderWord rs2 pd fn rd rs1) = rd := rd_R _ _ _ _ _

theorem rs1_ladder (pd : BitVec 6) (fn : BitVec 5) : fRs1 (ladderWord rs2 pd fn rd rs1) = rs1 := rs1_R _ _ _ _ _

theorem rs2_ladder (pd : BitVec 6) (fn : BitVec 5) : fRs2 (ladderWord rs2 pd fn rd rs1) = rs2 := rs2_R _ _ _ _ _

theorem fn_ladder (pd : BitVec 6) (fn : BitVec 5) : (ladderWord rs2 pd fn rd rs1).extractLsb' 16 5 = fn := by
  simp (disch := decide) only [ladderWord, packR, field_high, field_low, field_whole, Nat.reduceSub]

theorem pd_ladder (pd : BitVec 6) (fn : BitVec 5) : (ladderWord rs2 pd fn rd rs1).extractLsb' 21 6 = pd := by
  simp (disch := decide) only [ladderWord, packR, field_high, field_low, field_whole, Nat.reduceSub]

theorem major_effect (pg fn : BitVec 4) : fMajor (effectWord rs2 pg fn rd rs1) = 0x31#6 := major_R _ _ _ _ _

theorem rd_effect (pg fn : BitVec 4) : fRd (effectWord rs2 pg fn rd rs1) = rd := rd_R _ _ _ _ _

theorem rs1_effect (pg fn : BitVec 4) : fRs1 (effectWord rs2 pg fn rd rs1) = rs1 := rs1_R _ _ _ _ _

theorem rs2_effect (pg fn : BitVec 4) : fRs2 (effectWord rs2 pg fn rd rs1) = rs2 := rs2_R _ _ _ _ _

theorem fn_effect (pg fn : BitVec 4) : (effectWord rs2 pg fn rd rs1).extractLsb' 16 4 = fn := by
  simp (disch := decide) only [effectWord, packR, field_high, field_low, field_whole, Nat.reduceSub]

theorem pg_effect (pg fn : BitVec 4) : (effectWord rs2 pg fn rd rs1).extractLsb' 20 4 = pg := by
  simp (disch := decide) only [effectWord, packR, field_high, field_low, field_whole, Nat.reduceSub]

theorem zero_effect (pg fn : BitVec 4) : (effectWord rs2 pg fn rd rs1).extractLsb' 24 3 = 0#3 := by
  simp (disch := decide) only [effectWord, packR, field_high, field_low, field_whole, Nat.reduceSub]

end Formats

/-! ### Bodies of format V -/

/-- Bit 4 of a five-bit field apart from the rest. -/
theorem high_bit : ∀ v : BitVec 5, v.toNat ≤ 15 →
    v.getLsbD 4 = false ∧ (v ||| 0x10#5).getLsbD 4 = true ∧ v &&& 0xF#5 = v ∧ (v ||| 0x10#5) &&& 0xF#5 = v := by decide

theorem vector_major (op : VOp) (a : VArgs) : fMajor (op.word a) = op.code.major := by
  simp (disch := decide) only [fMajor, VOp.word, packV, field_high, field_low, field_whole, Nat.reduceSub]

theorem vector_fn (op : VOp) (a : VArgs) : fFn2 (op.word a) = op.code.fn := by
  simp (disch := decide) only [fFn2, VOp.word, packV, field_high, field_low, field_whole, Nat.reduceSub]

theorem vector_pg (op : VOp) (a : VArgs) : fPg (op.word a) = a.pg := by
  simp (disch := decide) only [fPg, VOp.word, packV, field_high, field_low, field_whole, Nat.reduceSub]

theorem vector_fields (op : VOp) (a : VArgs) : fV (op.word a) =
    { a with vs2 := if op.unary then op.code.sub else a.vs2, vd := if op.code.high then a.vd ||| 0x10#5 else a.vd } := by
  simp (disch := decide) only [fV, fRs1, fRs2, fRd, VOp.word, packV, field_high, field_low, field_whole, Nat.reduceSub]

theorem vector_bit (op : VOp) (a : VArgs) :
    fBit (op.word a) 9 = (if op.code.high then a.vd ||| 0x10#5 else a.vd).getLsbD 4 := by
  simp (disch := decide) only [fBit, VOp.word, packV, bit_high, bit_low, Nat.reduceSub]

theorem vector_found (op : VOp) (vs2 : Reg) (high : Bool) (h : op.compare = true → high = op.code.high) :
    vopOf op.code.major op.code.fn (if op.unary then op.code.sub else vs2) high = some op := by
  cases op <;> first | rfl | (rw [h rfl]; rfl)

/-- Only comparisons use the high bit. -/
theorem vector_high (op : VOp) : op.code.high = true → op.compare = true := by cases op <;> decide

theorem vector_alone (op : VOp) : op.unary = true → op.compare = false := by cases op <;> decide

theorem vector_none (op : VOp) : op.unary = true → op.noVs2 = true := by cases op <;> decide

theorem vector_args (op : VOp) (a : VArgs) (h0 : op.unary = true → a.vs2 = 0#5) (h1 : op.compare = true → a.vd.toNat ≤ 15) :
    op.args { a with vs2 := if op.unary then op.code.sub else a.vs2, vd := if op.code.high then a.vd ||| 0x10#5 else a.vd } = a := by
  obtain ⟨vs2, mod, sz, pg, vd, vs1⟩ := a
  have hh := vector_high op
  have hn := vector_alone op
  unfold VOp.args
  cases hu : op.unary with
  | true =>
    have hc := hn hu
    cases hx : op.code.high with
    | true => exact absurd (hh hx) (by rw [hc]; decide)
    | false => have h := h0 hu; subst h; rfl
  | false =>
    cases hc : op.compare with
    | true =>
      obtain ⟨_, _, e3, e4⟩ := high_bit vd (h1 hc)
      cases hx : op.code.high with
      | true => show VArgs.mk _ _ _ _ ((vd ||| 0x10#5) &&& 0xF#5) _ = _; rw [e4]; rfl
      | false => show VArgs.mk _ _ _ _ (vd &&& 0xF#5) _ = _; rw [e3]; rfl
    | false =>
      cases hx : op.code.high with
      | true => exact absurd (hh hx) (by rw [hc]; decide)
      | false => rfl

/-- A word whose major is that of a vector operation. -/
theorem vector_place (op : VOp) (w : IWord) (h : fMajor w = op.code.major) :
    decodeVectorBody w = (match vopOf op.code.major (fFn2 w) (fV w).vs2 (fBit w 9) with
      | some o => .ok (.vec o (o.args (fV w)))
      | none => .error .unassignedFunction) := by
  unfold decodeVectorBody; rw [h]; cases op <;> rfl

theorem vector_body (op : VOp) (a : VArgs) (hw : op.wf a = true) : decodeVectorBody (op.word a) = .ok (.vec op a) := by
  have h0 : op.unary = true → a.vs2 = 0#5 := by
    intro hu
    simp only [VOp.wf, vector_none op hu, Bool.and_eq_true, Bool.or_eq_true, Bool.not_true, Bool.false_eq_true, false_or,
      decide_eq_true_eq] at hw
    exact hw.1.1.1.2
  have h1 : op.compare = true → a.vd.toNat ≤ 15 := by
    intro hc
    simp only [VOp.wf, hc, Bool.and_eq_true, Bool.or_eq_true, Bool.not_true, Bool.false_eq_true, false_or,
      decide_eq_true_eq] at hw
    exact hw.1.1.2
  rw [vector_place op _ (vector_major op a), vector_fn, vector_fields, vector_bit]
  show (match vopOf _ _ (if op.unary then op.code.sub else a.vs2) _ with | some _ => _ | none => _) = _
  rw [vector_found op a.vs2 _ (fun hc => by
    obtain ⟨e1, e2, _, _⟩ := high_bit a.vd (h1 hc)
    cases hx : op.code.high
    · exact e1
    · exact e2)]
  exact congrArg (fun x => Except.ok (VectorBody.vec op x)) (vector_args op a h0 h1)

theorem memory_major (op : MOp) (a : VArgs) : fMajor (op.word a) = op.code.major := by
  simp (disch := decide) only [fMajor, MOp.word, packV, field_high, field_low, field_whole, Nat.reduceSub]

theorem memory_fn (op : MOp) (a : VArgs) : fFn2 (op.word a) = op.code.fn := by
  simp (disch := decide) only [fFn2, MOp.word, packV, field_high, field_low, field_whole, Nat.reduceSub]

theorem memory_pg (op : MOp) (a : VArgs) : fPg (op.word a) = a.pg := by
  simp (disch := decide) only [fPg, MOp.word, packV, field_high, field_low, field_whole, Nat.reduceSub]

theorem memory_fields (op : MOp) (a : VArgs) :
    fV (op.word a) = { a with vs1 := if op.code.high then a.vs1 ||| 0x10#5 else a.vs1 } := by
  simp (disch := decide) only [fV, fRs1, fRs2, fRd, MOp.word, packV, field_high, field_low, field_whole, Nat.reduceSub]

theorem memory_bit (op : MOp) (a : VArgs) :
    fBit (op.word a) 4 = (if op.code.high then a.vs1 ||| 0x10#5 else a.vs1).getLsbD 4 := by
  simp (disch := decide) only [fBit, MOp.word, packV, bit_low]

/-- Only indexed and strided forms use the high bit. -/
theorem memory_high (op : MOp) : op.code.high = true → (op.indexed || op.strided) = true := by cases op <;> decide

theorem memory_found (op : MOp) (high : Bool) (h : (op.indexed || op.strided) = true → high = op.code.high) :
    mopOf op.code.major op.code.fn high = some op := by
  cases op <;> first | rfl | (rw [h rfl]; rfl)

theorem memory_args (op : MOp) (a : VArgs) (h1 : (op.indexed || op.strided) = true → a.vs1.toNat ≤ 15) :
    op.args { a with vs1 := if op.code.high then a.vs1 ||| 0x10#5 else a.vs1 } = a := by
  obtain ⟨vs2, mod, sz, pg, vd, vs1⟩ := a
  have hh := memory_high op
  unfold MOp.args
  cases hc : (op.indexed || op.strided) with
  | true =>
    obtain ⟨_, _, e3, e4⟩ := high_bit vs1 (h1 hc)
    cases hx : op.code.high with
    | true => show VArgs.mk _ _ _ _ _ ((vs1 ||| 0x10#5) &&& 0xF#5) = _; rw [e4]
    | false => show VArgs.mk _ _ _ _ _ (vs1 &&& 0xF#5) = _; rw [e3]
  | false =>
    cases hx : op.code.high with
    | true => exact absurd (hh hx) (by rw [hc]; decide)
    | false => rfl

theorem memory_place (op : MOp) (w : IWord) (h : fMajor w = op.code.major) :
    decodeVectorBody w = (match mopOf op.code.major (fFn2 w) (fBit w 4) with
      | some o => .ok (.mem o (o.args (fV w)))
      | none => .error .unassignedFunction) := by
  unfold decodeVectorBody; rw [h]; cases op <;> rfl

theorem memory_body (op : MOp) (a : VArgs) (hw : op.wf a = true) : decodeVectorBody (op.word a) = .ok (.mem op a) := by
  have h1 : (op.indexed || op.strided) = true → a.vs1.toNat ≤ 15 := by
    intro hc
    simp only [MOp.wf, hc, Bool.and_eq_true, Bool.or_eq_true, Bool.not_true, Bool.false_eq_true, false_or,
      decide_eq_true_eq] at hw
    exact hw.2
  rw [memory_place op _ (memory_major op a), memory_fn, memory_fields, memory_bit]
  rw [memory_found op _ (fun hc => by
    obtain ⟨e1, e2, _, _⟩ := high_bit a.vs1 (h1 hc)
    cases hx : op.code.high
    · exact e1
    · exact e2)]
  exact congrArg (fun x => Except.ok (VectorBody.mem op x)) (memory_args op a h1)

theorem predicate_major (op : POp) (a : PArgs) : fMajor (op.word a) = 0x27#6 := by
  simp (disch := decide) only [fMajor, POp.word, field_high, field_low, field_whole, Nat.reduceSub]

theorem predicate_pg (op : POp) (a : PArgs) : fPg (op.word a) = a.pg := by
  simp (disch := decide) only [fPg, POp.word, field_high, field_low, field_whole, Nat.reduceSub]

theorem predicate_fn (op : POp) (a : PArgs) : fFn2 (op.word a) = op.code.2 := by
  simp (disch := decide) only [fFn2, POp.word, field_high, field_low, field_whole, Nat.reduceSub]

theorem predicate_ophi (op : POp) (a : PArgs) : (op.word a).extractLsb' 22 2 = op.code.1 := by
  simp (disch := decide) only [POp.word, field_high, field_low, field_whole, Nat.reduceSub]

theorem predicate_fields (op : POp) (a : PArgs) : fP (op.word a) = a := by
  obtain ⟨ps2, pg, pd, ps1⟩ := a
  simp (disch := decide) only [fP, POp.word, field_high, field_low, field_whole, Nat.reduceSub]
  rw [field_join (a := 1) (b := 5) ps2 rfl, field_join (a := 1) (b := 5) pd rfl, field_join (a := 1) (b := 5) ps1 rfl]
  simp

theorem predicate_body (op : POp) (a : PArgs) : decodeVectorBody (op.word a) = .ok (.pred op a) := by
  unfold decodeVectorBody
  rw [predicate_major, predicate_fn, predicate_ophi, predicate_fields]
  cases op <;> rfl

theorem count_major (op : COp) (a : CArgs) : fMajor (op.word a) = 0x28#6 := by
  simp (disch := decide) only [fMajor, COp.word, field_high, field_low, field_whole, Nat.reduceSub]

theorem count_pg (op : COp) (a : CArgs) : fPg (op.word a) = a.pg := by
  simp (disch := decide) only [fPg, COp.word, field_high, field_low, field_whole, Nat.reduceSub]

theorem count_fn (op : COp) (a : CArgs) : fFn2 (op.word a) = op.code := by
  simp (disch := decide) only [fFn2, COp.word, field_high, field_low, field_whole, Nat.reduceSub]

theorem count_zero (op : COp) (a : CArgs) : (op.word a).extractLsb' 26 6 = 0#6 ∧ (op.word a).extractLsb' 22 3 = 0#3 := by
  constructor <;> apply BitVec.eq_of_getLsbD_eq <;> intro i hi <;> interval_cases i <;>
    simp (disch := decide) only [bit_field, COp.word, bit_high, bit_low] <;> rfl

theorem count_fields (op : COp) (a : CArgs) : fC (op.word a) = a := by
  obtain ⟨pg, rd, ps1⟩ := a
  simp (disch := decide) only [fC, fRd, COp.word, field_high, field_low, field_whole, Nat.reduceSub]
  rw [field_join (a := 1) (b := 5) ps1 rfl]
  simp

theorem count_body (op : COp) (a : CArgs) : decodeVectorBody (op.word a) = .ok (.count op a) := by
  unfold decodeVectorBody
  rw [count_major, count_fn, count_fields, (count_zero op a).1, (count_zero op a).2]
  cases op <;> rfl

theorem pair_body : decodeVectorBody (pairWord 0) = .ok .pair := by decide

/-! ### The wide forms -/

theorem body_word (b : VectorBody) (hw : b.wf = true) (hs : ∀ a, b ≠ .vec .vsplat a) :
    decodeVectorBody b.word = .ok b ∧ fPg b.word = 0#4 := by
  cases b with
  | vec op a =>
    have h : op.wf a = true ∧ a.pg = 0#4 := by simpa [VectorBody.wf] using hw
    have e : VectorBody.word (.vec op a) = op.word a := by
      cases op <;> first | rfl | exact absurd rfl (hs a)
    rw [e, vector_pg]
    exact ⟨vector_body op a h.1, h.2⟩
  | mem op a =>
    have h : op.wf a = true ∧ a.pg = 0#4 := by simpa [VectorBody.wf] using hw
    exact ⟨memory_body op a h.1, (memory_pg op a).trans h.2⟩
  | pred op a =>
    have h : op.wf a = true ∧ a.pg = 0#4 := by simpa [VectorBody.wf] using hw
    exact ⟨predicate_body op a, (predicate_pg op a).trans h.2⟩
  | count op a =>
    have h : a.ps1.toNat ≤ 50 ∧ a.pg = 0#4 := by simpa [VectorBody.wf] using hw
    exact ⟨count_body op a, (count_pg op a).trans h.2⟩
  | pair => exact ⟨pair_body, by decide⟩

theorem prefix_major (pre : VectorPrefix) : fMajor pre.word = 0x35#6 := by
  simp (disch := decide) only [fMajor, VectorPrefix.word, field_high, field_low, field_whole, Nat.reduceSub]

theorem prefix_fields (pre : VectorPrefix) : fPrefix pre.word = pre := by
  obtain ⟨pg, rm, immx⟩ := pre
  simp (disch := decide) only [fPrefix, VectorPrefix.word, field_high, field_low, field_whole, Nat.reduceSub]
  rw [field_join (a := 7) (b := 10) immx rfl]
  simp

/-- The vector `vsplat` as a body. -/
theorem splat_body (vs2 : Reg) (mod : BitVec 3) (sz : BitVec 2) (pg : BitVec 4) (vd vs1 : Reg) :
    decodeVectorBody (packV vs2 mod sz pg 0x1#2 0x21#6 vd vs1) =
      .ok (.vec .vsplat { vs2 := vs2, mod := mod, sz := sz, pg := pg, vd := vd, vs1 := vs1 }) := by
  simp (disch := decide) only [decodeVectorBody, fMajor, fFn2, fV, fRs1, fRs2, fRd, packV, field_high, field_low, field_whole,
    Nat.reduceSub]
  rfl

theorem wide_major (imm : BitVec 26) : fMajor (wideSystemWord imm) = 0x36#6 := by
  simp (disch := decide) only [fMajor, wideSystemWord, field_high, field_low, field_whole, Nat.reduceSub]

theorem wide_fields (imm : BitVec 26) :
    (wideSystemWord imm).extractLsb' 16 16 ++ (wideSystemWord imm).extractLsb' 0 10 = imm := by
  simp (disch := decide) only [wideSystemWord, field_high, field_low, field_whole, Nat.reduceSub]
  rw [field_join (a := 16) (b := 10) imm rfl]
  simp

/-- A body of the ladder, once its own word is read. -/
theorem system_ladder (w : IWord) (f : FarInstr) (h : fMajor w = 0x30#6) (hd : decodeLadder w = .ok (.far f)) :
    decodeSystemBody w = (match (.ok (.far f) : Decoded) with
      | .ok (.far (.ladv rd rs1)) => if rs1 = 0#5 then .ok (.ladv rd) else .error .badBody
      | .ok (.far (.lrewind pd rd rs1)) => if rs1 = 0#5 then .ok (.lrewind pd rd) else .error .badBody
      | .ok (.far (.ltok rd rs1)) => if rs1 = 0#5 then .ok (.ltok rd) else .error .badBody
      | .ok (.far (.lpin rd rs1)) => if rs1 = 0#5 then .ok (.lpin rd) else .error .badBody
      | .ok (.far (.lunpin rd rs1)) => if rs1 = 0#5 then .ok (.lunpin rd) else .error .badBody
      | .ok (.far (.lopen pd rd rs1)) => if rs1 = 0#5 then .ok (.lopen pd rd) else .error .badBody
      | .ok (.far (.lset rd rs1)) => if rs1 = 0#5 then .ok (.lset rd) else .error .badBody
      | _ => .error .badBody) := by
  unfold decodeSystemBody; rw [h, ← hd]; rfl

/-- A body of the effects, once its own word is read. -/
theorem system_effect (w : IWord) (f : FarInstr) (h : fMajor w = 0x31#6) (hd : decodeEffect w = .ok (.far f)) :
    decodeSystemBody w = (match (.ok (.far f) : Decoded) with
      | .ok (.far (.perform rd rs1 rs2)) => if rs1 = 0#5 then .ok (.perform rd rs2) else .error .badBody
      | .ok (.far (.vperform pg rd rs1 rs2)) => if rs1 = 0#5 then .ok (.vperform pg rd rs2) else .error .badBody
      | .ok (.far (.resume rs1 rs2)) => if rs2 = 0#5 then .ok (.resume rs1) else .error .badBody
      | .ok (.far (.abort rs1 rs2)) => if rs2 = 0#5 then .ok (.abort rs1) else .error .badBody
      | _ => .error .badBody) := by
  unfold decodeSystemBody; rw [h, ← hd]; rfl

theorem system_body (b : SystemBody) : decodeSystemBody b.word = .ok b := by
  cases b with
  | ladv rd =>
    exact system_ladder (ladderWord 0 0 0x1#5 rd 0) (.ladv rd 0) (major_ladder _ _ _ _ _)
      (by unfold decodeLadder; rw [fn_ladder, pd_ladder, rd_ladder, rs1_ladder, rs2_ladder]; rfl)
  | lrewind pd rd =>
    exact system_ladder (ladderWord 0 pd 0x2#5 rd 0) (.lrewind pd rd 0) (major_ladder _ _ _ _ _)
      (by unfold decodeLadder; rw [fn_ladder, pd_ladder, rd_ladder, rs1_ladder, rs2_ladder]; rfl)
  | ltok rd =>
    exact system_ladder (ladderWord 0 0 0x3#5 rd 0) (.ltok rd 0) (major_ladder _ _ _ _ _)
      (by unfold decodeLadder; rw [fn_ladder, pd_ladder, rd_ladder, rs1_ladder, rs2_ladder]; rfl)
  | lpin rd =>
    exact system_ladder (ladderWord 0 0 0x6#5 rd 0) (.lpin rd 0) (major_ladder _ _ _ _ _)
      (by unfold decodeLadder; rw [fn_ladder, pd_ladder, rd_ladder, rs1_ladder, rs2_ladder]; rfl)
  | lunpin rd =>
    exact system_ladder (ladderWord 0 0 0x7#5 rd 0) (.lunpin rd 0) (major_ladder _ _ _ _ _)
      (by unfold decodeLadder; rw [fn_ladder, pd_ladder, rd_ladder, rs1_ladder, rs2_ladder]; rfl)
  | lopen pd rd =>
    exact system_ladder (ladderWord 0 pd 0x8#5 rd 0) (.lopen pd rd 0) (major_ladder _ _ _ _ _)
      (by unfold decodeLadder; rw [fn_ladder, pd_ladder, rd_ladder, rs1_ladder, rs2_ladder]; rfl)
  | lset rd =>
    exact system_ladder (ladderWord 0 0 0xB#5 rd 0) (.lset rd 0) (major_ladder _ _ _ _ _)
      (by unfold decodeLadder; rw [fn_ladder, pd_ladder, rd_ladder, rs1_ladder, rs2_ladder]; rfl)
  | perform rd rs2 =>
    exact system_effect (effectWord rs2 0 0x1#4 rd 0) (.perform rd 0 rs2) (major_effect _ _ _ _ _)
      (by unfold decodeEffect; rw [fn_effect, zero_effect, pg_effect, rd_effect, rs1_effect, rs2_effect]; rfl)
  | vperform pg rd rs2 =>
    exact system_effect (effectWord rs2 pg 0x2#4 rd 0) (.vperform pg rd 0 rs2) (major_effect _ _ _ _ _)
      (by unfold decodeEffect; rw [fn_effect, zero_effect, pg_effect, rd_effect, rs1_effect, rs2_effect]; rfl)
  | resume rs1 =>
    exact system_effect (effectWord 0 0 0x5#4 0 rs1) (.resume rs1 0) (major_effect _ _ _ _ _)
      (by unfold decodeEffect; rw [fn_effect, zero_effect, pg_effect, rd_effect, rs1_effect, rs2_effect]; rfl)
  | abort rs1 =>
    exact system_effect (effectWord 0 0 0x6#4 0 rs1) (.abort rs1 0) (major_effect _ _ _ _ _)
      (by unfold decodeEffect; rw [fn_effect, zero_effect, pg_effect, rd_effect, rs1_effect, rs2_effect]; rfl)
  | qsig rs2 =>
    have h : decodeToken (tokenWord rs2 0x4#3 0 0 0) = near (.qsig 0 rs2) := by
      simp (disch := decide) only [tokenWord, packR, decodeToken, fRs1, fRs2, fRd, unused, field_high, field_low, field_whole,
        Nat.reduceSub]
      rfl
    have m : fMajor (tokenWord rs2 0x4#3 0 0 0) = 0x2F#6 := major_R _ _ _ _ _
    show decodeSystemBody (tokenWord rs2 0x4#3 0 0 0) = _
    unfold decodeSystemBody; rw [m, h]; rfl
  | qwait rs2 =>
    have h : decodeToken (tokenWord rs2 0x5#3 0 0 0) = near (.qwait 0 rs2) := by
      simp (disch := decide) only [tokenWord, packR, decodeToken, fRs1, fRs2, fRd, unused, field_high, field_low, field_whole,
        Nat.reduceSub]
      rfl
    have m : fMajor (tokenWord rs2 0x5#3 0 0 0) = 0x2F#6 := major_R _ _ _ _ _
    show decodeSystemBody (tokenWord rs2 0x5#3 0 0 0) = _
    unfold decodeSystemBody; rw [m, h]; rfl

/-! ### Round trips of the shapes that many operations share -/

theorem vector_wf (op : VOp) (a : VArgs) : (op.instr a).wf = op.wf a := by cases op <;> rfl

theorem memory_wf (op : MOp) (a : VArgs) : (op.instr a).wf = op.wf a := by cases op <;> rfl

theorem predicate_wf (op : POp) (a : PArgs) : (op.instr a).wf = op.wf a := by cases op <;> rfl

theorem vector_word (op : VOp) (a : VArgs) (hw : op.wf a = true) : decode (op.word a) 0 = .ok (op.instr a) := by
  refine decoded (c := .near (op.instr a)) ?_ rfl ((vector_wf op a).trans hw)
  have h : decodeFields (op.word a) 0 = decodeVector (op.word a) := by
    unfold decodeFields; rw [vector_major]; cases op <;> rfl
  rw [h]; unfold decodeVector; rw [vector_body op a hw]; rfl

theorem memory_word (op : MOp) (a : VArgs) (hw : op.wf a = true) : decode (op.word a) 0 = .ok (op.instr a) := by
  refine decoded (c := .near (op.instr a)) ?_ rfl ((memory_wf op a).trans hw)
  have h : decodeFields (op.word a) 0 = decodeVector (op.word a) := by
    unfold decodeFields; rw [memory_major]; cases op <;> rfl
  rw [h]; unfold decodeVector; rw [memory_body op a hw]; rfl

theorem predicate_word (op : POp) (a : PArgs) (hw : (op.instr a).wf = true) : decode (op.word a) 0 = .ok (op.instr a) := by
  refine decoded (c := .near (op.instr a)) ?_ rfl hw
  unfold decodeFields; rw [predicate_major]; show decodeVector _ = _
  unfold decodeVector; rw [predicate_body op a]; rfl

theorem count_word (op : COp) (a : CArgs) (hw : (op.instr a).wf = true) : decode (op.word a) 0 = .ok (op.instr a) := by
  refine decoded (c := .near (op.instr a)) ?_ rfl hw
  unfold decodeFields; rw [count_major]; show decodeVector _ = _
  unfold decodeVector; rw [count_body op a]; rfl

theorem pair_word (pg : BitVec 4) (hw : (Instr.pair pg).wf = true) : decode (pairWord pg) 0 = .ok (.pair pg) :=
  decoded (c := .near (.pair pg)) (by revert pg; decide) rfl hw

theorem vsplatImm_word (pre : VectorPrefix) (vs1 : BitVec 5) (vd : Reg) (hw : (Instr.vsplatImm pre vs1 vd).wf = true) :
    decode pre.word (packV 0x0#5 0 0 0 0x1#2 0x21#6 vd vs1) = .ok (.vsplatImm pre vs1 vd) := by
  refine decoded (c := .near (.vsplatImm pre vs1 vd)) ?_ rfl hw
  unfold decodeFields; rw [prefix_major]; show decodeWideVector _ _ = _
  unfold decodeWideVector; rw [splat_body, prefix_fields]; rfl

theorem wideVectorForm_word (pre : VectorPrefix) (body : VectorBody) (hw : (Instr.wideVectorForm pre body).wf = true) :
    decode pre.word body.word = .ok (.wideVectorForm pre body) := by
  refine decoded (c := .near (.wideVectorForm pre body)) ?_ rfl hw
  have hb : body.wf = true := by
    have h : (pre.wfFor body && body.wf) = true := hw
    rw [Bool.and_eq_true] at h
    exact h.2
  unfold decodeFields; rw [prefix_major]; show decodeWideVector _ _ = _
  unfold decodeWideVector
  by_cases hs : ∃ a, body = .vec .vsplat a
  · obtain ⟨a, rfl⟩ := hs
    obtain ⟨vs2, mod, sz, pg, vd, vs1⟩ := a
    have h : vs2 = 0#5 ∧ pg = 0#4 := by
      have h := hb
      simp only [VectorBody.wf, VOp.wf, VOp.noVs2, VOp.unary, Bool.and_eq_true, Bool.or_eq_true] at h
      exact ⟨by simp_all, of_decide_eq_true h.2⟩
    obtain ⟨rfl, rfl⟩ := h
    have e : VectorBody.word (.vec .vsplat { vs2 := 0#5, mod := mod, sz := sz, pg := 0#4, vd := vd, vs1 := vs1 }) =
        packV 0x1#5 mod sz 0#4 0x1#2 0x21#6 vd vs1 := rfl
    rw [e, splat_body, prefix_fields]; rfl
  · obtain ⟨h1, h2⟩ := body_word body hb (fun a h => hs ⟨a, h⟩)
    rw [h1, h2, prefix_fields]
    cases body with
    | vec op a => cases op <;> first | rfl | exact absurd ⟨a, rfl⟩ hs
    | mem op a => rfl
    | pred op a => rfl
    | count op a => rfl
    | pair => rfl

theorem wideSystemForm_word (imm : BitVec 26) (body : SystemBody) (hw : (Instr.wideSystemForm imm body).wf = true) :
    decode (wideSystemWord imm) body.word = .ok (.wideSystemForm imm body) := by
  refine decoded (c := .near (.wideSystemForm imm body)) ?_ rfl hw
  unfold decodeFields; rw [wide_major]; show decodeWideSystem _ _ = _
  unfold decodeWideSystem; rw [system_body, wide_fields]; rfl

end Sys2Proof.Laws
end

