-- ==== Sys2Proof/Laws/Front.lean ====
section
/-! SUPPORT. What a front end reads below its journals stays as it is while commands are accepted, journalled and started. -/

namespace Sys2Proof.Laws

open Sys2Proof.Machine

/-- What a front end of die 0 reads below 2^24 is the same: no journal lies there. -/
structure SameLow (s t : State) : Prop where
  low : ∀ k < 2 ^ 24, Sparse.get 0 t.mem k = Sparse.get 0 s.mem k
  outbound : (t.die 0).outbound = (s.die 0).outbound
  tlb : (t.die 0).tlb = (s.die 0).tlb
  slots : (t.die 0).slots = (s.die 0).slots
  retired : t.module.retiredBlocks = s.module.retiredBlocks
  links : t.module.links = s.module.links

theorem sameLow_refl (s : State) : SameLow s s := ⟨fun _ _ => rfl, rfl, rfl, rfl, rfl, rfl⟩
theorem sameLow_trans {s t u : State} (a : SameLow s t) (b : SameLow t u) : SameLow s u :=
  ⟨fun k h => (b.low k h).trans (a.low k h), b.outbound.trans a.outbound, b.tlb.trans a.tlb, b.slots.trans a.slots, b.retired.trans a.retired, b.links.trans a.links⟩
theorem sameLow_passTime (s : State) : SameLow s s.passTime := ⟨fun _ _ => rfl, rfl, rfl, rfl, rfl, rfl⟩
theorem sameLow_onDie (s : State) (f : Die → Die) (h : ∀ x, (f x).outbound = x.outbound ∧ (f x).tlb = x.tlb ∧ (f x).slots = x.slots) : SameLow s (s.onDie 0 f) := by
  have e : (s.onDie 0 f).die 0 = f (s.die 0) := by simp [State.onDie, State.setDie, State.die]
  exact ⟨fun _ _ => rfl, by rw [e, (h _).1], by rw [e, (h _).2.1], by rw [e, (h _).2.2], rfl, rfl⟩
theorem sameLow_setDword (s : State) (key v : Nat) (h : 2 ^ 24 ≤ key) : SameLow s (s.setDword key v) := by
  have set : ∀ (bs : List Byte) (m : Image) (a k : Nat), k < a → Sparse.get 0 (Sparse.setList 0 m a bs) k = Sparse.get 0 m k := by
    intro bs
    induction bs with
    | nil => intro m a k h; rfl
    | cons b bs ih => intro m a k h; rw [Sparse.setList, ih _ _ _ (by omega), get_set_other _ _ _ _ _ (by omega)]
  exact ⟨fun k l => set _ _ _ _ (by omega), rfl, rfl, rfl, rfl, rfl⟩
theorem low_key (d seq : Nat) : 2 ^ 24 ≤ journalKey d seq := by
  have : journalKey d seq = 2 ^ 40 + d % 4 * 2 ^ 38 + (2 ^ 38 - 2 ^ 24) + 64 * (seq % 262144) := rfl
  omega
theorem sameLow_writeSeq (s : State) (seq : Nat) : SameLow s (s.writeSeq 0 seq) := by
  unfold State.writeSeq
  split <;> exact sameLow_trans (sameLow_setDword _ _ _ (low_key 0 seq)) (sameLow_onDie _ _ (fun _ => ⟨rfl, rfl, rfl⟩))
theorem sameLow_journalNew (s : State) (q op hash parent : Nat) (p : Phase) (f : Nat) : SameLow s (s.journalNew 0 q op hash parent p f).1 := by
  have := low_key 0 ((s.die 0).seq + 1)
  unfold State.journalNew
  refine sameLow_trans ?_ (sameLow_writeSeq _ _)
  iterate 7 refine sameLow_trans ?_ (sameLow_setDword _ _ _ (by omega))
  exact sameLow_trans (sameLow_passTime s) (sameLow_onDie _ _ (fun _ => ⟨rfl, rfl, rfl⟩))
theorem sameLow_journalPhase (s : State) (seq : Nat) (p : Phase) (f : Nat) : SameLow s (s.journalPhase 0 seq p f) := by
  have := low_key 0 seq
  unfold State.journalPhase
  split
  · exact sameLow_refl s
  · refine sameLow_trans ?_ (sameLow_writeSeq _ _)
    cases p
    · exact sameLow_trans (sameLow_passTime s) (sameLow_setDword _ _ _ (by omega))
    all_goals
      exact sameLow_trans (sameLow_trans (sameLow_passTime s) (sameLow_setDword _ _ _ (by omega))) (sameLow_setDword _ _ _ (by omega))
theorem sameLow_updateCommand (s : State) (seq : Nat) (f : Command → Command) : SameLow s (s.updateCommand 0 seq f) :=
  sameLow_onDie s _ (fun _ => ⟨rfl, rfl, rfl⟩)
theorem sameLow_startCommand (s : State) (c : Command) : SameLow s (s.startCommand 0 c) := by
  unfold State.startCommand
  refine sameLow_trans (sameLow_trans (sameLow_journalPhase s c.seq .started 0) ?_) (sameLow_onDie _ _ (fun _ => ⟨rfl, rfl, rfl⟩))
  exact sameLow_updateCommand _ _ _
theorem sameLow_acceptUnit (s : State) (q : Nat) (va : Word) (u : List Byte) (card : Option Card)
    (r : s.frontRead (s.queueView 0 q) va 64 = some u) (a : s.acceptCheck 0 q u false = .ok card) : SameLow s (s.acceptUnit 0 q va none) := by
  unfold State.acceptUnit
  simp only [r, Option.isSome_none, a, Option.getD_none]
  exact sameLow_trans (sameLow_journalNew _ _ _ _ _ _ _) (sameLow_onDie _ _ (fun _ => ⟨rfl, rfl, rfl⟩))
theorem bytesAt_low (s t : State) (m : SameLow s t) :
    ∀ (n key : Nat), key + n ≤ 2 ^ 24 → t.bytesAt 0 key n = s.bytesAt 0 key n
  | 0, _, _ => rfl
  | n + 1, key, h => by
    rw [State.bytesAt, State.bytesAt, bytesAt_low s t m n (key + 1) (by omega), State.byteAt, State.byteAt, if_pos (by omega), if_pos (by omega), m.outbound,
      m.low key (by omega)]
theorem entry_low (s t : State) (m : SameLow s t) (level table i : Nat) (h : table + 8 * i + 8 ≤ 2 ^ 24) :
    t.entry 0 level table i = s.entry 0 level table i := by
  have l : t.lost 0 (table + 8 * i) = s.lost 0 (table + 8 * i) := by simp only [State.lost, State.retiredAt, State.linkUp, m.retired, m.links]
  simp only [State.entry, State.dieNat, l, bytesAt_low s t m 8 _ h]
  rfl
/-- The region at 0x10000 is translated by `loadTables`, and a front end reads there what it read before. -/
theorem frontRead_low (s t : State) (m : SameLow s t) (c : (s.die 0).tlb = []) (v : View)
    (hv : v = frontView 0 1 0x100000) (bs : List Byte)
    (e : s.entry 0 0 0x100000 0 = .pointer 0x201000 ∧ s.entry 0 1 0x201000 0 = .pointer 0x202000 ∧ s.entry 0 2 0x202000 0 = .pointer 0x203000 ∧
      s.entry 0 3 0x203000 1 = .leaf 0x1003D) (q : s.lost 0 0x10600 = false) (b : s.bytesAt 0 0x10600 64 = bs) : t.frontRead v 0x10600 64 = some bs := by
  subst hv
  have low := entry_low s t m
  have q : t.lost 0 0x10600 = false := by rw [← q]; simp only [State.lost, State.retiredAt, State.linkUp, m.retired, m.links]
  have w : t.leafFor (frontView 0 1 0x100000) 0x10600 = .leaf (leafOf 0x1003D 16 0x10600) := by
    simp [State.leafFor, frontView, Die.cached, m.tlb, c, State.walk, low, e]
  have p : t.frontSpot (frontView 0 1 0x100000) .load 0x10600 = some 0x10600 := by
    have z : (0x10600 : Word).toNat = 0x10600 := rfl
    simp only [State.frontSpot, State.resolve, z, w]
    simp [leafOf, leafCheck, frontView, backed, q]
    rfl
  have g : piecesOf 0x10600 64 = [(0x10600, 64)] := by decide
  simp only [State.frontRead, g, List.foldl, p, List.nil_append]
  exact congrArg some ((bytesAt_low s t m 64 0x10600 (by decide)).trans b)

end Sys2Proof.Laws
end

