-- ==== Sys2Proof/Laws/PerInstr.lean ====
section
/-! SUPPORT. RoundTrip: the words that an instruction encodes to decode to it, one lemma per constructor. A step of another agent has
no words. -/

set_option Elab.async false
set_option linter.unusedSimpArgs false
set_option linter.unnecessarySeqFocus false
set_option linter.unreachableTactic false
set_option linter.unusedTactic false

namespace Sys2Proof.Laws.RoundTrip

/-- What encodes a well-formed instruction decodes to it, with every operand. -/
def Statement (i : Instr) : Prop := ∀ w u : IWord, i.wf = true → encode i = some (w, u) → decode w u = .ok i

theorem cycles (rd : Reg) : Statement (.cycles rd) := by
  intro w u hw h
  obtain ⟨rfl, rfl⟩ := words h
  refine decoded (c := .near (.cycles rd)) ?_ rfl hw
  unfold decodeFields; rw [major_R]; show decodeSystem _ = _
  unfold decodeSystem; rw [fn_R, rd_R, rs1_R, rs2_R]; rfl

theorem retired (rd : Reg) : Statement (.retired rd) := by
  intro w u hw h
  obtain ⟨rfl, rfl⟩ := words h
  refine decoded (c := .near (.retired rd)) ?_ rfl hw
  unfold decodeFields; rw [major_R]; show decodeSystem _ = _
  unfold decodeSystem; rw [fn_R, rd_R, rs1_R, rs2_R]; rfl

theorem hpre (rd rs1 rs2 : Reg) : Statement (.hpre rd rs1 rs2) := by
  intro w u hw h
  obtain ⟨rfl, rfl⟩ := words h
  refine decoded (c := .far (.hpre rd rs1 rs2)) ?_ rfl hw
  unfold decodeFields; rw [major_R]; show decodeSystem _ = _
  unfold decodeSystem; rw [fn_R, rd_R, rs1_R, rs2_R]; rfl

theorem hpark (rd : Reg) : Statement (.hpark rd) := by
  intro w u hw h
  obtain ⟨rfl, rfl⟩ := words h
  refine decoded (c := .far (.hpark rd)) ?_ rfl hw
  unfold decodeFields; rw [major_R]; show decodeSystem _ = _
  unfold decodeSystem; rw [fn_R, rd_R, rs1_R, rs2_R]; rfl

theorem hwake (rd rs1 rs2 : Reg) : Statement (.hwake rd rs1 rs2) := by
  intro w u hw h
  obtain ⟨rfl, rfl⟩ := words h
  refine decoded (c := .far (.hwake rd rs1 rs2)) ?_ rfl hw
  unfold decodeFields; rw [major_R]; show decodeSystem _ = _
  unfold decodeSystem; rw [fn_R, rd_R, rs1_R, rs2_R]; rfl

theorem add (rd rs1 rs2 : Reg) : Statement (.add rd rs1 rs2) := by
  intro w u hw h
  obtain ⟨rfl, rfl⟩ := words h
  refine decoded (c := .near (.add rd rs1 rs2)) ?_ rfl hw
  unfold decodeFields; rw [major_R]; show decodeInteger _ = _
  unfold decodeInteger; rw [fn_R, rd_R, rs1_R, rs2_R]; rfl

theorem sub (rd rs1 rs2 : Reg) : Statement (.sub rd rs1 rs2) := by
  intro w u hw h
  obtain ⟨rfl, rfl⟩ := words h
  refine decoded (c := .near (.sub rd rs1 rs2)) ?_ rfl hw
  unfold decodeFields; rw [major_R]; show decodeInteger _ = _
  unfold decodeInteger; rw [fn_R, rd_R, rs1_R, rs2_R]; rfl

theorem and (rd rs1 rs2 : Reg) : Statement (.and rd rs1 rs2) := by
  intro w u hw h
  obtain ⟨rfl, rfl⟩ := words h
  refine decoded (c := .near (.and rd rs1 rs2)) ?_ rfl hw
  unfold decodeFields; rw [major_R]; show decodeInteger _ = _
  unfold decodeInteger; rw [fn_R, rd_R, rs1_R, rs2_R]; rfl

theorem or (rd rs1 rs2 : Reg) : Statement (.or rd rs1 rs2) := by
  intro w u hw h
  obtain ⟨rfl, rfl⟩ := words h
  refine decoded (c := .near (.or rd rs1 rs2)) ?_ rfl hw
  unfold decodeFields; rw [major_R]; show decodeInteger _ = _
  unfold decodeInteger; rw [fn_R, rd_R, rs1_R, rs2_R]; rfl

theorem xor (rd rs1 rs2 : Reg) : Statement (.xor rd rs1 rs2) := by
  intro w u hw h
  obtain ⟨rfl, rfl⟩ := words h
  refine decoded (c := .near (.xor rd rs1 rs2)) ?_ rfl hw
  unfold decodeFields; rw [major_R]; show decodeInteger _ = _
  unfold decodeInteger; rw [fn_R, rd_R, rs1_R, rs2_R]; rfl

theorem andn (rd rs1 rs2 : Reg) : Statement (.andn rd rs1 rs2) := by
  intro w u hw h
  obtain ⟨rfl, rfl⟩ := words h
  refine decoded (c := .near (.andn rd rs1 rs2)) ?_ rfl hw
  unfold decodeFields; rw [major_R]; show decodeInteger _ = _
  unfold decodeInteger; rw [fn_R, rd_R, rs1_R, rs2_R]; rfl

theorem sll (rd rs1 rs2 : Reg) : Statement (.sll rd rs1 rs2) := by
  intro w u hw h
  obtain ⟨rfl, rfl⟩ := words h
  refine decoded (c := .near (.sll rd rs1 rs2)) ?_ rfl hw
  unfold decodeFields; rw [major_R]; show decodeInteger _ = _
  unfold decodeInteger; rw [fn_R, rd_R, rs1_R, rs2_R]; rfl

theorem srl (rd rs1 rs2 : Reg) : Statement (.srl rd rs1 rs2) := by
  intro w u hw h
  obtain ⟨rfl, rfl⟩ := words h
  refine decoded (c := .near (.srl rd rs1 rs2)) ?_ rfl hw
  unfold decodeFields; rw [major_R]; show decodeInteger _ = _
  unfold decodeInteger; rw [fn_R, rd_R, rs1_R, rs2_R]; rfl

theorem sra (rd rs1 rs2 : Reg) : Statement (.sra rd rs1 rs2) := by
  intro w u hw h
  obtain ⟨rfl, rfl⟩ := words h
  refine decoded (c := .near (.sra rd rs1 rs2)) ?_ rfl hw
  unfold decodeFields; rw [major_R]; show decodeInteger _ = _
  unfold decodeInteger; rw [fn_R, rd_R, rs1_R, rs2_R]; rfl

theorem slt (rd rs1 rs2 : Reg) : Statement (.slt rd rs1 rs2) := by
  intro w u hw h
  obtain ⟨rfl, rfl⟩ := words h
  refine decoded (c := .near (.slt rd rs1 rs2)) ?_ rfl hw
  unfold decodeFields; rw [major_R]; show decodeInteger _ = _
  unfold decodeInteger; rw [fn_R, rd_R, rs1_R, rs2_R]; rfl

theorem sltu (rd rs1 rs2 : Reg) : Statement (.sltu rd rs1 rs2) := by
  intro w u hw h
  obtain ⟨rfl, rfl⟩ := words h
  refine decoded (c := .near (.sltu rd rs1 rs2)) ?_ rfl hw
  unfold decodeFields; rw [major_R]; show decodeInteger _ = _
  unfold decodeInteger; rw [fn_R, rd_R, rs1_R, rs2_R]; rfl

theorem min (rd rs1 rs2 : Reg) : Statement (.min rd rs1 rs2) := by
  intro w u hw h
  obtain ⟨rfl, rfl⟩ := words h
  refine decoded (c := .near (.min rd rs1 rs2)) ?_ rfl hw
  unfold decodeFields; rw [major_R]; show decodeInteger _ = _
  unfold decodeInteger; rw [fn_R, rd_R, rs1_R, rs2_R]; rfl

theorem max (rd rs1 rs2 : Reg) : Statement (.max rd rs1 rs2) := by
  intro w u hw h
  obtain ⟨rfl, rfl⟩ := words h
  refine decoded (c := .near (.max rd rs1 rs2)) ?_ rfl hw
  unfold decodeFields; rw [major_R]; show decodeInteger _ = _
  unfold decodeInteger; rw [fn_R, rd_R, rs1_R, rs2_R]; rfl

theorem minu (rd rs1 rs2 : Reg) : Statement (.minu rd rs1 rs2) := by
  intro w u hw h
  obtain ⟨rfl, rfl⟩ := words h
  refine decoded (c := .near (.minu rd rs1 rs2)) ?_ rfl hw
  unfold decodeFields; rw [major_R]; show decodeInteger _ = _
  unfold decodeInteger; rw [fn_R, rd_R, rs1_R, rs2_R]; rfl

theorem maxu (rd rs1 rs2 : Reg) : Statement (.maxu rd rs1 rs2) := by
  intro w u hw h
  obtain ⟨rfl, rfl⟩ := words h
  refine decoded (c := .near (.maxu rd rs1 rs2)) ?_ rfl hw
  unfold decodeFields; rw [major_R]; show decodeInteger _ = _
  unfold decodeInteger; rw [fn_R, rd_R, rs1_R, rs2_R]; rfl

theorem mul (rd rs1 rs2 : Reg) : Statement (.mul rd rs1 rs2) := by
  intro w u hw h
  obtain ⟨rfl, rfl⟩ := words h
  refine decoded (c := .near (.mul rd rs1 rs2)) ?_ rfl hw
  unfold decodeFields; rw [major_R]; show decodeInteger _ = _
  unfold decodeInteger; rw [fn_R, rd_R, rs1_R, rs2_R]; rfl

theorem mulhiSs (rd rs1 rs2 : Reg) : Statement (.mulhiSs rd rs1 rs2) := by
  intro w u hw h
  obtain ⟨rfl, rfl⟩ := words h
  refine decoded (c := .near (.mulhiSs rd rs1 rs2)) ?_ rfl hw
  unfold decodeFields; rw [major_R]; show decodeInteger _ = _
  unfold decodeInteger; rw [fn_R, rd_R, rs1_R, rs2_R]; rfl

theorem mulhiUu (rd rs1 rs2 : Reg) : Statement (.mulhiUu rd rs1 rs2) := by
  intro w u hw h
  obtain ⟨rfl, rfl⟩ := words h
  refine decoded (c := .near (.mulhiUu rd rs1 rs2)) ?_ rfl hw
  unfold decodeFields; rw [major_R]; show decodeInteger _ = _
  unfold decodeInteger; rw [fn_R, rd_R, rs1_R, rs2_R]; rfl

theorem mulhiSu (rd rs1 rs2 : Reg) : Statement (.mulhiSu rd rs1 rs2) := by
  intro w u hw h
  obtain ⟨rfl, rfl⟩ := words h
  refine decoded (c := .near (.mulhiSu rd rs1 rs2)) ?_ rfl hw
  unfold decodeFields; rw [major_R]; show decodeInteger _ = _
  unfold decodeInteger; rw [fn_R, rd_R, rs1_R, rs2_R]; rfl

theorem div (rd rs1 rs2 : Reg) : Statement (.div rd rs1 rs2) := by
  intro w u hw h
  obtain ⟨rfl, rfl⟩ := words h
  refine decoded (c := .near (.div rd rs1 rs2)) ?_ rfl hw
  unfold decodeFields; rw [major_R]; show decodeInteger _ = _
  unfold decodeInteger; rw [fn_R, rd_R, rs1_R, rs2_R]; rfl

theorem divu (rd rs1 rs2 : Reg) : Statement (.divu rd rs1 rs2) := by
  intro w u hw h
  obtain ⟨rfl, rfl⟩ := words h
  refine decoded (c := .near (.divu rd rs1 rs2)) ?_ rfl hw
  unfold decodeFields; rw [major_R]; show decodeInteger _ = _
  unfold decodeInteger; rw [fn_R, rd_R, rs1_R, rs2_R]; rfl

theorem rem (rd rs1 rs2 : Reg) : Statement (.rem rd rs1 rs2) := by
  intro w u hw h
  obtain ⟨rfl, rfl⟩ := words h
  refine decoded (c := .near (.rem rd rs1 rs2)) ?_ rfl hw
  unfold decodeFields; rw [major_R]; show decodeInteger _ = _
  unfold decodeInteger; rw [fn_R, rd_R, rs1_R, rs2_R]; rfl

theorem remu (rd rs1 rs2 : Reg) : Statement (.remu rd rs1 rs2) := by
  intro w u hw h
  obtain ⟨rfl, rfl⟩ := words h
  refine decoded (c := .near (.remu rd rs1 rs2)) ?_ rfl hw
  unfold decodeFields; rw [major_R]; show decodeInteger _ = _
  unfold decodeInteger; rw [fn_R, rd_R, rs1_R, rs2_R]; rfl

theorem clz (rd rs1 : Reg) : Statement (.clz rd rs1) := by
  intro w u hw h
  obtain ⟨rfl, rfl⟩ := words h
  refine decoded (c := .near (.clz rd rs1)) ?_ rfl hw
  unfold decodeFields; rw [major_R]; show decodeInteger _ = _
  unfold decodeInteger; rw [fn_R, rd_R, rs1_R, rs2_R]; rfl

theorem ctz (rd rs1 : Reg) : Statement (.ctz rd rs1) := by
  intro w u hw h
  obtain ⟨rfl, rfl⟩ := words h
  refine decoded (c := .near (.ctz rd rs1)) ?_ rfl hw
  unfold decodeFields; rw [major_R]; show decodeInteger _ = _
  unfold decodeInteger; rw [fn_R, rd_R, rs1_R, rs2_R]; rfl

theorem popc (rd rs1 : Reg) : Statement (.popc rd rs1) := by
  intro w u hw h
  obtain ⟨rfl, rfl⟩ := words h
  refine decoded (c := .near (.popc rd rs1)) ?_ rfl hw
  unfold decodeFields; rw [major_R]; show decodeInteger _ = _
  unfold decodeInteger; rw [fn_R, rd_R, rs1_R, rs2_R]; rfl

theorem addi (rd rs1 : Reg) (imm : BitVec 16) : Statement (.addi rd rs1 imm) := by
  intro w u hw h
  obtain ⟨rfl, rfl⟩ := words h
  refine decoded (c := .near (.addi rd rs1 imm)) ?_ rfl hw
  unfold decodeFields; rw [major_I, imm_I, rd_I, rs1_I]; rfl

theorem andi (rd rs1 : Reg) (imm : BitVec 16) : Statement (.andi rd rs1 imm) := by
  intro w u hw h
  obtain ⟨rfl, rfl⟩ := words h
  refine decoded (c := .near (.andi rd rs1 imm)) ?_ rfl hw
  unfold decodeFields; rw [major_I, imm_I, rd_I, rs1_I]; rfl

theorem ori (rd rs1 : Reg) (imm : BitVec 16) : Statement (.ori rd rs1 imm) := by
  intro w u hw h
  obtain ⟨rfl, rfl⟩ := words h
  refine decoded (c := .near (.ori rd rs1 imm)) ?_ rfl hw
  unfold decodeFields; rw [major_I, imm_I, rd_I, rs1_I]; rfl

theorem xori (rd rs1 : Reg) (imm : BitVec 16) : Statement (.xori rd rs1 imm) := by
  intro w u hw h
  obtain ⟨rfl, rfl⟩ := words h
  refine decoded (c := .near (.xori rd rs1 imm)) ?_ rfl hw
  unfold decodeFields; rw [major_I, imm_I, rd_I, rs1_I]; rfl

theorem slti (rd rs1 : Reg) (imm : BitVec 16) : Statement (.slti rd rs1 imm) := by
  intro w u hw h
  obtain ⟨rfl, rfl⟩ := words h
  refine decoded (c := .near (.slti rd rs1 imm)) ?_ rfl hw
  unfold decodeFields; rw [major_I, imm_I, rd_I, rs1_I]; rfl

theorem sltiu (rd rs1 : Reg) (imm : BitVec 16) : Statement (.sltiu rd rs1 imm) := by
  intro w u hw h
  obtain ⟨rfl, rfl⟩ := words h
  refine decoded (c := .near (.sltiu rd rs1 imm)) ?_ rfl hw
  unfold decodeFields; rw [major_I, imm_I, rd_I, rs1_I]; rfl

theorem slli (rd rs1 : Reg) (shamt : BitVec 6) : Statement (.slli rd rs1 shamt) := by
  intro w u hw h
  obtain ⟨rfl, rfl⟩ := words h
  exact decoded (c := .near (.slli rd rs1 shamt)) (by simp (disch := decide) only [decodeFields, packI, decodeShift, fMajor,
    fRd, fRs1, fRs2, fFn11, fImm16, fBit, near, unused, unusedFar, field_high, field_low, field_whole, bit_high, bit_low,
    bit_flag, Nat.reduceSub] <;> rfl) rfl hw

theorem srli (rd rs1 : Reg) (shamt : BitVec 6) : Statement (.srli rd rs1 shamt) := by
  intro w u hw h
  obtain ⟨rfl, rfl⟩ := words h
  exact decoded (c := .near (.srli rd rs1 shamt)) (by simp (disch := decide) only [decodeFields, packI, decodeShift, fMajor,
    fRd, fRs1, fRs2, fFn11, fImm16, fBit, near, unused, unusedFar, field_high, field_low, field_whole, bit_high, bit_low,
    bit_flag, Nat.reduceSub] <;> rfl) rfl hw

theorem srai (rd rs1 : Reg) (shamt : BitVec 6) : Statement (.srai rd rs1 shamt) := by
  intro w u hw h
  obtain ⟨rfl, rfl⟩ := words h
  exact decoded (c := .near (.srai rd rs1 shamt)) (by simp (disch := decide) only [decodeFields, packI, decodeShift, fMajor,
    fRd, fRs1, fRs2, fFn11, fImm16, fBit, near, unused, unusedFar, field_high, field_low, field_whole, bit_high, bit_low,
    bit_flag, Nat.reduceSub] <;> rfl) rfl hw

theorem lis (rd : Reg) (imm : BitVec 16) (sh : BitVec 2) : Statement (.lis rd imm sh) := by
  intro w u hw h
  obtain ⟨rfl, rfl⟩ := words h
  exact decoded (c := .near (.lis rd imm sh)) (by simp (disch := decide) only [decodeFields, packI, fMajor, fRd, fRs1, fRs2,
    fFn11, fImm16, fBit, near, unused, unusedFar, field_high, field_low, field_whole, bit_high, bit_low, bit_flag,
    Nat.reduceSub] <;> rfl) rfl hw

theorem lisK (rd : Reg) (imm : BitVec 16) (sh : BitVec 2) : Statement (.lisK rd imm sh) := by
  intro w u hw h
  obtain ⟨rfl, rfl⟩ := words h
  exact decoded (c := .near (.lisK rd imm sh)) (by simp (disch := decide) only [decodeFields, packI, fMajor, fRd, fRs1, fRs2,
    fFn11, fImm16, fBit, near, unused, unusedFar, field_high, field_low, field_whole, bit_high, bit_low, bit_flag,
    Nat.reduceSub] <;> rfl) rfl hw

theorem addpc (rd : Reg) (imm : BitVec 16) : Statement (.addpc rd imm) := by
  intro w u hw h
  obtain ⟨rfl, rfl⟩ := words h
  exact decoded (c := .near (.addpc rd imm)) (by simp (disch := decide) only [decodeFields, packI, fMajor, fRd, fRs1, fRs2,
    fFn11, fImm16, fBit, near, unused, unusedFar, field_high, field_low, field_whole, bit_high, bit_low, bit_flag,
    Nat.reduceSub] <;> rfl) rfl hw

theorem jal (rd : Reg) (imm : BitVec 21) : Statement (.jal rd imm) := by
  intro w u hw h
  obtain ⟨rfl, rfl⟩ := words h
  have e : imm.extractLsb' 5 16 ++ imm.extractLsb' 0 5 = imm := by rw [field_join (a := 16) (b := 5) imm rfl]; simp
  exact decoded (c := .near (.jal rd imm)) (by simp (disch := decide) only [decodeFields, packI, fMajor, fRd, fRs1, fImm16,
    near, field_high, field_low, field_whole, bit_high, bit_low, bit_flag, Nat.reduceSub, e]) rfl hw

theorem jalr (rd rs1 : Reg) (imm : BitVec 16) : Statement (.jalr rd rs1 imm) := by
  intro w u hw h
  obtain ⟨rfl, rfl⟩ := words h
  refine decoded (c := .near (.jalr rd rs1 imm)) ?_ rfl hw
  unfold decodeFields; rw [major_I, imm_I, rd_I, rs1_I]; rfl

theorem beq (ra rb : Reg) (imm : BitVec 13) : Statement (.beq ra rb imm) := by
  intro w u hw h
  obtain ⟨rfl, rfl⟩ := words h
  refine decoded (c := .near (.beq ra rb imm)) ?_ rfl hw
  unfold decodeFields; rw [major_B]; show decodeBranch _ = _
  unfold decodeBranch; rw [cond_B, imm_B, rd_B, rs1_B]; rfl

theorem bne (ra rb : Reg) (imm : BitVec 13) : Statement (.bne ra rb imm) := by
  intro w u hw h
  obtain ⟨rfl, rfl⟩ := words h
  refine decoded (c := .near (.bne ra rb imm)) ?_ rfl hw
  unfold decodeFields; rw [major_B]; show decodeBranch _ = _
  unfold decodeBranch; rw [cond_B, imm_B, rd_B, rs1_B]; rfl

theorem blt (ra rb : Reg) (imm : BitVec 13) : Statement (.blt ra rb imm) := by
  intro w u hw h
  obtain ⟨rfl, rfl⟩ := words h
  refine decoded (c := .near (.blt ra rb imm)) ?_ rfl hw
  unfold decodeFields; rw [major_B]; show decodeBranch _ = _
  unfold decodeBranch; rw [cond_B, imm_B, rd_B, rs1_B]; rfl

theorem bge (ra rb : Reg) (imm : BitVec 13) : Statement (.bge ra rb imm) := by
  intro w u hw h
  obtain ⟨rfl, rfl⟩ := words h
  refine decoded (c := .near (.bge ra rb imm)) ?_ rfl hw
  unfold decodeFields; rw [major_B]; show decodeBranch _ = _
  unfold decodeBranch; rw [cond_B, imm_B, rd_B, rs1_B]; rfl

theorem bltu (ra rb : Reg) (imm : BitVec 13) : Statement (.bltu ra rb imm) := by
  intro w u hw h
  obtain ⟨rfl, rfl⟩ := words h
  refine decoded (c := .near (.bltu ra rb imm)) ?_ rfl hw
  unfold decodeFields; rw [major_B]; show decodeBranch _ = _
  unfold decodeBranch; rw [cond_B, imm_B, rd_B, rs1_B]; rfl

theorem bgeu (ra rb : Reg) (imm : BitVec 13) : Statement (.bgeu ra rb imm) := by
  intro w u hw h
  obtain ⟨rfl, rfl⟩ := words h
  refine decoded (c := .near (.bgeu ra rb imm)) ?_ rfl hw
  unfold decodeFields; rw [major_B]; show decodeBranch _ = _
  unfold decodeBranch; rw [cond_B, imm_B, rd_B, rs1_B]; rfl

theorem lb (rd rs1 : Reg) (off : BitVec 13) : Statement (.lb rd rs1 off) := by
  intro w u hw h
  obtain ⟨rfl, rfl⟩ := words h
  refine decoded (c := .near (.lb rd rs1 off)) ?_ rfl hw
  unfold decodeFields; rw [major_mem]; show decodeLoad _ = _
  unfold decodeLoad; rw [size_mem, off_mem, rd_mem, rs1_mem]; rfl

theorem lh (rd rs1 : Reg) (off : BitVec 13) : Statement (.lh rd rs1 off) := by
  intro w u hw h
  obtain ⟨rfl, rfl⟩ := words h
  refine decoded (c := .near (.lh rd rs1 off)) ?_ rfl hw
  unfold decodeFields; rw [major_mem]; show decodeLoad _ = _
  unfold decodeLoad; rw [size_mem, off_mem, rd_mem, rs1_mem]; rfl

theorem lw (rd rs1 : Reg) (off : BitVec 13) : Statement (.lw rd rs1 off) := by
  intro w u hw h
  obtain ⟨rfl, rfl⟩ := words h
  refine decoded (c := .near (.lw rd rs1 off)) ?_ rfl hw
  unfold decodeFields; rw [major_mem]; show decodeLoad _ = _
  unfold decodeLoad; rw [size_mem, off_mem, rd_mem, rs1_mem]; rfl

theorem ld (rd rs1 : Reg) (off : BitVec 13) : Statement (.ld rd rs1 off) := by
  intro w u hw h
  obtain ⟨rfl, rfl⟩ := words h
  refine decoded (c := .near (.ld rd rs1 off)) ?_ rfl hw
  unfold decodeFields; rw [major_mem]; show decodeLoad _ = _
  unfold decodeLoad; rw [size_mem, off_mem, rd_mem, rs1_mem]; rfl

theorem lbu (rd rs1 : Reg) (off : BitVec 13) : Statement (.lbu rd rs1 off) := by
  intro w u hw h
  obtain ⟨rfl, rfl⟩ := words h
  refine decoded (c := .near (.lbu rd rs1 off)) ?_ rfl hw
  unfold decodeFields; rw [major_mem]; show decodeLoad _ = _
  unfold decodeLoad; rw [size_mem, off_mem, rd_mem, rs1_mem]; rfl

theorem lhu (rd rs1 : Reg) (off : BitVec 13) : Statement (.lhu rd rs1 off) := by
  intro w u hw h
  obtain ⟨rfl, rfl⟩ := words h
  refine decoded (c := .near (.lhu rd rs1 off)) ?_ rfl hw
  unfold decodeFields; rw [major_mem]; show decodeLoad _ = _
  unfold decodeLoad; rw [size_mem, off_mem, rd_mem, rs1_mem]; rfl

theorem lwu (rd rs1 : Reg) (off : BitVec 13) : Statement (.lwu rd rs1 off) := by
  intro w u hw h
  obtain ⟨rfl, rfl⟩ := words h
  refine decoded (c := .near (.lwu rd rs1 off)) ?_ rfl hw
  unfold decodeFields; rw [major_mem]; show decodeLoad _ = _
  unfold decodeLoad; rw [size_mem, off_mem, rd_mem, rs1_mem]; rfl

theorem sb (rs rs1 : Reg) (off : BitVec 13) : Statement (.sb rs rs1 off) := by
  intro w u hw h
  obtain ⟨rfl, rfl⟩ := words h
  refine decoded (c := .near (.sb rs rs1 off)) ?_ rfl hw
  unfold decodeFields; rw [major_mem]; show decodeStore _ = _
  unfold decodeStore; rw [size_mem, off_mem, rd_mem, rs1_mem]; rfl

theorem sh (rs rs1 : Reg) (off : BitVec 13) : Statement (.sh rs rs1 off) := by
  intro w u hw h
  obtain ⟨rfl, rfl⟩ := words h
  refine decoded (c := .near (.sh rs rs1 off)) ?_ rfl hw
  unfold decodeFields; rw [major_mem]; show decodeStore _ = _
  unfold decodeStore; rw [size_mem, off_mem, rd_mem, rs1_mem]; rfl

theorem sw (rs rs1 : Reg) (off : BitVec 13) : Statement (.sw rs rs1 off) := by
  intro w u hw h
  obtain ⟨rfl, rfl⟩ := words h
  refine decoded (c := .near (.sw rs rs1 off)) ?_ rfl hw
  unfold decodeFields; rw [major_mem]; show decodeStore _ = _
  unfold decodeStore; rw [size_mem, off_mem, rd_mem, rs1_mem]; rfl

theorem sd (rs rs1 : Reg) (off : BitVec 13) : Statement (.sd rs rs1 off) := by
  intro w u hw h
  obtain ⟨rfl, rfl⟩ := words h
  refine decoded (c := .near (.sd rs rs1 off)) ?_ rfl hw
  unfold decodeFields; rw [major_mem]; show decodeStore _ = _
  unfold decodeStore; rw [size_mem, off_mem, rd_mem, rs1_mem]; rfl

theorem loop (k : Bool) (rs1 : Reg) (imm : BitVec 16) : Statement (.loop k rs1 imm) := by
  intro w u hw h
  obtain ⟨rfl, rfl⟩ := words h
  exact decoded (c := .near (.loop k rs1 imm)) (by simp (disch := decide) only [decodeFields, packI, fMajor, fRd, fRs1, fRs2,
    fFn11, fImm16, fBit, near, unused, unusedFar, field_high, field_low, field_whole, bit_high, bit_low, bit_flag,
    Nat.reduceSub] <;> rfl) rfl hw

theorem crr (rd : Reg) (crn : BitVec 12) : Statement (.crr rd crn) := by
  intro w u hw h
  obtain ⟨rfl, rfl⟩ := words h
  exact decoded (c := .near (.crr rd crn)) (by simp (disch := decide) only [decodeFields, packI, decodeControl, fMajor, fRd,
    fRs1, fRs2, fFn11, fImm16, fBit, near, unused, unusedFar, field_high, field_low, field_whole, bit_high, bit_low,
    bit_flag, Nat.reduceSub] <;> rfl) rfl hw

theorem crw (rd : Reg) (crn : BitVec 12) (rs1 : Reg) : Statement (.crw rd crn rs1) := by
  intro w u hw h
  obtain ⟨rfl, rfl⟩ := words h
  exact decoded (c := .near (.crw rd crn rs1)) (by simp (disch := decide) only [decodeFields, packI, decodeControl, fMajor,
    fRd, fRs1, fRs2, fFn11, fImm16, fBit, near, unused, unusedFar, field_high, field_low, field_whole, bit_high, bit_low,
    bit_flag, Nat.reduceSub] <;> rfl) rfl hw

theorem crs (rd : Reg) (crn : BitVec 12) (rs1 : Reg) : Statement (.crs rd crn rs1) := by
  intro w u hw h
  obtain ⟨rfl, rfl⟩ := words h
  exact decoded (c := .near (.crs rd crn rs1)) (by simp (disch := decide) only [decodeFields, packI, decodeControl, fMajor,
    fRd, fRs1, fRs2, fFn11, fImm16, fBit, near, unused, unusedFar, field_high, field_low, field_whole, bit_high, bit_low,
    bit_flag, Nat.reduceSub] <;> rfl) rfl hw

theorem crc (rd : Reg) (crn : BitVec 12) (rs1 : Reg) : Statement (.crc rd crn rs1) := by
  intro w u hw h
  obtain ⟨rfl, rfl⟩ := words h
  exact decoded (c := .near (.crc rd crn rs1)) (by simp (disch := decide) only [decodeFields, packI, decodeControl, fMajor,
    fRd, fRs1, fRs2, fFn11, fImm16, fBit, near, unused, unusedFar, field_high, field_low, field_whole, bit_high, bit_low,
    bit_flag, Nat.reduceSub] <;> rfl) rfl hw

theorem fadd (a : FArgs) : Statement (.fadd a) := by
  intro w u hw h
  obtain ⟨rfl, rfl⟩ := words h
  refine decoded (c := .near (.fadd a)) ?_ rfl hw
  unfold decodeFields; rw [major_fp]; show decodeScalarFp _ = _
  unfold decodeScalarFp; rw [op_fp, args_fp]; rfl

theorem fsub (a : FArgs) : Statement (.fsub a) := by
  intro w u hw h
  obtain ⟨rfl, rfl⟩ := words h
  refine decoded (c := .near (.fsub a)) ?_ rfl hw
  unfold decodeFields; rw [major_fp]; show decodeScalarFp _ = _
  unfold decodeScalarFp; rw [op_fp, args_fp]; rfl

theorem fmul (a : FArgs) : Statement (.fmul a) := by
  intro w u hw h
  obtain ⟨rfl, rfl⟩ := words h
  refine decoded (c := .near (.fmul a)) ?_ rfl hw
  unfold decodeFields; rw [major_fp]; show decodeScalarFp _ = _
  unfold decodeScalarFp; rw [op_fp, args_fp]; rfl

theorem fdiv (a : FArgs) : Statement (.fdiv a) := by
  intro w u hw h
  obtain ⟨rfl, rfl⟩ := words h
  refine decoded (c := .near (.fdiv a)) ?_ rfl hw
  unfold decodeFields; rw [major_fp]; show decodeScalarFp _ = _
  unfold decodeScalarFp; rw [op_fp, args_fp]; rfl

theorem fsqrt (a : FArgs) : Statement (.fsqrt a) := by
  intro w u hw h
  obtain ⟨rfl, rfl⟩ := words h
  refine decoded (c := .near (.fsqrt a)) ?_ rfl hw
  unfold decodeFields; rw [major_fp]; show decodeScalarFp _ = _
  unfold decodeScalarFp; rw [op_fp, args_fp]; rfl

theorem fmadd (a : FArgs) : Statement (.fmadd a) := by
  intro w u hw h
  obtain ⟨rfl, rfl⟩ := words h
  refine decoded (c := .near (.fmadd a)) ?_ rfl hw
  unfold decodeFields; rw [major_fp]; show decodeScalarFp _ = _
  unfold decodeScalarFp; rw [op_fp, args_fp]; rfl

theorem fmin (a : FArgs) : Statement (.fmin a) := by
  intro w u hw h
  obtain ⟨rfl, rfl⟩ := words h
  refine decoded (c := .near (.fmin a)) ?_ rfl hw
  unfold decodeFields; rw [major_fp]; show decodeScalarFp _ = _
  unfold decodeScalarFp; rw [op_fp, args_fp]; rfl

theorem fmax (a : FArgs) : Statement (.fmax a) := by
  intro w u hw h
  obtain ⟨rfl, rfl⟩ := words h
  refine decoded (c := .near (.fmax a)) ?_ rfl hw
  unfold decodeFields; rw [major_fp]; show decodeScalarFp _ = _
  unfold decodeScalarFp; rw [op_fp, args_fp]; rfl

theorem fsignCp (a : FArgs) : Statement (.fsignCp a) := by
  intro w u hw h
  obtain ⟨rfl, rfl⟩ := words h
  refine decoded (c := .near (.fsignCp a)) ?_ rfl hw
  unfold decodeFields; rw [major_fp]; show decodeScalarFp _ = _
  unfold decodeScalarFp; rw [op_fp, args_fp]; rfl

theorem fsignNg (a : FArgs) : Statement (.fsignNg a) := by
  intro w u hw h
  obtain ⟨rfl, rfl⟩ := words h
  refine decoded (c := .near (.fsignNg a)) ?_ rfl hw
  unfold decodeFields; rw [major_fp]; show decodeScalarFp _ = _
  unfold decodeScalarFp; rw [op_fp, args_fp]; rfl

theorem fsignXr (a : FArgs) : Statement (.fsignXr a) := by
  intro w u hw h
  obtain ⟨rfl, rfl⟩ := words h
  refine decoded (c := .near (.fsignXr a)) ?_ rfl hw
  unfold decodeFields; rw [major_fp]; show decodeScalarFp _ = _
  unfold decodeScalarFp; rw [op_fp, args_fp]; rfl

theorem feq (a : FArgs) : Statement (.feq a) := by
  intro w u hw h
  obtain ⟨rfl, rfl⟩ := words h
  refine decoded (c := .near (.feq a)) ?_ rfl hw
  unfold decodeFields; rw [major_fp]; show decodeScalarFp _ = _
  unfold decodeScalarFp; rw [op_fp, args_fp]; rfl

theorem flt (a : FArgs) : Statement (.flt a) := by
  intro w u hw h
  obtain ⟨rfl, rfl⟩ := words h
  refine decoded (c := .near (.flt a)) ?_ rfl hw
  unfold decodeFields; rw [major_fp]; show decodeScalarFp _ = _
  unfold decodeScalarFp; rw [op_fp, args_fp]; rfl

theorem fle (a : FArgs) : Statement (.fle a) := by
  intro w u hw h
  obtain ⟨rfl, rfl⟩ := words h
  refine decoded (c := .near (.fle a)) ?_ rfl hw
  unfold decodeFields; rw [major_fp]; show decodeScalarFp _ = _
  unfold decodeScalarFp; rw [op_fp, args_fp]; rfl

theorem fcvt (a : FArgs) : Statement (.fcvt a) := by
  intro w u hw h
  obtain ⟨rfl, rfl⟩ := words h
  refine decoded (c := .near (.fcvt a)) ?_ rfl hw
  unfold decodeFields; rw [major_fp]; show decodeScalarFp _ = _
  unfold decodeScalarFp; rw [op_fp, args_fp]; rfl

theorem fcvtInt64 (a : FArgs) : Statement (.fcvtInt64 a) := by
  intro w u hw h
  obtain ⟨rfl, rfl⟩ := words h
  refine decoded (c := .near (.fcvtInt64 a)) ?_ rfl hw
  unfold decodeFields; rw [major_fp]; show decodeScalarFp _ = _
  unfold decodeScalarFp; rw [op_fp, args_fp]; rfl

theorem fcvtInt64Sat (a : FArgs) : Statement (.fcvtInt64Sat a) := by
  intro w u hw h
  obtain ⟨rfl, rfl⟩ := words h
  refine decoded (c := .near (.fcvtInt64Sat a)) ?_ rfl hw
  unfold decodeFields; rw [major_fp]; show decodeScalarFp _ = _
  unfold decodeScalarFp; rw [op_fp, args_fp]; rfl

theorem fcvtNat64 (a : FArgs) : Statement (.fcvtNat64 a) := by
  intro w u hw h
  obtain ⟨rfl, rfl⟩ := words h
  refine decoded (c := .near (.fcvtNat64 a)) ?_ rfl hw
  unfold decodeFields; rw [major_fp]; show decodeScalarFp _ = _
  unfold decodeScalarFp; rw [op_fp, args_fp]; rfl

theorem fcvtNat64Sat (a : FArgs) : Statement (.fcvtNat64Sat a) := by
  intro w u hw h
  obtain ⟨rfl, rfl⟩ := words h
  refine decoded (c := .near (.fcvtNat64Sat a)) ?_ rfl hw
  unfold decodeFields; rw [major_fp]; show decodeScalarFp _ = _
  unfold decodeScalarFp; rw [op_fp, args_fp]; rfl

theorem amoadd (a : AmoArgs) : Statement (.amoadd a) := by
  intro w u hw h
  obtain ⟨rfl, rfl⟩ := words h
  refine decoded (c := .near (.amoadd a)) ?_ rfl hw
  unfold decodeFields; rw [major_amo]; show decodeAtomic _ = _
  unfold decodeAtomic; rw [op_amo, args_amo]; rfl

theorem amoand (a : AmoArgs) : Statement (.amoand a) := by
  intro w u hw h
  obtain ⟨rfl, rfl⟩ := words h
  refine decoded (c := .near (.amoand a)) ?_ rfl hw
  unfold decodeFields; rw [major_amo]; show decodeAtomic _ = _
  unfold decodeAtomic; rw [op_amo, args_amo]; rfl

theorem amoor (a : AmoArgs) : Statement (.amoor a) := by
  intro w u hw h
  obtain ⟨rfl, rfl⟩ := words h
  refine decoded (c := .near (.amoor a)) ?_ rfl hw
  unfold decodeFields; rw [major_amo]; show decodeAtomic _ = _
  unfold decodeAtomic; rw [op_amo, args_amo]; rfl

theorem amoxor (a : AmoArgs) : Statement (.amoxor a) := by
  intro w u hw h
  obtain ⟨rfl, rfl⟩ := words h
  refine decoded (c := .near (.amoxor a)) ?_ rfl hw
  unfold decodeFields; rw [major_amo]; show decodeAtomic _ = _
  unfold decodeAtomic; rw [op_amo, args_amo]; rfl

theorem amomin (a : AmoArgs) : Statement (.amomin a) := by
  intro w u hw h
  obtain ⟨rfl, rfl⟩ := words h
  refine decoded (c := .near (.amomin a)) ?_ rfl hw
  unfold decodeFields; rw [major_amo]; show decodeAtomic _ = _
  unfold decodeAtomic; rw [op_amo, args_amo]; rfl

theorem amomax (a : AmoArgs) : Statement (.amomax a) := by
  intro w u hw h
  obtain ⟨rfl, rfl⟩ := words h
  refine decoded (c := .near (.amomax a)) ?_ rfl hw
  unfold decodeFields; rw [major_amo]; show decodeAtomic _ = _
  unfold decodeAtomic; rw [op_amo, args_amo]; rfl

theorem amominu (a : AmoArgs) : Statement (.amominu a) := by
  intro w u hw h
  obtain ⟨rfl, rfl⟩ := words h
  refine decoded (c := .near (.amominu a)) ?_ rfl hw
  unfold decodeFields; rw [major_amo]; show decodeAtomic _ = _
  unfold decodeAtomic; rw [op_amo, args_amo]; rfl

theorem amomaxu (a : AmoArgs) : Statement (.amomaxu a) := by
  intro w u hw h
  obtain ⟨rfl, rfl⟩ := words h
  refine decoded (c := .near (.amomaxu a)) ?_ rfl hw
  unfold decodeFields; rw [major_amo]; show decodeAtomic _ = _
  unfold decodeAtomic; rw [op_amo, args_amo]; rfl

theorem amofx (a : AmoArgs) : Statement (.amofx a) := by
  intro w u hw h
  obtain ⟨rfl, rfl⟩ := words h
  refine decoded (c := .near (.amofx a)) ?_ rfl hw
  unfold decodeFields; rw [major_amo]; show decodeAtomic _ = _
  unfold decodeAtomic; rw [op_amo, args_amo]; rfl

theorem amoswap (a : AmoArgs) : Statement (.amoswap a) := by
  intro w u hw h
  obtain ⟨rfl, rfl⟩ := words h
  refine decoded (c := .near (.amoswap a)) ?_ rfl hw
  unfold decodeFields; rw [major_amo]; show decodeAtomic _ = _
  unfold decodeAtomic; rw [op_amo, args_amo]; rfl

theorem amocas (a : AmoArgs) : Statement (.amocas a) := by
  intro w u hw h
  obtain ⟨rfl, rfl⟩ := words h
  refine decoded (c := .near (.amocas a)) ?_ rfl hw
  unfold decodeFields; rw [major_amo]; show decodeAtomic _ = _
  unfold decodeAtomic; rw [op_amo, args_amo]; rfl

theorem amofadd (a : AmoArgs) : Statement (.amofadd a) := by
  intro w u hw h
  obtain ⟨rfl, rfl⟩ := words h
  refine decoded (c := .near (.amofadd a)) ?_ rfl hw
  unfold decodeFields; rw [major_amo]; show decodeAtomic _ = _
  unfold decodeAtomic; rw [op_amo, args_amo]; rfl

theorem lda (a : AmoArgs) : Statement (.lda a) := by
  intro w u hw h
  obtain ⟨rfl, rfl⟩ := words h
  refine decoded (c := .near (.lda a)) ?_ rfl hw
  unfold decodeFields; rw [major_amo]; show decodeAtomic _ = _
  unfold decodeAtomic; rw [op_amo, args_amo]; rfl

theorem str (a : AmoArgs) : Statement (.str a) := by
  intro w u hw h
  obtain ⟨rfl, rfl⟩ := words h
  refine decoded (c := .near (.str a)) ?_ rfl hw
  unfold decodeFields; rw [major_amo]; show decodeAtomic _ = _
  unfold decodeAtomic; rw [op_amo, args_amo]; rfl

theorem fence (set : BitVec 4) (scope : BitVec 3) : Statement (.fence set scope) := by
  intro w u hw h
  obtain ⟨rfl, rfl⟩ := words h
  exact decoded (c := .near (.fence set scope)) (by simp (disch := decide) only [decodeFields, packR, decodeFence, fMajor,
    fRd, fRs1, fRs2, fFn11, fImm16, fBit, near, unused, unusedFar, field_high, field_low, field_whole, bit_high, bit_low,
    bit_flag, Nat.reduceSub] <;> rfl) rfl hw

theorem fenceSv : Statement (.fenceSv) := by
  intro w u hw h
  obtain ⟨rfl, rfl⟩ := words h
  exact decoded (c := .near (.fenceSv)) (by simp (disch := decide) only [decodeFields, packR, decodeFence, fMajor, fRd, fRs1,
    fRs2, fFn11, fImm16, fBit, near, unused, unusedFar, field_high, field_low, field_whole, bit_high, bit_low, bit_flag,
    Nat.reduceSub] <;> rfl) rfl hw

theorem fenceVs : Statement (.fenceVs) := by
  intro w u hw h
  obtain ⟨rfl, rfl⟩ := words h
  exact decoded (c := .near (.fenceVs)) (by simp (disch := decide) only [decodeFields, packR, decodeFence, fMajor, fRd, fRs1,
    fRs2, fFn11, fImm16, fBit, near, unused, unusedFar, field_high, field_low, field_whole, bit_high, bit_low, bit_flag,
    Nat.reduceSub] <;> rfl) rfl hw

theorem prefetch (rs1 rs2 : Reg) : Statement (.prefetch rs1 rs2) := by
  intro w u hw h
  obtain ⟨rfl, rfl⟩ := words h
  exact decoded (c := .near (.prefetch rs1 rs2)) (by simp (disch := decide) only [decodeFields, packR, decodeFence, fMajor,
    fRd, fRs1, fRs2, fFn11, fImm16, fBit, near, unused, unusedFar, field_high, field_low, field_whole, bit_high, bit_low,
    bit_flag, Nat.reduceSub] <;> rfl) rfl hw

theorem tlbinv (rs1 : Reg) : Statement (.tlbinv rs1) := by
  intro w u hw h
  obtain ⟨rfl, rfl⟩ := words h
  exact decoded (c := .near (.tlbinv rs1)) (by simp (disch := decide) only [decodeFields, packR, decodeFence, fMajor, fRd,
    fRs1, fRs2, fFn11, fImm16, fBit, near, unused, unusedFar, field_high, field_low, field_whole, bit_high, bit_low,
    bit_flag, Nat.reduceSub] <;> rfl) rfl hw

theorem setvl (rd rs1 : Reg) (wc : BitVec 3) (cap : Bool) (rs2 : Reg) : Statement (.setvl rd rs1 wc cap rs2) := by
  intro w u hw h
  obtain ⟨rfl, rfl⟩ := words h
  exact decoded (c := .near (.setvl rd rs1 wc cap rs2)) (by simp (disch := decide) only [decodeFields, packR, decodeSetvl,
    fMajor, fRd, fRs1, fRs2, fFn11, fImm16, fBit, near, unused, unusedFar, field_high, field_low, field_whole, bit_high,
    bit_low, bit_flag, Nat.reduceSub] <;> rfl) rfl hw

theorem setvlG (rd rs1 : Reg) (wc : BitVec 3) (cap : Bool) (rs2 : Reg) : Statement (.setvlG rd rs1 wc cap rs2) := by
  intro w u hw h
  obtain ⟨rfl, rfl⟩ := words h
  exact decoded (c := .near (.setvlG rd rs1 wc cap rs2)) (by simp (disch := decide) only [decodeFields, packR, decodeSetvl,
    fMajor, fRd, fRs1, fRs2, fFn11, fImm16, fBit, near, unused, unusedFar, field_high, field_low, field_whole, bit_high,
    bit_low, bit_flag, Nat.reduceSub] <;> rfl) rfl hw

theorem gangLengthGrant : Statement (.gangLengthGrant) := by
  intro w u _ h
  cases h

theorem chainGrant : Statement (.chainGrant) := by
  intro w u _ h
  cases h

theorem vcfg (vd : Reg) (tag : BitVec 5) (s b : Bool) (vsc : Reg) : Statement (.vcfg vd tag s b vsc) := by
  intro w u hw h
  obtain ⟨rfl, rfl⟩ := words h
  exact decoded (c := .near (.vcfg vd tag s b vsc)) (by simp (disch := decide) only [decodeFields, packR, decodeTag, fMajor,
    fRd, fRs1, fRs2, fFn11, fImm16, fBit, near, unused, unusedFar, field_high, field_low, field_whole, bit_high, bit_low,
    bit_flag, Nat.reduceSub] <;> rfl) rfl hw

theorem vretag (vd : Reg) (tag : BitVec 5) (s b : Bool) (vsc : Reg) : Statement (.vretag vd tag s b vsc) := by
  intro w u hw h
  obtain ⟨rfl, rfl⟩ := words h
  exact decoded (c := .near (.vretag vd tag s b vsc)) (by simp (disch := decide) only [decodeFields, packR, decodeTag,
    fMajor, fRd, fRs1, fRs2, fFn11, fImm16, fBit, near, unused, unusedFar, field_high, field_low, field_whole, bit_high,
    bit_low, bit_flag, Nat.reduceSub] <;> rfl) rfl hw

theorem bar : Statement (.bar) := by
  intro w u hw h
  obtain ⟨rfl, rfl⟩ := words h
  refine decoded (c := .near (.bar)) ?_ rfl hw
  unfold decodeFields; rw [major_R]; show decodeHart _ = _
  unfold decodeHart; rw [fn_R, rd_R, rs1_R, rs2_R]; rfl

theorem barrierComplete : Statement (.barrierComplete) := by
  intro w u _ h
  cases h

theorem hwpub (rs1 : Reg) : Statement (.hwpub rs1) := by
  intro w u hw h
  obtain ⟨rfl, rfl⟩ := words h
  refine decoded (c := .near (.hwpub rs1)) ?_ rfl hw
  unfold decodeFields; rw [major_R]; show decodeHart _ = _
  unfold decodeHart; rw [fn_R, rd_R, rs1_R, rs2_R]; rfl

theorem jnext : Statement (.jnext) := by
  intro w u hw h
  obtain ⟨rfl, rfl⟩ := words h
  refine decoded (c := .near (.jnext)) ?_ rfl hw
  unfold decodeFields; rw [major_R]; show decodeHart _ = _
  unfold decodeHart; rw [fn_R, rd_R, rs1_R, rs2_R]; rfl

theorem yield : Statement (.yield) := by
  intro w u hw h
  obtain ⟨rfl, rfl⟩ := words h
  refine decoded (c := .near (.yield)) ?_ rfl hw
  unfold decodeFields; rw [major_R]; show decodeHart _ = _
  unfold decodeHart; rw [fn_R, rd_R, rs1_R, rs2_R]; rfl

theorem endHart : Statement (.endHart) := by
  intro w u hw h
  obtain ⟨rfl, rfl⟩ := words h
  refine decoded (c := .near (.endHart)) ?_ rfl hw
  unfold decodeFields; rw [major_R]; show decodeHart _ = _
  unfold decodeHart; rw [fn_R, rd_R, rs1_R, rs2_R]; rfl

theorem lpartRcl (rd rs1 rs2 : Reg) : Statement (.lpartRcl rd rs1 rs2) := by
  intro w u hw h
  obtain ⟨rfl, rfl⟩ := words h
  refine decoded (c := .near (.lpartRcl rd rs1 rs2)) ?_ rfl hw
  unfold decodeFields; rw [major_R]; show decodeHart _ = _
  unfold decodeHart; rw [fn_R, rd_R, rs1_R, rs2_R]; rfl

theorem lpartWt (rd rs1 : Reg) : Statement (.lpartWt rd rs1) := by
  intro w u hw h
  obtain ⟨rfl, rfl⟩ := words h
  refine decoded (c := .near (.lpartWt rd rs1)) ?_ rfl hw
  unfold decodeFields; rw [major_R]; show decodeHart _ = _
  unfold decodeHart; rw [fn_R, rd_R, rs1_R, rs2_R]; rfl

theorem lpartWtRelease : Statement (.lpartWtRelease) := by
  intro w u _ h
  cases h

theorem mstart (rows cols : BitVec 8) (rs1 : Reg) : Statement (.mstart rows cols rs1) := by
  intro w u hw h
  obtain ⟨rfl, rfl⟩ := words h
  exact decoded (c := .near (.mstart rows cols rs1)) (by simp (disch := decide) only [decodeFields, packI, decodeMatrixMode,
    fMajor, fRd, fRs1, fRs2, fFn11, fImm16, fBit, near, unused, unusedFar, field_high, field_low, field_whole, bit_high,
    bit_low, bit_flag, Nat.reduceSub] <;> rfl) rfl hw

theorem mstartKeep (rows cols : BitVec 8) (rs1 : Reg) : Statement (.mstartKeep rows cols rs1) := by
  intro w u hw h
  obtain ⟨rfl, rfl⟩ := words h
  exact decoded (c := .near (.mstartKeep rows cols rs1)) (by simp (disch := decide) only [decodeFields, packI,
    decodeMatrixMode, fMajor, fRd, fRs1, fRs2, fFn11, fImm16, fBit, near, unused, unusedFar, field_high, field_low,
    field_whole, bit_high, bit_low, bit_flag, Nat.reduceSub] <;> rfl) rfl hw

theorem mstop : Statement (.mstop) := by
  intro w u hw h
  obtain ⟨rfl, rfl⟩ := words h
  exact decoded (c := .near (.mstop)) (by simp (disch := decide) only [decodeFields, packI, decodeMatrixMode, fMajor, fRd,
    fRs1, fRs2, fFn11, fImm16, fBit, near, unused, unusedFar, field_high, field_low, field_whole, bit_high, bit_low,
    bit_flag, Nat.reduceSub] <;> rfl) rfl hw

theorem vadd (a : VArgs) : Statement (.vadd a) := by
  intro w u hw h
  obtain ⟨rfl, rfl⟩ := words h
  exact vector_word .vadd a hw

theorem vsub (a : VArgs) : Statement (.vsub a) := by
  intro w u hw h
  obtain ⟨rfl, rfl⟩ := words h
  exact vector_word .vsub a hw

theorem vaddSat (a : VArgs) : Statement (.vaddSat a) := by
  intro w u hw h
  obtain ⟨rfl, rfl⟩ := words h
  exact vector_word .vaddSat a hw

theorem vsubSat (a : VArgs) : Statement (.vsubSat a) := by
  intro w u hw h
  obtain ⟨rfl, rfl⟩ := words h
  exact vector_word .vsubSat a hw

theorem vmul (a : VArgs) : Statement (.vmul a) := by
  intro w u hw h
  obtain ⟨rfl, rfl⟩ := words h
  exact vector_word .vmul a hw

theorem vdiv (a : VArgs) : Statement (.vdiv a) := by
  intro w u hw h
  obtain ⟨rfl, rfl⟩ := words h
  exact vector_word .vdiv a hw

theorem vmin (a : VArgs) : Statement (.vmin a) := by
  intro w u hw h
  obtain ⟨rfl, rfl⟩ := words h
  exact vector_word .vmin a hw

theorem vmax (a : VArgs) : Statement (.vmax a) := by
  intro w u hw h
  obtain ⟨rfl, rfl⟩ := words h
  exact vector_word .vmax a hw

theorem vfma (a : VArgs) : Statement (.vfma a) := by
  intro w u hw h
  obtain ⟨rfl, rfl⟩ := words h
  exact vector_word .vfma a hw

theorem vfms (a : VArgs) : Statement (.vfms a) := by
  intro w u hw h
  obtain ⟨rfl, rfl⟩ := words h
  exact vector_word .vfms a hw

theorem vfnma (a : VArgs) : Statement (.vfnma a) := by
  intro w u hw h
  obtain ⟨rfl, rfl⟩ := words h
  exact vector_word .vfnma a hw

theorem vfnms (a : VArgs) : Statement (.vfnms a) := by
  intro w u hw h
  obtain ⟨rfl, rfl⟩ := words h
  exact vector_word .vfnms a hw

theorem vand (a : VArgs) : Statement (.vand a) := by
  intro w u hw h
  obtain ⟨rfl, rfl⟩ := words h
  exact vector_word .vand a hw

theorem vor (a : VArgs) : Statement (.vor a) := by
  intro w u hw h
  obtain ⟨rfl, rfl⟩ := words h
  exact vector_word .vor a hw

theorem vxor (a : VArgs) : Statement (.vxor a) := by
  intro w u hw h
  obtain ⟨rfl, rfl⟩ := words h
  exact vector_word .vxor a hw

theorem vandn (a : VArgs) : Statement (.vandn a) := by
  intro w u hw h
  obtain ⟨rfl, rfl⟩ := words h
  exact vector_word .vandn a hw

theorem vsll (a : VArgs) : Statement (.vsll a) := by
  intro w u hw h
  obtain ⟨rfl, rfl⟩ := words h
  exact vector_word .vsll a hw

theorem vsrl (a : VArgs) : Statement (.vsrl a) := by
  intro w u hw h
  obtain ⟨rfl, rfl⟩ := words h
  exact vector_word .vsrl a hw

theorem vsra (a : VArgs) : Statement (.vsra a) := by
  intro w u hw h
  obtain ⟨rfl, rfl⟩ := words h
  exact vector_word .vsra a hw

theorem vrol (a : VArgs) : Statement (.vrol a) := by
  intro w u hw h
  obtain ⟨rfl, rfl⟩ := words h
  exact vector_word .vrol a hw

theorem vneg (a : VArgs) : Statement (.vneg a) := by
  intro w u hw h
  obtain ⟨rfl, rfl⟩ := words h
  exact vector_word .vneg a hw

theorem vabs (a : VArgs) : Statement (.vabs a) := by
  intro w u hw h
  obtain ⟨rfl, rfl⟩ := words h
  exact vector_word .vabs a hw

theorem vsqrt (a : VArgs) : Statement (.vsqrt a) := by
  intro w u hw h
  obtain ⟨rfl, rfl⟩ := words h
  exact vector_word .vsqrt a hw

theorem vrcp (a : VArgs) : Statement (.vrcp a) := by
  intro w u hw h
  obtain ⟨rfl, rfl⟩ := words h
  exact vector_word .vrcp a hw

theorem vrsqrt (a : VArgs) : Statement (.vrsqrt a) := by
  intro w u hw h
  obtain ⟨rfl, rfl⟩ := words h
  exact vector_word .vrsqrt a hw

theorem vfloor (a : VArgs) : Statement (.vfloor a) := by
  intro w u hw h
  obtain ⟨rfl, rfl⟩ := words h
  exact vector_word .vfloor a hw

theorem vceil (a : VArgs) : Statement (.vceil a) := by
  intro w u hw h
  obtain ⟨rfl, rfl⟩ := words h
  exact vector_word .vceil a hw

theorem vtrunc (a : VArgs) : Statement (.vtrunc a) := by
  intro w u hw h
  obtain ⟨rfl, rfl⟩ := words h
  exact vector_word .vtrunc a hw

theorem vrint (a : VArgs) : Statement (.vrint a) := by
  intro w u hw h
  obtain ⟨rfl, rfl⟩ := words h
  exact vector_word .vrint a hw

theorem vnot (a : VArgs) : Statement (.vnot a) := by
  intro w u hw h
  obtain ⟨rfl, rfl⟩ := words h
  exact vector_word .vnot a hw

theorem vclz (a : VArgs) : Statement (.vclz a) := by
  intro w u hw h
  obtain ⟨rfl, rfl⟩ := words h
  exact vector_word .vclz a hw

theorem vctz (a : VArgs) : Statement (.vctz a) := by
  intro w u hw h
  obtain ⟨rfl, rfl⟩ := words h
  exact vector_word .vctz a hw

theorem vpopc (a : VArgs) : Statement (.vpopc a) := by
  intro w u hw h
  obtain ⟨rfl, rfl⟩ := words h
  exact vector_word .vpopc a hw

theorem vidx (a : VArgs) : Statement (.vidx a) := by
  intro w u hw h
  obtain ⟨rfl, rfl⟩ := words h
  exact vector_word .vidx a hw

theorem vcmpEq (a : VArgs) : Statement (.vcmpEq a) := by
  intro w u hw h
  obtain ⟨rfl, rfl⟩ := words h
  exact vector_word .vcmpEq a hw

theorem vcmpNe (a : VArgs) : Statement (.vcmpNe a) := by
  intro w u hw h
  obtain ⟨rfl, rfl⟩ := words h
  exact vector_word .vcmpNe a hw

theorem vcmpLt (a : VArgs) : Statement (.vcmpLt a) := by
  intro w u hw h
  obtain ⟨rfl, rfl⟩ := words h
  exact vector_word .vcmpLt a hw

theorem vcmpLe (a : VArgs) : Statement (.vcmpLe a) := by
  intro w u hw h
  obtain ⟨rfl, rfl⟩ := words h
  exact vector_word .vcmpLe a hw

theorem vcmpGt (a : VArgs) : Statement (.vcmpGt a) := by
  intro w u hw h
  obtain ⟨rfl, rfl⟩ := words h
  exact vector_word .vcmpGt a hw

theorem vcmpGe (a : VArgs) : Statement (.vcmpGe a) := by
  intro w u hw h
  obtain ⟨rfl, rfl⟩ := words h
  exact vector_word .vcmpGe a hw

theorem vcmpUno (a : VArgs) : Statement (.vcmpUno a) := by
  intro w u hw h
  obtain ⟨rfl, rfl⟩ := words h
  exact vector_word .vcmpUno a hw

theorem vcmpOrd (a : VArgs) : Statement (.vcmpOrd a) := by
  intro w u hw h
  obtain ⟨rfl, rfl⟩ := words h
  exact vector_word .vcmpOrd a hw

theorem vcvt (a : VArgs) : Statement (.vcvt a) := by
  intro w u hw h
  obtain ⟨rfl, rfl⟩ := words h
  exact vector_word .vcvt a hw

theorem vcvtSat (a : VArgs) : Statement (.vcvtSat a) := by
  intro w u hw h
  obtain ⟨rfl, rfl⟩ := words h
  exact vector_word .vcvtSat a hw

theorem vcvtBlk (a : VArgs) : Statement (.vcvtBlk a) := by
  intro w u hw h
  obtain ⟨rfl, rfl⟩ := words h
  exact vector_word .vcvtBlk a hw

theorem vsel (a : VArgs) : Statement (.vsel a) := by
  intro w u hw h
  obtain ⟨rfl, rfl⟩ := words h
  exact vector_word .vsel a hw

theorem vsplat (a : VArgs) : Statement (.vsplat a) := by
  intro w u hw h
  obtain ⟨rfl, rfl⟩ := words h
  exact vector_word .vsplat a hw

theorem vsplatImm (pre : VectorPrefix) (vs1 : BitVec 5) (vd : Reg) : Statement (.vsplatImm pre vs1 vd) := by
  intro w u hw h
  obtain ⟨rfl, rfl⟩ := words h
  exact vsplatImm_word pre vs1 vd hw

theorem vext (a : VArgs) : Statement (.vext a) := by
  intro w u hw h
  obtain ⟨rfl, rfl⟩ := words h
  exact vector_word .vext a hw

theorem vins (a : VArgs) : Statement (.vins a) := by
  intro w u hw h
  obtain ⟨rfl, rfl⟩ := words h
  exact vector_word .vins a hw

theorem vperm (a : VArgs) : Statement (.vperm a) := by
  intro w u hw h
  obtain ⟨rfl, rfl⟩ := words h
  exact vector_word .vperm a hw

theorem vslup (a : VArgs) : Statement (.vslup a) := by
  intro w u hw h
  obtain ⟨rfl, rfl⟩ := words h
  exact vector_word .vslup a hw

theorem vsldn (a : VArgs) : Statement (.vsldn a) := by
  intro w u hw h
  obtain ⟨rfl, rfl⟩ := words h
  exact vector_word .vsldn a hw

theorem vcompress (a : VArgs) : Statement (.vcompress a) := by
  intro w u hw h
  obtain ⟨rfl, rfl⟩ := words h
  exact vector_word .vcompress a hw

theorem vredsum (a : VArgs) : Statement (.vredsum a) := by
  intro w u hw h
  obtain ⟨rfl, rfl⟩ := words h
  exact vector_word .vredsum a hw

theorem vredsumO (a : VArgs) : Statement (.vredsumO a) := by
  intro w u hw h
  obtain ⟨rfl, rfl⟩ := words h
  exact vector_word .vredsumO a hw

theorem vredmin (a : VArgs) : Statement (.vredmin a) := by
  intro w u hw h
  obtain ⟨rfl, rfl⟩ := words h
  exact vector_word .vredmin a hw

theorem vredmax (a : VArgs) : Statement (.vredmax a) := by
  intro w u hw h
  obtain ⟨rfl, rfl⟩ := words h
  exact vector_word .vredmax a hw

theorem vscan (a : VArgs) : Statement (.vscan a) := by
  intro w u hw h
  obtain ⟨rfl, rfl⟩ := words h
  exact vector_word .vscan a hw

theorem vscanLin (a : VArgs) : Statement (.vscanLin a) := by
  intro w u hw h
  obtain ⟨rfl, rfl⟩ := words h
  exact vector_word .vscanLin a hw

theorem vrenorm (a : VArgs) : Statement (.vrenorm a) := by
  intro w u hw h
  obtain ⟨rfl, rfl⟩ := words h
  exact vector_word .vrenorm a hw

theorem vrng (a : VArgs) : Statement (.vrng a) := by
  intro w u hw h
  obtain ⟨rfl, rfl⟩ := words h
  exact vector_word .vrng a hw

theorem vrngF (a : VArgs) : Statement (.vrngF a) := by
  intro w u hw h
  obtain ⟨rfl, rfl⟩ := words h
  exact vector_word .vrngF a hw

theorem pair (pg : BitVec 4) : Statement (.pair pg) := by
  intro w u hw h
  obtain ⟨rfl, rfl⟩ := words h
  exact pair_word pg hw

theorem pand (a : PArgs) : Statement (.pand a) := by
  intro w u hw h
  obtain ⟨rfl, rfl⟩ := words h
  exact predicate_word .pand a hw

theorem por (a : PArgs) : Statement (.por a) := by
  intro w u hw h
  obtain ⟨rfl, rfl⟩ := words h
  exact predicate_word .por a hw

theorem pxor (a : PArgs) : Statement (.pxor a) := by
  intro w u hw h
  obtain ⟨rfl, rfl⟩ := words h
  exact predicate_word .pxor a hw

theorem pandn (a : PArgs) : Statement (.pandn a) := by
  intro w u hw h
  obtain ⟨rfl, rfl⟩ := words h
  exact predicate_word .pandn a hw

theorem pmov (a : PArgs) : Statement (.pmov a) := by
  intro w u hw h
  obtain ⟨rfl, rfl⟩ := words h
  exact predicate_word .pmov a hw

theorem pnot (a : PArgs) : Statement (.pnot a) := by
  intro w u hw h
  obtain ⟨rfl, rfl⟩ := words h
  exact predicate_word .pnot a hw

theorem pset (a : PArgs) : Statement (.pset a) := by
  intro w u hw h
  obtain ⟨rfl, rfl⟩ := words h
  exact predicate_word .pset a hw

theorem pclr (a : PArgs) : Statement (.pclr a) := by
  intro w u hw h
  obtain ⟨rfl, rfl⟩ := words h
  exact predicate_word .pclr a hw

theorem pbrk (a : PArgs) : Statement (.pbrk a) := by
  intro w u hw h
  obtain ⟨rfl, rfl⟩ := words h
  exact predicate_word .pbrk a hw

theorem pbrkb (a : PArgs) : Statement (.pbrkb a) := by
  intro w u hw h
  obtain ⟨rfl, rfl⟩ := words h
  exact predicate_word .pbrkb a hw

theorem pcnt (a : CArgs) : Statement (.pcnt a) := by
  intro w u hw h
  obtain ⟨rfl, rfl⟩ := words h
  exact count_word .pcnt a hw

theorem pfirst (a : CArgs) : Statement (.pfirst a) := by
  intro w u hw h
  obtain ⟨rfl, rfl⟩ := words h
  exact count_word .pfirst a hw

theorem plast (a : CArgs) : Statement (.plast a) := by
  intro w u hw h
  obtain ⟨rfl, rfl⟩ := words h
  exact count_word .plast a hw

theorem vld (a : VArgs) : Statement (.vld a) := by
  intro w u hw h
  obtain ⟨rfl, rfl⟩ := words h
  exact memory_word .vld a hw

theorem vldO (a : VArgs) : Statement (.vldO a) := by
  intro w u hw h
  obtain ⟨rfl, rfl⟩ := words h
  exact memory_word .vldO a hw

theorem vldTr (a : VArgs) : Statement (.vldTr a) := by
  intro w u hw h
  obtain ⟨rfl, rfl⟩ := words h
  exact memory_word .vldTr a hw

theorem vldOTr (a : VArgs) : Statement (.vldOTr a) := by
  intro w u hw h
  obtain ⟨rfl, rfl⟩ := words h
  exact memory_word .vldOTr a hw

theorem vst (a : VArgs) : Statement (.vst a) := by
  intro w u hw h
  obtain ⟨rfl, rfl⟩ := words h
  exact memory_word .vst a hw

theorem vstO (a : VArgs) : Statement (.vstO a) := by
  intro w u hw h
  obtain ⟨rfl, rfl⟩ := words h
  exact memory_word .vstO a hw

theorem vstX (a : VArgs) : Statement (.vstX a) := by
  intro w u hw h
  obtain ⟨rfl, rfl⟩ := words h
  exact memory_word .vstX a hw

theorem vstOX (a : VArgs) : Statement (.vstOX a) := by
  intro w u hw h
  obtain ⟨rfl, rfl⟩ := words h
  exact memory_word .vstOX a hw

theorem vlds (a : VArgs) : Statement (.vlds a) := by
  intro w u hw h
  obtain ⟨rfl, rfl⟩ := words h
  exact memory_word .vlds a hw

theorem vldsO (a : VArgs) : Statement (.vldsO a) := by
  intro w u hw h
  obtain ⟨rfl, rfl⟩ := words h
  exact memory_word .vldsO a hw

theorem vldsTr (a : VArgs) : Statement (.vldsTr a) := by
  intro w u hw h
  obtain ⟨rfl, rfl⟩ := words h
  exact memory_word .vldsTr a hw

theorem vldsOTr (a : VArgs) : Statement (.vldsOTr a) := by
  intro w u hw h
  obtain ⟨rfl, rfl⟩ := words h
  exact memory_word .vldsOTr a hw

theorem vsts (a : VArgs) : Statement (.vsts a) := by
  intro w u hw h
  obtain ⟨rfl, rfl⟩ := words h
  exact memory_word .vsts a hw

theorem vstsO (a : VArgs) : Statement (.vstsO a) := by
  intro w u hw h
  obtain ⟨rfl, rfl⟩ := words h
  exact memory_word .vstsO a hw

theorem vstsX (a : VArgs) : Statement (.vstsX a) := by
  intro w u hw h
  obtain ⟨rfl, rfl⟩ := words h
  exact memory_word .vstsX a hw

theorem vstsOX (a : VArgs) : Statement (.vstsOX a) := by
  intro w u hw h
  obtain ⟨rfl, rfl⟩ := words h
  exact memory_word .vstsOX a hw

theorem vgather (a : VArgs) : Statement (.vgather a) := by
  intro w u hw h
  obtain ⟨rfl, rfl⟩ := words h
  exact memory_word .vgather a hw

theorem vgatherO (a : VArgs) : Statement (.vgatherO a) := by
  intro w u hw h
  obtain ⟨rfl, rfl⟩ := words h
  exact memory_word .vgatherO a hw

theorem vscatter (a : VArgs) : Statement (.vscatter a) := by
  intro w u hw h
  obtain ⟨rfl, rfl⟩ := words h
  exact memory_word .vscatter a hw

theorem vscatterO (a : VArgs) : Statement (.vscatterO a) := by
  intro w u hw h
  obtain ⟨rfl, rfl⟩ := words h
  exact memory_word .vscatterO a hw

theorem vscatterX (a : VArgs) : Statement (.vscatterX a) := by
  intro w u hw h
  obtain ⟨rfl, rfl⟩ := words h
  exact memory_word .vscatterX a hw

theorem vscatterOX (a : VArgs) : Statement (.vscatterOX a) := by
  intro w u hw h
  obtain ⟨rfl, rfl⟩ := words h
  exact memory_word .vscatterOX a hw

theorem scopy (pd : BitVec 6) (rd rs1 rs2 : Reg) : Statement (.scopy pd rd rs1 rs2) := by
  intro w u hw h
  obtain ⟨rfl, rfl⟩ := words h
  exact decoded (c := .near (.scopy pd rd rs1 rs2)) (by simp (disch := decide) only [decodeFields, packR, decodeScopy,
    fMajor, fRd, fRs1, fRs2, fFn11, fImm16, fBit, near, unused, unusedFar, field_high, field_low, field_whole, bit_high,
    bit_low, bit_flag, Nat.reduceSub] <;> rfl) rfl hw

theorem channelGrant : Statement (.channelGrant) := by
  intro w u _ h
  cases h

theorem scopyChunkComplete : Statement (.scopyChunkComplete) := by
  intro w u _ h
  cases h

theorem sbind (vd rs1 : Reg) : Statement (.sbind vd rs1) := by
  intro w u hw h
  obtain ⟨rfl, rfl⟩ := words h
  exact decoded (c := .near (.sbind vd rs1)) (by simp (disch := decide) only [decodeFields, packR, decodeBinding, fMajor,
    fRd, fRs1, fRs2, fFn11, fImm16, fBit, near, unused, unusedFar, field_high, field_low, field_whole, bit_high, bit_low,
    bit_flag, Nat.reduceSub] <;> rfl) rfl hw

theorem sunbind (vd : Reg) : Statement (.sunbind vd) := by
  intro w u hw h
  obtain ⟨rfl, rfl⟩ := words h
  exact decoded (c := .near (.sunbind vd)) (by simp (disch := decide) only [decodeFields, packR, decodeBinding, fMajor, fRd,
    fRs1, fRs2, fFn11, fImm16, fBit, near, unused, unusedFar, field_high, field_low, field_whole, bit_high, bit_low,
    bit_flag, Nat.reduceSub] <;> rfl) rfl hw

theorem srearm (vd : Reg) : Statement (.srearm vd) := by
  intro w u hw h
  obtain ⟨rfl, rfl⟩ := words h
  exact decoded (c := .near (.srearm vd)) (by simp (disch := decide) only [decodeFields, packR, decodeBinding, fMajor, fRd,
    fRs1, fRs2, fFn11, fImm16, fBit, near, unused, unusedFar, field_high, field_low, field_whole, bit_high, bit_low,
    bit_flag, Nat.reduceSub] <;> rfl) rfl hw

theorem stripFetch : Statement (.stripFetch) := by
  intro w u _ h
  cases h

theorem tkput (q p : BitVec 2) : Statement (.tkput q p) := by
  intro w u hw h
  obtain ⟨rfl, rfl⟩ := words h
  exact decoded (c := .near (.tkput q p)) (by simp (disch := decide) only [decodeFields, tokenWord, packR, decodeToken,
    fMajor, fRd, fRs1, fRs2, fFn11, fImm16, fBit, near, unused, unusedFar, field_high, field_low, field_whole, bit_high,
    bit_low, bit_flag, Nat.reduceSub] <;> rfl) rfl hw

theorem tkget (q p : BitVec 2) : Statement (.tkget q p) := by
  intro w u hw h
  obtain ⟨rfl, rfl⟩ := words h
  exact decoded (c := .near (.tkget q p)) (by simp (disch := decide) only [decodeFields, tokenWord, packR, decodeToken,
    fMajor, fRd, fRs1, fRs2, fFn11, fImm16, fBit, near, unused, unusedFar, field_high, field_low, field_whole, bit_high,
    bit_low, bit_flag, Nat.reduceSub] <;> rfl) rfl hw

theorem tokenFifoRelease : Statement (.tokenFifoRelease) := by
  intro w u _ h
  cases h

theorem qsig (rs1 rs2 : Reg) : Statement (.qsig rs1 rs2) := by
  intro w u hw h
  obtain ⟨rfl, rfl⟩ := words h
  exact decoded (c := .near (.qsig rs1 rs2)) (by simp (disch := decide) only [decodeFields, tokenWord, packR, decodeToken,
    fMajor, fRd, fRs1, fRs2, fFn11, fImm16, fBit, near, unused, unusedFar, field_high, field_low, field_whole, bit_high,
    bit_low, bit_flag, Nat.reduceSub] <;> rfl) rfl hw

theorem qwait (rs1 rs2 : Reg) : Statement (.qwait rs1 rs2) := by
  intro w u hw h
  obtain ⟨rfl, rfl⟩ := words h
  exact decoded (c := .near (.qwait rs1 rs2)) (by simp (disch := decide) only [decodeFields, tokenWord, packR, decodeToken,
    fMajor, fRd, fRs1, fRs2, fFn11, fImm16, fBit, near, unused, unusedFar, field_high, field_low, field_whole, bit_high,
    bit_low, bit_flag, Nat.reduceSub] <;> rfl) rfl hw

theorem qwaitRelease : Statement (.qwaitRelease) := by
  intro w u _ h
  cases h

theorem ladv (rd rs1 : Reg) : Statement (.ladv rd rs1) := by
  intro w u hw h
  obtain ⟨rfl, rfl⟩ := words h
  refine decoded (c := .far (.ladv rd rs1)) ?_ rfl hw
  unfold decodeFields; rw [major_ladder]; show decodeLadder _ = _
  unfold decodeLadder; rw [fn_ladder, pd_ladder, rd_ladder, rs1_ladder, rs2_ladder]; rfl

theorem cairnBlockCopy : Statement (.cairnBlockCopy) := by
  intro w u _ h
  cases h

theorem lrewind (pd : BitVec 6) (rd rs1 : Reg) : Statement (.lrewind pd rd rs1) := by
  intro w u hw h
  obtain ⟨rfl, rfl⟩ := words h
  refine decoded (c := .far (.lrewind pd rd rs1)) ?_ rfl hw
  unfold decodeFields; rw [major_ladder]; show decodeLadder _ = _
  unfold decodeLadder; rw [fn_ladder, pd_ladder, rd_ladder, rs1_ladder, rs2_ladder]; rfl

theorem ladderRestoreChunk : Statement (.ladderRestoreChunk) := by
  intro w u _ h
  cases h

theorem ltok (rd rs1 : Reg) : Statement (.ltok rd rs1) := by
  intro w u hw h
  obtain ⟨rfl, rfl⟩ := words h
  refine decoded (c := .far (.ltok rd rs1)) ?_ rfl hw
  unfold decodeFields; rw [major_ladder]; show decodeLadder _ = _
  unfold decodeLadder; rw [fn_ladder, pd_ladder, rd_ladder, rs1_ladder, rs2_ladder]; rfl

theorem lfork (pd : BitVec 6) (rd rs1 : Reg) : Statement (.lfork pd rd rs1) := by
  intro w u hw h
  obtain ⟨rfl, rfl⟩ := words h
  refine decoded (c := .far (.lfork pd rd rs1)) ?_ rfl hw
  unfold decodeFields; rw [major_ladder]; show decodeLadder _ = _
  unfold decodeLadder; rw [fn_ladder, pd_ladder, rd_ladder, rs1_ladder, rs2_ladder]; rfl

theorem lmatch (rd rs1 rs2 : Reg) : Statement (.lmatch rd rs1 rs2) := by
  intro w u hw h
  obtain ⟨rfl, rfl⟩ := words h
  refine decoded (c := .far (.lmatch rd rs1 rs2)) ?_ rfl hw
  unfold decodeFields; rw [major_ladder]; show decodeLadder _ = _
  unfold decodeLadder; rw [fn_ladder, pd_ladder, rd_ladder, rs1_ladder, rs2_ladder]; rfl

theorem lpin (rd rs1 : Reg) : Statement (.lpin rd rs1) := by
  intro w u hw h
  obtain ⟨rfl, rfl⟩ := words h
  refine decoded (c := .far (.lpin rd rs1)) ?_ rfl hw
  unfold decodeFields; rw [major_ladder]; show decodeLadder _ = _
  unfold decodeLadder; rw [fn_ladder, pd_ladder, rd_ladder, rs1_ladder, rs2_ladder]; rfl

theorem lunpin (rd rs1 : Reg) : Statement (.lunpin rd rs1) := by
  intro w u hw h
  obtain ⟨rfl, rfl⟩ := words h
  refine decoded (c := .far (.lunpin rd rs1)) ?_ rfl hw
  unfold decodeFields; rw [major_ladder]; show decodeLadder _ = _
  unfold decodeLadder; rw [fn_ladder, pd_ladder, rd_ladder, rs1_ladder, rs2_ladder]; rfl

theorem lopen (pd : BitVec 6) (rd rs1 : Reg) : Statement (.lopen pd rd rs1) := by
  intro w u hw h
  obtain ⟨rfl, rfl⟩ := words h
  refine decoded (c := .far (.lopen pd rd rs1)) ?_ rfl hw
  unfold decodeFields; rw [major_ladder]; show decodeLadder _ = _
  unfold decodeLadder; rw [fn_ladder, pd_ladder, rd_ladder, rs1_ladder, rs2_ladder]; rfl

theorem lclose (rd : Reg) : Statement (.lclose rd) := by
  intro w u hw h
  obtain ⟨rfl, rfl⟩ := words h
  refine decoded (c := .far (.lclose rd)) ?_ rfl hw
  unfold decodeFields; rw [major_ladder]; show decodeLadder _ = _
  unfold decodeLadder; rw [fn_ladder, pd_ladder, rd_ladder, rs1_ladder, rs2_ladder]; rfl

theorem lcloseS (rd : Reg) : Statement (.lcloseS rd) := by
  intro w u hw h
  obtain ⟨rfl, rfl⟩ := words h
  refine decoded (c := .far (.lcloseS rd)) ?_ rfl hw
  unfold decodeFields; rw [major_ladder]; show decodeLadder _ = _
  unfold decodeLadder; rw [fn_ladder, pd_ladder, rd_ladder, rs1_ladder, rs2_ladder]; rfl

theorem lset (rd rs1 : Reg) : Statement (.lset rd rs1) := by
  intro w u hw h
  obtain ⟨rfl, rfl⟩ := words h
  refine decoded (c := .far (.lset rd rs1)) ?_ rfl hw
  unfold decodeFields; rw [major_ladder]; show decodeLadder _ = _
  unfold decodeLadder; rw [fn_ladder, pd_ladder, rd_ladder, rs1_ladder, rs2_ladder]; rfl

theorem perform (rd rs1 rs2 : Reg) : Statement (.perform rd rs1 rs2) := by
  intro w u hw h
  obtain ⟨rfl, rfl⟩ := words h
  refine decoded (c := .far (.perform rd rs1 rs2)) ?_ rfl hw
  unfold decodeFields; rw [major_effect]; show decodeEffect _ = _
  unfold decodeEffect; rw [fn_effect, zero_effect, pg_effect, rd_effect, rs1_effect, rs2_effect]; rfl

theorem vperform (pg : BitVec 4) (rd rs1 rs2 : Reg) : Statement (.vperform pg rd rs1 rs2) := by
  intro w u hw h
  obtain ⟨rfl, rfl⟩ := words h
  refine decoded (c := .far (.vperform pg rd rs1 rs2)) ?_ rfl hw
  unfold decodeFields; rw [major_effect]; show decodeEffect _ = _
  unfold decodeEffect; rw [fn_effect, zero_effect, pg_effect, rd_effect, rs1_effect, rs2_effect]; rfl

theorem hpush (rd rs1 rs2 : Reg) : Statement (.hpush rd rs1 rs2) := by
  intro w u hw h
  obtain ⟨rfl, rfl⟩ := words h
  refine decoded (c := .far (.hpush rd rs1 rs2)) ?_ rfl hw
  unfold decodeFields; rw [major_effect]; show decodeEffect _ = _
  unfold decodeEffect; rw [fn_effect, zero_effect, pg_effect, rd_effect, rs1_effect, rs2_effect]; rfl

theorem hpop : Statement (.hpop) := by
  intro w u hw h
  obtain ⟨rfl, rfl⟩ := words h
  refine decoded (c := .near (.hpop)) ?_ rfl hw
  unfold decodeFields; rw [major_effect]; show decodeEffect _ = _
  unfold decodeEffect; rw [fn_effect, zero_effect, pg_effect, rd_effect, rs1_effect, rs2_effect]; rfl

theorem resume (rs1 rs2 : Reg) : Statement (.resume rs1 rs2) := by
  intro w u hw h
  obtain ⟨rfl, rfl⟩ := words h
  refine decoded (c := .far (.resume rs1 rs2)) ?_ rfl hw
  unfold decodeFields; rw [major_effect]; show decodeEffect _ = _
  unfold decodeEffect; rw [fn_effect, zero_effect, pg_effect, rd_effect, rs1_effect, rs2_effect]; rfl

theorem abort (rs1 rs2 : Reg) : Statement (.abort rs1 rs2) := by
  intro w u hw h
  obtain ⟨rfl, rfl⟩ := words h
  refine decoded (c := .far (.abort rs1 rs2)) ?_ rfl hw
  unfold decodeFields; rw [major_effect]; show decodeEffect _ = _
  unfold decodeEffect; rw [fn_effect, zero_effect, pg_effect, rd_effect, rs1_effect, rs2_effect]; rfl

theorem tkeep (rs1 rs2 : Reg) : Statement (.tkeep rs1 rs2) := by
  intro w u hw h
  obtain ⟨rfl, rfl⟩ := words h
  refine decoded (c := .far (.tkeep rs1 rs2)) ?_ rfl hw
  unfold decodeFields; rw [major_effect]; show decodeEffect _ = _
  unfold decodeEffect; rw [fn_effect, zero_effect, pg_effect, rd_effect, rs1_effect, rs2_effect]; rfl

theorem tdrop (rs1 : Reg) : Statement (.tdrop rs1) := by
  intro w u hw h
  obtain ⟨rfl, rfl⟩ := words h
  refine decoded (c := .far (.tdrop rs1)) ?_ rfl hw
  unfold decodeFields; rw [major_effect]; show decodeEffect _ = _
  unfold decodeEffect; rw [fn_effect, zero_effect, pg_effect, rd_effect, rs1_effect, rs2_effect]; rfl

theorem preempt : Statement (.preempt) := by
  intro w u _ h
  cases h

theorem vspill (reg : BitVec 6) (rs1 : Reg) : Statement (.vspill reg rs1) := by
  intro w u hw h
  obtain ⟨rfl, rfl⟩ := words h
  exact decoded (c := .near (.vspill reg rs1)) (by simp (disch := decide) only [decodeFields, contextWord, packR,
    decodeContext, fMajor, fRd, fRs1, fRs2, fFn11, fImm16, fBit, near, unused, unusedFar, field_high, field_low, field_whole,
    bit_high, bit_low, bit_flag, Nat.reduceSub] <;> rfl) rfl hw

theorem vfill (reg : BitVec 6) (rs1 : Reg) : Statement (.vfill reg rs1) := by
  intro w u hw h
  obtain ⟨rfl, rfl⟩ := words h
  exact decoded (c := .near (.vfill reg rs1)) (by simp (disch := decide) only [decodeFields, contextWord, packR,
    decodeContext, fMajor, fRd, fRs1, fRs2, fFn11, fImm16, fBit, near, unused, unusedFar, field_high, field_low, field_whole,
    bit_high, bit_low, bit_flag, Nat.reduceSub] <;> rfl) rfl hw

theorem vspillP (reg : BitVec 6) (rs1 : Reg) : Statement (.vspillP reg rs1) := by
  intro w u hw h
  obtain ⟨rfl, rfl⟩ := words h
  exact decoded (c := .near (.vspillP reg rs1)) (by simp (disch := decide) only [decodeFields, contextWord, packR,
    decodeContext, fMajor, fRd, fRs1, fRs2, fFn11, fImm16, fBit, near, unused, unusedFar, field_high, field_low, field_whole,
    bit_high, bit_low, bit_flag, Nat.reduceSub] <;> rfl) rfl hw

theorem vfillP (reg : BitVec 6) (rs1 : Reg) : Statement (.vfillP reg rs1) := by
  intro w u hw h
  obtain ⟨rfl, rfl⟩ := words h
  exact decoded (c := .near (.vfillP reg rs1)) (by simp (disch := decide) only [decodeFields, contextWord, packR,
    decodeContext, fMajor, fRd, fRs1, fRs2, fFn11, fImm16, fBit, near, unused, unusedFar, field_high, field_low, field_whole,
    bit_high, bit_low, bit_flag, Nat.reduceSub] <;> rfl) rfl hw

theorem pfset (reg : BitVec 6) : Statement (.pfset reg) := by
  intro w u hw h
  obtain ⟨rfl, rfl⟩ := words h
  exact decoded (c := .near (.pfset reg)) (by simp (disch := decide) only [decodeFields, contextWord, packR, decodeContext,
    fMajor, fRd, fRs1, fRs2, fFn11, fImm16, fBit, near, unused, unusedFar, field_high, field_low, field_whole, bit_high,
    bit_low, bit_flag, Nat.reduceSub] <;> rfl) rfl hw

theorem evictV (rs1 : Reg) : Statement (.evictV rs1) := by
  intro w u hw h
  obtain ⟨rfl, rfl⟩ := words h
  exact decoded (c := .near (.evictV rs1)) (by simp (disch := decide) only [decodeFields, contextWord, packR, decodeContext,
    fMajor, fRd, fRs1, fRs2, fFn11, fImm16, fBit, near, unused, unusedFar, field_high, field_low, field_whole, bit_high,
    bit_low, bit_flag, Nat.reduceSub] <;> rfl) rfl hw

theorem evictP (rs1 : Reg) : Statement (.evictP rs1) := by
  intro w u hw h
  obtain ⟨rfl, rfl⟩ := words h
  exact decoded (c := .near (.evictP rs1)) (by simp (disch := decide) only [decodeFields, contextWord, packR, decodeContext,
    fMajor, fRd, fRs1, fRs2, fFn11, fImm16, fBit, near, unused, unusedFar, field_high, field_low, field_whole, bit_high,
    bit_low, bit_flag, Nat.reduceSub] <;> rfl) rfl hw

theorem evictA (rs1 : Reg) : Statement (.evictA rs1) := by
  intro w u hw h
  obtain ⟨rfl, rfl⟩ := words h
  exact decoded (c := .near (.evictA rs1)) (by simp (disch := decide) only [decodeFields, contextWord, packR, decodeContext,
    fMajor, fRd, fRs1, fRs2, fFn11, fImm16, fBit, near, unused, unusedFar, field_high, field_low, field_whole, bit_high,
    bit_low, bit_flag, Nat.reduceSub] <;> rfl) rfl hw

theorem opa (a : OpaArgs) : Statement (.opa a) := by
  intro w u hw h
  obtain ⟨rfl, rfl⟩ := words (a := a.words.1) (b := a.words.2) h
  exact decoded (c := .near (.opa a)) (by simp (disch := decide) only [decodeFields, OpaArgs.words, matrixWord, decodeMatrix,
    fMajor, fRd, fRs1, fRs2, fFn11, fImm16, fBit, near, unused, unusedFar, field_high, field_low, field_whole, bit_high,
    bit_low, bit_flag, Nat.reduceSub] <;> rfl) rfl hw

theorem resolve (a : ResolveArgs) : Statement (.resolve a) := by
  intro w u hw h
  obtain ⟨rfl, rfl⟩ := words (a := a.words.1) (b := a.words.2) h
  exact decoded (c := .near (.resolve a)) (by simp (disch := decide) only [decodeFields, ResolveArgs.words, matrixWord,
    decodeMatrix, fMajor, fRd, fRs1, fRs2, fFn11, fImm16, fBit, near, unused, unusedFar, field_high, field_low, field_whole,
    bit_high, bit_low, bit_flag, Nat.reduceSub] <;> rfl) rfl hw

theorem acmp (a : AcmpArgs) : Statement (.acmp a) := by
  intro w u hw h
  obtain ⟨rfl, rfl⟩ := words (a := a.words.1) (b := a.words.2) h
  exact decoded (c := .near (.acmp a)) (by simp (disch := decide) only [decodeFields, AcmpArgs.words, matrixWord,
    decodeMatrix, fMajor, fRd, fRs1, fRs2, fFn11, fImm16, fBit, near, unused, unusedFar, field_high, field_low, field_whole,
    bit_high, bit_low, bit_flag, Nat.reduceSub] <;> rfl) rfl hw

theorem accstRaw (tile : Bool) (rs1 : Reg) : Statement (.accstRaw tile rs1) := by
  intro w u hw h
  obtain ⟨rfl, rfl⟩ := words h
  exact decoded (c := .near (.accstRaw tile rs1)) (by simp (disch := decide) only [decodeFields, matrixWord, decodeMatrix,
    fMajor, fRd, fRs1, fRs2, fFn11, fImm16, fBit, near, unused, unusedFar, field_high, field_low, field_whole, bit_high,
    bit_low, bit_flag, Nat.reduceSub] <;> rfl) rfl hw

theorem accstFx (tile : Bool) (rs1 : Reg) : Statement (.accstFx tile rs1) := by
  intro w u hw h
  obtain ⟨rfl, rfl⟩ := words h
  exact decoded (c := .near (.accstFx tile rs1)) (by simp (disch := decide) only [decodeFields, matrixWord, decodeMatrix,
    fMajor, fRd, fRs1, fRs2, fFn11, fImm16, fBit, near, unused, unusedFar, field_high, field_low, field_whole, bit_high,
    bit_low, bit_flag, Nat.reduceSub] <;> rfl) rfl hw

theorem accldRaw (tile : Bool) (rs1 : Reg) : Statement (.accldRaw tile rs1) := by
  intro w u hw h
  obtain ⟨rfl, rfl⟩ := words h
  exact decoded (c := .near (.accldRaw tile rs1)) (by simp (disch := decide) only [decodeFields, matrixWord, decodeMatrix,
    fMajor, fRd, fRs1, fRs2, fFn11, fImm16, fBit, near, unused, unusedFar, field_high, field_low, field_whole, bit_high,
    bit_low, bit_flag, Nat.reduceSub] <;> rfl) rfl hw

theorem acczero (tile both : Bool) : Statement (.acczero tile both) := by
  intro w u hw h
  obtain ⟨rfl, rfl⟩ := words h
  exact decoded (c := .near (.acczero tile both)) (by simp (disch := decide) only [decodeFields, matrixWord, decodeMatrix,
    fMajor, fRd, fRs1, fRs2, fFn11, fImm16, fBit, near, unused, unusedFar, field_high, field_low, field_whole, bit_high,
    bit_low, bit_flag, Nat.reduceSub] <;> rfl) rfl hw

theorem anchor (tile isImm : Bool) (imm : BitVec 8) (rs1 : Reg) : Statement (.anchor tile isImm imm rs1) := by
  intro w u hw h
  obtain ⟨rfl, rfl⟩ := words h
  exact decoded (c := .near (.anchor tile isImm imm rs1)) (by simp (disch := decide) only [decodeFields, matrixWord,
    decodeMatrix, fMajor, fRd, fRs1, fRs2, fFn11, fImm16, fBit, near, unused, unusedFar, field_high, field_low, field_whole,
    bit_high, bit_low, bit_flag, Nat.reduceSub] <;> rfl) rfl hw

theorem wideVectorForm (pre : VectorPrefix) (body : VectorBody) : Statement (.wideVectorForm pre body) := by
  intro w u hw h
  obtain ⟨rfl, rfl⟩ := words h
  exact wideVectorForm_word pre body hw

theorem wideSystemForm (imm : BitVec 26) (body : SystemBody) : Statement (.wideSystemForm imm body) := by
  intro w u hw h
  obtain ⟨rfl, rfl⟩ := words h
  exact wideSystemForm_word imm body hw

theorem cAddi (rd : Reg) (imm : BitVec 5) : Statement (.cAddi rd imm) := by
  intro w u hw h
  obtain ⟨rfl, rfl⟩ := words h
  exact decoded (c := .near (.cAddi rd imm)) (by simp (disch := decide) only [decodeFields, packC, decodeCompressed, fMajor,
    fRd, fRs1, fRs2, fFn11, fImm16, fBit, near, unused, unusedFar, field_high, field_low, field_whole, bit_high, bit_low,
    bit_flag, Nat.reduceSub] <;> rfl) rfl hw

theorem cMv (rd rs : Reg) : Statement (.cMv rd rs) := by
  intro w u hw h
  obtain ⟨rfl, rfl⟩ := words h
  exact decoded (c := .near (.cMv rd rs)) (by simp (disch := decide) only [decodeFields, packC, decodeCompressed, fMajor,
    fRd, fRs1, fRs2, fFn11, fImm16, fBit, near, unused, unusedFar, field_high, field_low, field_whole, bit_high, bit_low,
    bit_flag, Nat.reduceSub] <;> rfl) rfl hw

theorem cAdd (rd rs : Reg) : Statement (.cAdd rd rs) := by
  intro w u hw h
  obtain ⟨rfl, rfl⟩ := words h
  exact decoded (c := .near (.cAdd rd rs)) (by simp (disch := decide) only [decodeFields, packC, decodeCompressed, fMajor,
    fRd, fRs1, fRs2, fFn11, fImm16, fBit, near, unused, unusedFar, field_high, field_low, field_whole, bit_high, bit_low,
    bit_flag, Nat.reduceSub] <;> rfl) rfl hw

theorem cLd (r rs1 : BitVec 3) (off : BitVec 4) : Statement (.cLd r rs1 off) := by
  intro w u hw h
  obtain ⟨rfl, rfl⟩ := words h
  exact decoded (c := .near (.cLd r rs1 off)) (by simp (disch := decide) only [decodeFields, packC, decodeCompressed, fMajor,
    fRd, fRs1, fRs2, fFn11, fImm16, fBit, near, unused, unusedFar, field_high, field_low, field_whole, bit_high, bit_low,
    bit_flag, Nat.reduceSub] <;> rfl) rfl hw

theorem cSd (r rs1 : BitVec 3) (off : BitVec 4) : Statement (.cSd r rs1 off) := by
  intro w u hw h
  obtain ⟨rfl, rfl⟩ := words h
  exact decoded (c := .near (.cSd r rs1 off)) (by simp (disch := decide) only [decodeFields, packC, decodeCompressed, fMajor,
    fRd, fRs1, fRs2, fFn11, fImm16, fBit, near, unused, unusedFar, field_high, field_low, field_whole, bit_high, bit_low,
    bit_flag, Nat.reduceSub] <;> rfl) rfl hw

theorem cBz (rs : BitVec 3) (imm : BitVec 6) : Statement (.cBz rs imm) := by
  intro w u hw h
  obtain ⟨rfl, rfl⟩ := words h
  exact decoded (c := .near (.cBz rs imm)) (by simp (disch := decide) only [decodeFields, packC, decodeCompressed, fMajor,
    fRd, fRs1, fRs2, fFn11, fImm16, fBit, near, unused, unusedFar, field_high, field_low, field_whole, bit_high, bit_low,
    bit_flag, Nat.reduceSub] <;> rfl) rfl hw

theorem cBnz (rs : BitVec 3) (imm : BitVec 6) : Statement (.cBnz rs imm) := by
  intro w u hw h
  obtain ⟨rfl, rfl⟩ := words h
  exact decoded (c := .near (.cBnz rs imm)) (by simp (disch := decide) only [decodeFields, packC, decodeCompressed, fMajor,
    fRd, fRs1, fRs2, fFn11, fImm16, fBit, near, unused, unusedFar, field_high, field_low, field_whole, bit_high, bit_low,
    bit_flag, Nat.reduceSub] <;> rfl) rfl hw

theorem cJ (imm : BitVec 10) : Statement (.cJ imm) := by
  intro w u hw h
  obtain ⟨rfl, rfl⟩ := words h
  exact decoded (c := .near (.cJ imm)) (by simp (disch := decide) only [decodeFields, packC, decodeCompressed, fMajor, fRd,
    fRs1, fRs2, fFn11, fImm16, fBit, near, unused, unusedFar, field_high, field_low, field_whole, bit_high, bit_low,
    bit_flag, Nat.reduceSub] <;> rfl) rfl hw

theorem cRet : Statement (.cRet) := by
  intro w u hw h
  obtain ⟨rfl, rfl⟩ := words h
  exact decoded (c := .near (.cRet)) (by simp (disch := decide) only [decodeFields, packC, decodeCompressed, fMajor, fRd,
    fRs1, fRs2, fFn11, fImm16, fBit, near, unused, unusedFar, field_high, field_low, field_whole, bit_high, bit_low,
    bit_flag, Nat.reduceSub] <;> rfl) rfl hw

theorem cEnd : Statement (.cEnd) := by
  intro w u hw h
  obtain ⟨rfl, rfl⟩ := words h
  exact decoded (c := .near (.cEnd)) (by simp (disch := decide) only [decodeFields, packC, decodeCompressed, fMajor, fRd,
    fRs1, fRs2, fFn11, fImm16, fBit, near, unused, unusedFar, field_high, field_low, field_whole, bit_high, bit_low,
    bit_flag, Nat.reduceSub] <;> rfl) rfl hw

theorem cYield : Statement (.cYield) := by
  intro w u hw h
  obtain ⟨rfl, rfl⟩ := words h
  exact decoded (c := .near (.cYield)) (by simp (disch := decide) only [decodeFields, packC, decodeCompressed, fMajor, fRd,
    fRs1, fRs2, fFn11, fImm16, fBit, near, unused, unusedFar, field_high, field_low, field_whole, bit_high, bit_low,
    bit_flag, Nat.reduceSub] <;> rfl) rfl hw

theorem placeGang : Statement (.placeGang) := by
  intro w u _ h
  cases h

theorem jobCompletion : Statement (.jobCompletion) := by
  intro w u _ h
  cases h

theorem spreadSteal : Statement (.spreadSteal) := by
  intro w u _ h
  cases h

theorem summitScan : Statement (.summitScan) := by
  intro w u _ h
  cases h

theorem declineDelay : Statement (.declineDelay) := by
  intro w u _ h
  cases h

theorem nop : Statement (.nop) := by
  intro w u _ h
  cases h

theorem job : Statement (.job) := by
  intro w u _ h
  cases h

theorem copy : Statement (.copy) := by
  intro w u _ h
  cases h

theorem copyComplete : Statement (.copyComplete) := by
  intro w u _ h
  cases h

theorem signal : Statement (.signal) := by
  intro w u _ h
  cases h

theorem wait : Statement (.wait) := by
  intro w u _ h
  cases h

theorem fenceCommand : Statement (.fenceCommand) := by
  intro w u _ h
  cases h

theorem indirect : Statement (.indirect) := by
  intro w u _ h
  cases h

theorem createStream : Statement (.createStream) := by
  intro w u _ h
  cases h

theorem destroyStream : Statement (.destroyStream) := by
  intro w u _ h
  cases h

theorem cairnStoreSize : Statement (.cairnStoreSize) := by
  intro w u _ h
  cases h

theorem spillAreas : Statement (.spillAreas) := by
  intro w u _ h
  cases h

theorem invalidate : Statement (.invalidate) := by
  intro w u _ h
  cases h

theorem allocateSignal : Statement (.allocateSignal) := by
  intro w u _ h
  cases h

theorem freeSignal : Statement (.freeSignal) := by
  intro w u _ h
  cases h

theorem tailWrite : Statement (.tailWrite) := by
  intro w u _ h
  cases h

theorem controlRegionWrite : Statement (.controlRegionWrite) := by
  intro w u _ h
  cases h

theorem rdmaWrite : Statement (.rdmaWrite) := by
  intro w u _ h
  cases h

theorem rdmaRead : Statement (.rdmaRead) := by
  intro w u _ h
  cases h

theorem fabricAtomic : Statement (.fabricAtomic) := by
  intro w u _ h
  cases h

theorem connectionSetup : Statement (.connectionSetup) := by
  intro w u _ h
  cases h

theorem transportGiveUp : Statement (.transportGiveUp) := by
  intro w u _ h
  cases h

theorem ident : Statement (.ident) := by
  intro w u _ h
  cases h

theorem upload : Statement (.upload) := by
  intro w u _ h
  cases h

theorem select : Statement (.select) := by
  intro w u _ h
  cases h

theorem reset : Statement (.reset) := by
  intro w u _ h
  cases h

theorem status : Statement (.status) := by
  intro w u _ h
  cases h

theorem attest : Statement (.attest) := by
  intro w u _ h
  cases h

theorem resumeRequest : Statement (.resumeRequest) := by
  intro w u _ h
  cases h

theorem powerGood : Statement (.powerGood) := by
  intro w u _ h
  cases h

theorem baseMode : Statement (.baseMode) := by
  intro w u _ h
  cases h

theorem firmwareVerify : Statement (.firmwareVerify) := by
  intro w u _ h
  cases h

theorem memoryTraining : Statement (.memoryTraining) := by
  intro w u _ h
  cases h

theorem thermalSample : Statement (.thermalSample) := by
  intro w u _ h
  cases h

theorem singleBitError : Statement (.singleBitError) := by
  intro w u _ h
  cases h

theorem uncorrectableRead : Statement (.uncorrectableRead) := by
  intro w u _ h
  cases h

theorem linkFlitRetry : Statement (.linkFlitRetry) := by
  intro w u _ h
  cases h

theorem illegalInstruction : Statement (.illegalInstruction) := by
  intro w u _ h
  cases h

theorem instructionFetchFault : Statement (.instructionFetchFault) := by
  intro w u _ h
  cases h

theorem storeReachesHome : Statement (.storeReachesHome) := by
  intro w u _ h
  cases h

theorem mainInputOff : Statement (.mainInputOff) := by
  intro w u _ h
  cases h

end Sys2Proof.Laws.RoundTrip
end

