-- ==== Sys2Proof/Laws/Registers.lean ====
section
/-! SUPPORT. What reading and writing a register, retiring and giving a result do. -/

namespace Sys2Proof.Laws

open Sys2Proof.Machine

/-! ### Registers -/

theorem getX_setX (s : State) (r q : Reg) (v : Word) :
    (s.setX r v).getX q = if q = r then (if r = 0#5 then 0 else v) else s.getX q := by
  unfold State.setX State.getX
  by_cases hq : q = 0#5
  · by_cases hr : r = 0#5
    · simp [hq, hr]
    · have : ¬ 0#5 = r := fun h => hr h.symm
      simp [hq, this]
  · by_cases hr : r = 0#5
    · have : ¬ q = r := fun h => hq (h.trans hr)
      simp [hq, hr]
    · simp only [hq, hr, if_false]
      by_cases hqr : q = r
      · subst hqr; simp
      · have h : r.toNat ≠ q.toNat := fun h => hqr (BitVec.eq_of_toNat_eq h.symm)
        simp [hqr, h]

theorem getX_zero (s : State) : s.getX 0#5 = 0 := rfl

/-- Registers are read from the hart's file alone. -/
theorem getX_congr {s t : State} (h : t.hart.x = s.hart.x) (r : Reg) : t.getX r = s.getX r := by
  simp only [State.getX, h]

/-! ### Retirement -/

/-- The loop test changes the pc and the loop levels alone. -/
theorem loopTest_eq (h : Hart) (npc : Word) (taken : Bool) :
    h.loopTest npc taken = { h with pc := (h.loopTest npc taken).pc, loop0 := (h.loopTest npc taken).loop0,
                                    loop1 := (h.loopTest npc taken).loop1 } := by
  unfold Hart.loopTest
  dsimp only
  split
  · rfl
  · split <;> rfl

/-- The loop test reads the loop levels alone. -/
theorem loopTest_congr (h k : Hart) (npc : Word) (taken : Bool) (h0 : k.loop0 = h.loop0) (h1 : k.loop1 = h.loop1) :
    (k.loopTest npc taken).pc = (h.loopTest npc taken).pc ∧ (k.loopTest npc taken).loop0 = (h.loopTest npc taken).loop0 ∧
      (k.loopTest npc taken).loop1 = (h.loopTest npc taken).loop1 := by
  unfold Hart.loopTest
  dsimp only
  rw [h0, h1]
  split
  · exact ⟨rfl, rfl, rfl⟩
  · split <;> exact ⟨rfl, rfl, rfl⟩

/-- With both levels idle the next address is the target. -/
theorem loopTest_idle (h : Hart) (npc : Word) (taken : Bool) (h0 : h.loop0.count = 0) (h1 : h.loop1.count = 0) :
    h.loopTest npc taken = { h with pc := npc } := by
  unfold Hart.loopTest loopLevel
  simp [h0, h1]

/-- Everything a transfer of control does. -/
theorem left_jump (s u : State) (target : Word) (taken : Bool) (h0 : u.hart.loop0 = s.hart.loop0) (h1 : u.hart.loop1 = s.hart.loop1)
    (hr : u.hart.retired = s.hart.retired) :
    Left s { u with hart := (u.hart.count 1).loopTest target taken } target taken := by
  obtain ⟨e1, e2, e3⟩ := loopTest_congr s.hart (u.hart.count 1) target taken h0 h1
  refine ⟨?_, ?_, e1, e2, e3⟩
  · rw [loopTest_eq]; rfl
  · rw [loopTest_eq]; show u.hart.retired + _ = _; rw [hr]; rfl

/-- Everything that retiring does. -/
theorem retired_retire (s u : State) (len : Nat) (h0 : u.hart.loop0 = s.hart.loop0) (h1 : u.hart.loop1 = s.hart.loop1)
    (hp : u.hart.pc = s.hart.pc) (hr : u.hart.retired = s.hart.retired) : Retired s (u.retire len) len := by
  unfold Retired State.retire Hart.retire
  rw [hp]
  exact left_jump s u _ false h0 h1 hr

@[simp] theorem retire_x (s : State) (len : Nat) : (s.retire len).hart.x = s.hart.x := by
  unfold State.retire Hart.retire; rw [loopTest_eq]; rfl

@[simp] theorem jump_x (s : State) (a : Word) : (s.jump a).hart.x = s.hart.x := by
  unfold State.jump Hart.jump; rw [loopTest_eq]; rfl

/-! ### Frames -/

theorem harts_slot (s t : State) (core off : Nat) (hi : t.hart.id = s.hart.id) (hp : t.hart.priv = s.hart.priv)
    (he : t.hart.eff.hsp = s.hart.eff.hsp) (hd : t.hart.eff.depth = s.hart.eff.depth)
    (hc : (t.hart.cond != .vacant) = (s.hart.cond != .vacant)) (ho : t.others = s.others) :
    t.harts.any (fun h => h.slotHeld core off) = s.harts.any (fun h => h.slotHeld core off) := by
  have e : t.hart.slotHeld core off = s.hart.slotHeld core off := by
    unfold Hart.slotHeld
    rw [hi, hp, he, hd, hc]
  unfold State.harts
  rw [ho, List.filter_cons, List.filter_cons, hc]
  split
  · rw [List.any_cons, List.any_cons, e]
  · rfl

/-- Bytes read alike when memory, the outbound queues and the spill slots are alike. -/
theorem sameBytes_of (s t : State) (hm : t.mem = s.mem) (hq : ∀ d, (t.die d).outbound = (s.die d).outbound) (hk : t.ticks = s.ticks)
    (hs : ∀ core off, t.harts.any (fun h => h.slotHeld core off) = s.harts.any (fun h => h.slotHeld core off)) :
    SameBytes Nowhere s t := by
  intro die key _
  unfold State.byteAt
  rw [hm, hq, hk]
  split
  · rfl
  · split
    · dsimp only; rw [hs]
    · rfl

/-- A state that differs in registers, pc, loop levels, counts and condition alone leaves the rest untouched. -/
theorem untouched_of (s t : State) (rs : List Reg) (hx : ∀ r, r ∉ rs → t.getX r = s.getX r)
    (h : t = { s with hart := { s.hart with x := t.hart.x, pc := t.hart.pc, loop0 := t.hart.loop0, loop1 := t.hart.loop1,
                                            cond := t.hart.cond, retired := t.hart.retired,
                                            eff := { s.hart.eff with underPf := false, hold := false } } }) :
    Untouched [] rs s t := by
  constructor
  case regs => exact hx
  all_goals first
    | (rw [h]; done)
    | (intro _; rw [h]; done)
    | (intro _ _; rw [h]; rfl)

/-- Retiring leaves everything but the pc, the loop levels, the counts and the condition. -/
theorem retire_eq (s : State) (len : Nat) : s.retire len =
    { s with hart := { s.hart with pc := (s.retire len).hart.pc, loop0 := (s.retire len).hart.loop0,
                                   loop1 := (s.retire len).hart.loop1, cond := .running, retired := s.hart.retired + 1,
                                   eff := { s.hart.eff with underPf := false, hold := false } } } := by
  unfold State.retire Hart.retire; rw [loopTest_eq]; rfl

theorem jump_eq (s : State) (a : Word) : s.jump a =
    { s with hart := { s.hart with pc := (s.jump a).hart.pc, loop0 := (s.jump a).hart.loop0,
                                   loop1 := (s.jump a).hart.loop1, cond := .running, retired := s.hart.retired + 1,
                                   eff := { s.hart.eff with underPf := false, hold := false } } } := by
  unfold State.jump Hart.jump; rw [loopTest_eq]; rfl

/-- The slots of frames are where they were when a running hart only retires. -/
theorem sameBytes_retire (s t : State) (hc : s.hart.cond ≠ .vacant)
    (h : t = { s with hart := { s.hart with x := t.hart.x, pc := t.hart.pc, loop0 := t.hart.loop0, loop1 := t.hart.loop1,
                                            cond := .running, retired := t.hart.retired,
                                            eff := { s.hart.eff with underPf := false, hold := false } } }) :
    SameBytes Nowhere s t := by
  refine sameBytes_of s t (by rw [h]) (fun d => by rw [h]; rfl) (by rw [h]) (fun core off => ?_)
  refine harts_slot s t core off (by rw [h]) (by rw [h]) (by rw [h]) (by rw [h]) ?_ (by rw [h])
  rw [h]
  cases hk : s.hart.cond <;> first | rfl | exact absurd hk hc

/-- What giving a result does. -/
theorem gives_of (i : Instr) (s : State) (len : Nat) (rd : Reg) (v : Word) (hc : s.hart.cond ≠ .vacant)
    (h : exec i s = .next (s.give rd v len)) : Gives i s len rd v := by
  have e : s.give rd v len = { s with hart := { s.hart with
      x := (s.give rd v len).hart.x, pc := (s.give rd v len).hart.pc, loop0 := (s.give rd v len).hart.loop0,
      loop1 := (s.give rd v len).hart.loop1, cond := .running, retired := (s.give rd v len).hart.retired,
      eff := { s.hart.eff with underPf := false, hold := false } } } := by
    unfold State.give
    rw [retire_eq]
    unfold State.setX
    split <;> rfl
  refine ⟨_, h, ?_, ?_, ?_, sameBytes_retire s _ hc e⟩
  · exact retired_retire s (s.setX rd v) len (setX_hart_loop0 s v rd) (setX_hart_loop1 s v rd) (setX_hart_pc s v rd) (setX_hart_retired s v rd)
  · rw [State.give, getX_congr (retire_x (s.setX rd v) len), getX_setX]; simp
  · refine untouched_of s _ [rd] (fun r hr => ?_) (by
      have hcond : (s.give rd v len).hart.cond = .running := by rw [e]
      rw [hcond]; exact e)
    rw [State.give, getX_congr (retire_x (s.setX rd v) len), getX_setX, if_neg (by simpa using hr)]

/-- What passing control does. -/
theorem goes_of (i : Instr) (s : State) (a : Word) (rd : Reg) (v : Word) (hc : s.hart.cond ≠ .vacant)
    (h : exec i s = .next ((s.setX rd v).jump a)) : Goes i s a true rd v := by
  have e : (s.setX rd v).jump a = { s with hart := { s.hart with
      x := ((s.setX rd v).jump a).hart.x, pc := ((s.setX rd v).jump a).hart.pc, loop0 := ((s.setX rd v).jump a).hart.loop0,
      loop1 := ((s.setX rd v).jump a).hart.loop1, cond := .running, retired := ((s.setX rd v).jump a).hart.retired,
      eff := { s.hart.eff with underPf := false, hold := false } } } := by
    rw [jump_eq]
    unfold State.setX
    split <;> rfl
  refine ⟨_, h, ?_, ?_, ?_, sameBytes_retire s _ hc e⟩
  · exact left_jump s (s.setX rd v) a true (setX_hart_loop0 s v rd) (setX_hart_loop1 s v rd) (setX_hart_retired s v rd)
  · rw [getX_congr (jump_x (s.setX rd v) a), getX_setX]; simp
  · refine untouched_of s _ [rd] (fun r hr => ?_) (by
      have hcond : ((s.setX rd v).jump a).hart.cond = .running := by rw [e]
      rw [hcond]; exact e)
    rw [getX_congr (jump_x (s.setX rd v) a), getX_setX, if_neg (by simpa using hr)]

end Sys2Proof.Laws
end

