-- ==== Sys2Proof/Tests/Slice0.lean ====
section
/-! SUPPORT. Tests of the model: ill-formed terms that are refused, words of the spec decoded, instructions on small states, and a state
that meets the hypotheses of each statement. -/

namespace Sys2Proof.Tests

open Sys2Proof.Machine

set_option maxRecDepth 20000
set_option exponentiation.threshold 70000

/-! ### Well-formedness: each check refuses a term -/

def v0 : VArgs := ⟨0, 0, 0, 0, 0, 0⟩
def f0 : FArgs := ⟨0, 0, 0, 0, 0⟩
def amo0 : AmoArgs := ⟨0, 0, 0, 0, 0, 0⟩
def p0 : PArgs := ⟨0, 0, 0, 0⟩
def opa0 : OpaArgs := ⟨0, 0, false, false, false, 0, 0, 0, 0, 0, 0⟩
def res0 : ResolveArgs := ⟨0, 0, false, false, false, false, true, 0, 0, 0⟩
def acmp0 : AcmpArgs := ⟨0, 0, false, false, false, true, 0, 0, 0, 0⟩
def pre0 : VectorPrefix := ⟨0, 0, 0⟩

theorem test_smoke_wellFormed : ([.crr 0 0x064, .fadd f0, .amoadd amo0, .loop false 1 3, .vadd v0, .vcmpEq { v0 with vd := 15 }, .opa opa0,
    .resolve res0, .acmp acmp0, .pand p0, .wideVectorForm pre0 (.vec .vadd v0), .scopy 47 0 0 0, .vfillP 50 1] : List Instr).all Instr.wf = true := by
  decide
theorem test_smoke_control : (Instr.crr 0 0x065).wf = false ∧ (Instr.crw 0 0x006 0).wf = false := by decide
theorem test_smoke_loop : (Instr.loop false 1 2).wf = false ∧ (Instr.loop false 1 0x8000).wf = false := by decide
theorem test_smoke_float : (Instr.fadd { f0 with rm := 5 }).wf = false ∧ (Instr.fadd { f0 with fmt := 3 }).wf = false ∧
    (Instr.fsqrt { f0 with rs2 := 1 }).wf = false ∧ (Instr.fmin { f0 with rm := 1 }).wf = false ∧ (Instr.fcvt { f0 with rs2 := 3 }).wf = false := by
  decide
theorem test_smoke_atomics : (Instr.amoadd { amo0 with ty := 2 }).wf = false ∧ (Instr.amofx amo0).wf = false ∧ (Instr.amoadd { amo0 with rd := 1 }).wf = false ∧
    (Instr.amoswap { amo0 with scope := 6 }).wf = false ∧ (Instr.lda amo0).wf = false ∧ (Instr.str { amo0 with ord := 1 }).wf = false := by decide
theorem test_smoke_fence : (Instr.fence 0 0).wf = false ∧ (Instr.fence 1 6).wf = false := by decide
theorem test_smoke_setvl : (Instr.setvl 0 0 5 false 0).wf = false ∧ (Instr.setvlG 0 0 0 false 1).wf = false := by decide
theorem test_smoke_tags : (Instr.vcfg 0 16 false false 0).wf = false ∧ (Instr.vcfg 3 4 true false 3).wf = false ∧ (Instr.vcfg 0 0 true false 1).wf = false ∧
    (Instr.vretag 0 0 false true 0).wf = false ∧ (Instr.vretag 0 0 false false 1).wf = false := by decide
theorem test_smoke_matrixMode : (Instr.mstart 1 0 1).wf = false ∧ (Instr.mstartKeep 1 0 1).wf = false := by decide
theorem test_smoke_vector : (Instr.vadd { v0 with mod := 5 }).wf = false ∧ (Instr.vadd { v0 with sz := 1 }).wf = false ∧ (Instr.vneg { v0 with vs2 := 1 }).wf = false ∧
    (Instr.vext { v0 with pg := 1 }).wf = false ∧ (Instr.vcmpEq { v0 with vd := 16 }).wf = false ∧ (Instr.vidx { v0 with vs1 := 1 }).wf = false ∧
    (Instr.vslup { v0 with mod := 1 }).wf = false := by decide
theorem test_smoke_vectorMemory : (Instr.vld { v0 with vs2 := 1 }).wf = false ∧ (Instr.vlds { v0 with mod := 1 }).wf = false ∧
    (Instr.vgather { v0 with vs1 := 16 }).wf = false := by decide
theorem test_smoke_predicates : (Instr.pand { p0 with pd := 48 }).wf = false ∧ (Instr.pmov { p0 with ps2 := 1 }).wf = false ∧ (Instr.pset { p0 with ps1 := 1 }).wf = false ∧
    (Instr.pand { p0 with ps1 := 51 }).wf = false ∧ (Instr.pcnt ⟨0, 0, 51⟩).wf = false := by decide
theorem test_smoke_wide : (Instr.wideVectorForm { pre0 with pg := 50 } .pair).wf = false ∧ (Instr.wideVectorForm { pre0 with rm := 5 } (.vec .vadd v0)).wf = false ∧
    (Instr.wideVectorForm { pre0 with rm := 1 } (.vec .vand v0)).wf = false ∧ (Instr.wideVectorForm { pre0 with immx := 1 } .pair).wf = false ∧
    (Instr.wideVectorForm pre0 (.vec .vadd { v0 with pg := 1 })).wf = false ∧ (Instr.wideVectorForm { pre0 with pg := 1 } (.vec .vext v0)).wf = false ∧
    (Instr.wideSystemForm 0 (.lrewind 0 0)).wf = false ∧ (Instr.vsplatImm { pre0 with pg := 50 } 0 0).wf = false := by decide
theorem test_smoke_engine : (Instr.scopy 0 0 0 0).wf = false ∧ (Instr.scopy 48 0 0 0).wf = false ∧ (Instr.tkput 1 1).wf = false ∧ (Instr.lopen 0 0 0).wf = false := by
  decide
theorem test_smoke_context : (Instr.vspill 32 0).wf = false ∧ (Instr.vspillP 49 0).wf = false ∧ (Instr.vfillP 48 0).wf = false ∧ (Instr.pfset 0).wf = false := by decide
theorem test_smoke_matrix : (Instr.opa { opa0 with prow := 50 }).wf = false ∧ (Instr.resolve { res0 with fx := true, sat := true }).wf = false ∧
    (Instr.resolve { res0 with isImm := false, idx := 1 }).wf = false ∧ (Instr.acmp { acmp0 with cc := 6 }).wf = false ∧
    (Instr.acmp { acmp0 with pd := 48 }).wf = false ∧ (Instr.acczero true true).wf = false ∧ (Instr.anchor false true 0x80 0).wf = false ∧
    (Instr.anchor false false 1 0).wf = false := by decide
theorem test_smoke_compressed : (Instr.cMv 0 1).wf = false ∧ (Instr.cAdd 0 1).wf = false ∧ (Instr.cAddi 0 1).wf = false := by decide

/-! ### Decoding: words of the spec, family by family -/

theorem test_word_integer : decode 0x00000800 0 = .ok (.addi 0 0 0) := by decide
theorem test_word_loop : decode 0x000C400C 0 = .ok (.loop false 12 0x000C) := by decide
theorem test_word_branch : decode 0x600435E0 0 = .ok (.bge 15 0 4) := by decide
theorem test_word_control : decode 0x40204400 0 = .ok (.crw 0 0x020 0) := by decide
theorem test_word_setvl : decode 0x7A40560D 0 = .ok (.setvl 16 13 2 true 15) := by decide
theorem test_word_gang : decode 0x00015C00 0 = .ok .bar := by decide
theorem test_word_fenceSv : decode 0x01005000 0 = .ok .fenceSv := by decide
theorem test_word_fenceVs : decode 0x02005000 0 = .ok .fenceVs := by decide
theorem test_word_fence : decode 0x00135000 0 = .ok (.fence 1 3) := by decide
theorem test_word_mstop : decode 0x00006040 0 = .ok .mstop := by decide
theorem test_word_mstart : decode 0x1FFF6000 0 = .ok (.mstart 31 255 0) := by decide
theorem test_word_hpush : decode 0x3003C4E5 0 = .ok (.hpush 7 5 6) := by decide
theorem test_word_hpop : decode 0x0004C400 0 = .ok .hpop := by decide
theorem test_word_perform : decode 0x6001C54B 0 = .ok (.perform 10 11 12) := by decide
theorem test_word_lmatch : decode 0x6005C14B 0 = .ok (.lmatch 10 11 12) := by decide
theorem test_word_ladv : decode 0x0001C14B 0 = .ok (.ladv 10 11) := by decide
theorem test_word_lrewind : decode 0x00E2C14B 0 = .ok (.lrewind 7 10 11) := by decide
theorem test_word_sunbind : decode 0x0100B8A0 0 = .ok (.sunbind 5) := by decide
theorem test_word_sbind : decode 0x0000B8AC 0 = .ok (.sbind 5 12) := by decide
theorem test_word_qsig : decode 0x6400BC0B 0 = .ok (.qsig 11 12) := by decide
theorem test_word_qwait : decode 0x6500BC0B 0 = .ok (.qwait 11 12) := by decide
theorem test_word_vfma : decode 0x08006C81 0 = .ok (.vfma ⟨1, 0, 0, 0, 4, 1⟩) := by decide
theorem test_word_vld : decode 0x0000A42E 0 = .ok (.vld ⟨0, 0, 0, 0, 1, 14⟩) := by decide
theorem test_word_pmov : decode 0x005C9D07 0 = .ok (.pmov ⟨0, 7, 8, 7⟩) := by decide
theorem test_word_pair : decode 0x00149800 0 = .ok (.pair 5) := by decide
theorem test_word_vspill : decode 0x0005C80A 0 = .ok (.vspill 5 10) := by decide
theorem test_word_pfset : decode 0x0428C800 0 = .ok (.pfset 40) := by decide
theorem test_word_evict : decode 0x0500C80B 0 = .ok (.evictV 11) := by decide
theorem test_word_str : decode 0x66B34C0B 0 = .ok (.str ⟨12, 1, 2, 3, 0, 11⟩) := by decide
theorem test_word_lda : decode 0x062B4DAB 0 = .ok (.lda ⟨0, 1, 1, 3, 13, 11⟩) := by decide
theorem test_word_hpre : decode 0x6100014B 0 = .ok (.hpre 10 11 12) := by decide
theorem test_word_hpark : decode 0x01010140 0 = .ok (.hpark 10) := by decide
theorem test_word_hwake : decode 0x6102014B 0 = .ok (.hwake 10 11 12) := by decide
theorem test_word_opa : decode 0x0000D000 0x10000001 = .ok (.opa ⟨0, 0, false, false, false, 2, 0, 0, 0, 0, 1⟩) := by decide
theorem test_word_anchor : decode 0x0001D0C0 0x00280000 = .ok (.anchor false true 40 0) := by decide
theorem test_word_acczero : decode 0x0002D0A0 0 = .ok (.acczero true false) := by decide
theorem test_word_resolve : decode 0x0000D020 0x0000028E = .ok (.resolve ⟨0, 0, false, false, false, false, false, 0, 20, 14⟩) := by decide
theorem test_word_accst : decode 0x0000D060 0xC = .ok (.accstRaw false 12) ∧ decode 0x0003D060 0xC = .ok (.accstFx true 12) := by decide
theorem test_word_accld : decode 0x0002D080 0xC = .ok (.accldRaw true 12) := by decide
theorem test_word_atomic : decode 0x68234C0C 0 = .ok (.amoadd ⟨13, 1, 0, 3, 0, 12⟩) := by decide
theorem test_word_zero : decode 0 0 = .error .unassignedFunction := by decide
/-! ### Small states -/

/-- A hart of core 0, die 0, on four lanes at user privilege, with one page of memory at 0x10000. -/
def start : State := State.reset.withFetchWord 32 0x00000800

theorem start_running : start.hart.cond = .running := by decide

/-- The instruction answers a next state that satisfies `p`. -/
def next (i : Instr) (s : State) (p : State → Bool) : Bool :=
  match exec i s with
  | .next t => p t
  | _ => false

/-- The hart halts on the effect, for want of a handler. -/
def halts (i : Instr) (s : State) (id : BitVec 16) : Bool :=
  next i s (fun t => match t.hart.cond with
    | .halted e _ => e == id
    | _ => false)

def two (a b : Word) : State := (start.setX 1 a).setX 2 b

/-! ### Scalar instructions -/

theorem test_add_wraps : next (.add 3 1 2) (two 0xFFFFFFFFFFFFFFFF 2) (fun t => t.getX 3 == 1) = true := by decide
theorem test_x0_discards : next (.add 0 1 2) (two 1 2) (fun t => t.getX 0 == 0) = true := by decide
theorem test_div_corners : next (.div 3 1 2) (two 7 0) (fun t => t.getX 3 == 0xFFFFFFFFFFFFFFFF) = true ∧
    next (.div 3 1 2) (two 0x8000000000000000 0xFFFFFFFFFFFFFFFF) (fun t => t.getX 3 == 0x8000000000000000) = true := by decide
theorem test_rem_corners : next (.rem 3 1 2) (two 7 0) (fun t => t.getX 3 == 7) = true ∧
    next (.rem 3 1 2) (two 0xFFFFFFFFFFFFFFF9 2) (fun t => t.getX 3 == 0xFFFFFFFFFFFFFFFF) = true := by decide
theorem test_sra_low_bits : next (.sra 3 1 2) (two 0x8000000000000000 65) (fun t => t.getX 3 == 0xC000000000000000) = true := by decide
theorem test_mulhiSu : next (.mulhiSu 3 1 2) (two 0xFFFFFFFFFFFFFFFF 2) (fun t => t.getX 3 == 0xFFFFFFFFFFFFFFFF) = true := by decide
theorem test_andn : next (.andn 3 1 2) (two 0xFF 0x0F) (fun t => t.getX 3 == 0xF0) = true := by decide
theorem test_lisK : next (.lisK 1 0xABCD 1) (two 0x1111222233334444 0) (fun t => t.getX 1 == 0x11112222ABCD4444) = true := by decide
theorem test_clz_zero : next (.clz 3 1) (two 0 0) (fun t => t.getX 3 == 64) = true := by decide
theorem test_addpc : next (.addpc 3 0xFFFF) start (fun t => t.getX 3 == 0) = true := by decide
theorem test_jalr_links : next (.jalr 1 1 4) (two 0x10000 0) (fun t => t.getX 1 == 0x10004 && t.hart.pc == 0x10004) = true := by decide
theorem test_jalr_odd : halts (.jalr 3 1 1) (two 0x10000 0) 0x0003 = true := by decide
theorem test_branch_signed : next (.blt 1 2 8) (two 0xFFFFFFFFFFFFFFFF 0) (fun t => t.hart.pc == 0x10010) = true ∧
    next (.bltu 1 2 8) (two 0xFFFFFFFFFFFFFFFF 0) (fun t => t.hart.pc == 0x10004) = true := by decide
theorem test_loop_skips : next (.loop true 1 6) (two 0 0) (fun t => t.hart.pc == 0x1000C && t.hart.loop1.count == 0) = true := by decide
theorem test_loop_repeats : next .yield ((start.setLoop true { Loop.idle with count := 2, start := 0x10000, stop := 0x10004, armed := 0x10004 })) (fun t => t.hart.pc == 0x10000 && t.hart.loop1.count == 1) = true := by
  decide
theorem test_load_extends : next (.lb 3 1 0) ({ two 0x10100 0 with mem := Sparse.setList 0 start.mem 0x10100 [0x80] }) (fun t => t.getX 3 == 0xFFFFFFFFFFFFFF80) = true := by
  decide
theorem test_store_little_endian : next (.sh 2 1 0) (two 0x10100 0x1234) (fun t => t.byteAt 0 0x10100 == 0x34 && t.byteAt 0 0x10101 == 0x12) = true := by decide
theorem test_load_misaligned : halts (.lw 3 1 2) (two 0x10100 0) 0x0003 = true := by decide
theorem test_load_unmapped : halts (.lw 3 1 0) (two 0x20000 0) 0x0004 = true := by decide
theorem test_amofx_wraps : next (.amofx ⟨2, 1, 0, 3, 0, 1⟩)
    { two 0x10100 1 with mem := Sparse.setList 0 start.mem 0x10100 (natLe 16 (2 ^ 95 - 1)) }
    (fun t => leNat (t.bytesAt 0 0x10100 16) == 2 ^ 128 - 2 ^ 95) = true := by decide
theorem test_amocas : next (.amocas ⟨2, 0, 0, 3, 3, 1⟩) ((two 0x10100 9).setX 3 0) (fun t => t.getX 3 == 0 && t.byteAt 0 0x10100 == 9) = true := by decide
theorem test_fadd : next (.fadd ⟨2, 0, 0, 3, 1⟩) (two 0x3F800000 0x3FC00000) (fun t => t.getX 3 == 0x40200000 && t.hart.fp.fflags == 0) = true := by decide
theorem test_fdiv_by_zero : next (.fdiv ⟨2, 0, 0, 3, 1⟩) (two 0x3F800000 0) (fun t => t.getX 3 == 0x7F800000) = true := by decide
theorem test_flt_nan : next (.flt ⟨2, 0, 0, 3, 1⟩) (two 0x7FC00000 0) (fun t => t.getX 3 == 0 && t.hart.fp.fflags == flagNV) = true := by decide
theorem test_crw_privileged : halts (.crw 3 0x050 1) (two 0x7F0100000100 0) 0x0002 = true := by decide
theorem test_crw_reserved : halts (.crw 3 0x001 1) (two 7 0) 0x0001 = true := by decide
theorem test_crs_sets : next (.crs 3 0x000 1) (two 1 0) (fun t => t.getX 3 == 0 && t.hart.fp.fflags == 1) = true := by decide
/-! ### Vector, matrix and effect instructions -/

/-- Register `r` tagged `t`, with the codes `cs` of that tag's width. -/
def State.reg (s : State) (r : Reg) (t : Tag) (cs : List Nat) : State :=
  (s.setVec { s.hart.vec with tags := s.hart.vec.tags.setIfInBounds r.toNat ⟨t, false, false, 0⟩ }).setImage r
    (Sparse.setList 0 [] 0 (cs.flatMap (natLe t.width)))

def State.vl (s : State) (n : Nat) : State := s.setVec { s.hart.vec with vl := n }
def State.pg (s : State) (p : Nat) (m : Mask) : State := s.setVec { s.hart.vec with preds := s.hart.vec.preds.setIfInBounds p m }

def code (t : State) (r : Reg) (e : Nat) : Nat := codeAt (t.image r) (t.widthOf r) e

def ints : State := State.vl (State.reg (State.reg (State.reg start 1 .int8 [100, 200, 3]) 2 .int8 [100, 200, 5]) 3 .int8 [7, 7, 7, 7]) 3
def floats : State :=
  State.vl (State.reg (State.reg (State.reg start 1 .fp32 [0x3FC00000, 0x7FC00000]) 2 .fp32 [0x40000000, 0x3F800000]) 3 .fp32 [0x3F800000, 0]) 2

theorem test_vadd_wraps : next (.vadd ⟨2, 0, 0, 0, 3, 1⟩) ints (fun t => code t 3 0 == 200 && code t 3 1 == 144 && code t 3 3 == 7) = true := by decide
theorem test_vaddSat_clamps : next (.vaddSat ⟨2, 0, 0, 0, 3, 1⟩) ints (fun t => code t 3 0 == 127 && code t 3 1 == 144) = true := by decide
theorem test_vsub_governed : next (.vsub ⟨2, 0, 0, 1, 3, 1⟩) (State.pg ints 1 4) (fun t => code t 3 0 == 7 && code t 3 2 == 254) = true := by decide
theorem test_vfma : next (.vfma ⟨2, 0, 0, 0, 3, 1⟩) floats (fun t => code t 3 0 == 0x40800000) = true := by decide
theorem test_vcmp_unordered : next (.vcmpLt ⟨2, 0, 0, 0, 4, 1⟩) floats (fun t => t.pred 4 % 4 == 1 && t.hart.fp.fflags == flagNV) = true := by decide
theorem test_vredsum : next (.vredsum ⟨2, 0, 0, 0, 3, 1⟩) ints (fun t => code t 3 0 == 147 && code t 3 1 == 7) = true := by decide
theorem test_vcompress : next (.vcompress ⟨0, 0, 0, 1, 3, 1⟩) (State.pg ints 1 6) (fun t => code t 3 0 == 200 && code t 3 1 == 3 && code t 3 2 == 7) = true := by
  decide
theorem test_vslup_keeps : next (.vslup ⟨5, 0, 0, 0, 3, 1⟩) (ints.setX 5 1) (fun t => code t 3 0 == 7 && code t 3 1 == 100 && code t 3 2 == 200) = true := by
  decide
theorem test_vext_signed : next (.vext ⟨5, 0, 0, 0, 3, 1⟩) (ints.setX 5 1) (fun t => t.getX 3 == 0xFFFFFFFFFFFFFFC8) = true := by decide
theorem test_vscan : next (.vscan ⟨5, 0, 0, 0, 3, 1⟩) ((State.reg ints 1 .int8 [1, 2, 3]).setX 5 10) (fun t => code t 3 0 == 11 && code t 3 2 == 16 && t.getX 5 == 16) = true := by
  decide
/-- The worked example of R161. -/
theorem test_vrenorm : next (.vrenorm ⟨0, 0, 0, 0, 3, 1⟩) (State.vl (State.reg (State.reg start 3 .fp32 [0x42200000]) 1 .e8m0 [127]) 1)
    (fun t => code t 3 0 == 0x3FA00000 && code t 1 0 == 132) = true := by decide
theorem test_bound_length : halts (.vadd ⟨2, 0, 0, 0, 3, 1⟩) (State.vl floats 4097) 0x0001 = true := by decide
theorem test_pbrk : next (.pbrk ⟨0, 0, 3, 1⟩) (State.pg (State.vl start 6) 1 0b101000) (fun t => t.pred 3 % 64 == 0b001111) = true := by decide
theorem test_pcnt : next (.pcnt ⟨0, 5, 1⟩) (State.pg (State.vl start 5) 1 0b110101) (fun t => t.getX 5 == 3) = true := by decide
theorem test_vst_then_bytes : next (.vst ⟨0, 0, 0, 0, 1, 5⟩) ((State.vl ints 1).setX 5 0x10100) (fun t => t.bytesAt 0 0x10100 2 == [100, 0]) = true := by decide
/-- The Tarn ends at offset 0xF00000 (R169): element 2 of three 4-byte elements lies past it. -/
theorem test_vldTr_trims : next (.vldTr ⟨0, 0, 0, 0, 1, 5⟩) ((State.vl floats 3).setX 5 0x7F0000EFFFF8) (fun t => t.hart.vec.vl == 2) = true := by decide
theorem test_vld_faults : halts (.vldO ⟨0, 0, 0, 0, 1, 5⟩) ((State.vl floats 3).setX 5 0x7F0000EFFFF8) 0x0006 = true := by decide
theorem test_setvl : next (.setvl 3 1 2 false 0) (two 5000 0) (fun t => t.getX 3 == 4096 && t.hart.vec.vl == 4096) = true ∧
    next (.setvl 3 1 2 true 2) (two 5000 8) (fun t => t.getX 3 == 8) = true := by decide
theorem test_vcfg_zeroes : next (.vcfg 1 4 false false 0) ints (fun t => t.image 1 == [] && (t.tagOf 1).tag == .int8) = true := by decide

def grid : State := (State.reg (State.reg start 1 .bf16 [0x4000, 0x4040]) 2 .bf16 [0x3F80, 0xC000]).setMat
  { start.hart.mat with m := true, rows := 2, cols := 2 }
def opaPlain : OpaArgs := ⟨0, 0, false, false, false, 2, 0, 0, 0, 0, 1⟩

theorem test_opa : next (.opa opaPlain) grid (fun t => t.hart.mat.x false 0 0 == 2 ^ 49 && t.hart.mat.x false 1 1 == -6 * 2 ^ 48 && t.hart.mat.nz false) = true := by decide
theorem test_opa_outside_mode : halts (.opa opaPlain) start 0x0001 = true := by decide
theorem test_mstart : next (.mstart 31 255 0) start (fun t => t.hart.mat.m && t.hart.mat.rows == 32 && t.hart.vec.vl == 256) = true := by decide
theorem test_anchor_nonzero : halts (.anchor false true 40 0) (grid.setMat { grid.hart.mat with nz0 := true }) 0x0001 = true := by decide

/-- A frame for every id a program may perform. -/
def framed : State := start.setEff { start.hart.eff with depth := 1, srch := 1, pushes := 1,
                                                          frames := [⟨1, 1, 0xFFFF, 0, 0x10080, false, 7, 0x10040, 0x5000⟩] }

theorem test_illegal_enters : next .mstop framed (fun t => t.hart.pc == 0x10080 && t.getX 9 == 1 && t.hart.eff.srch == 0) = true := by decide
theorem test_perform_argument : next (.perform 3 1 2) ((framed.setX 1 0x100).setX 2 55) (fun t => t.getX 10 == 55 && t.getX 8 == 0x100000000) = true := by decide
theorem test_perform_reserved : next (.perform 3 1 2) (framed.setX 1 0x10) (fun t => t.getX 9 == 1) = true := by decide
theorem test_hpush : next (.hpush 7 1 2) ((start.setX 1 0x0100FFFF).setX 2 0x10080) (fun _ => true) = true ∧
    halts (.hpush 7 1 2) (start.setX 1 0x0100FFFF) 0x0001 = true := by decide

/-- The state in the handler of a `perform`, with the token in x8. -/
def handling : State := framed.perform 3 0x100 55 4

theorem test_resume : next (.resume 8 1) ({ handling with mem := start.mem }.setX 1 99) (fun t => t.getX 3 == 99 && t.hart.pc == 0x10004 && t.hart.eff.srch == 1) = true := by decide
theorem test_resume_twice : halts (.resume 8 1) (handling.setX 8 0) 0x000C = true := by decide
theorem test_abort : next (.abort 8 1) (handling.setX 1 99) (fun t => t.getX 7 == 99 && t.getX 2 == 0x5000 && t.hart.pc == 0x10040 && t.hart.eff.depth == 0) = true := by
  decide
theorem test_hpop : next .hpop framed (fun t => t.hart.eff.depth == 0 && t.hart.pc == 0x10004) = true := by decide
/-! ### Witnesses of hypotheses: states that meet them together -/

/-- The invariant of a hart, as a test. -/
def tidy (h : Hart) : Bool :=
  decide (∀ r : Reg, Sparse.wf 0#8 (h.vec.regs[r.toNat]'(r.isLt)) = true) && Sparse.wf (0 : Int) h.mat.acc0 && Sparse.wf (0 : Int) h.mat.acc1 &&
  decide (h.mat.cols ≤ 256) && decide (h.id.core < 32) && decide (h.eff.hsp.toNat % 32 = 0) &&
  decide (∀ r : Reg, (let t := h.vec.tags[r.toNat]'(r.isLt); tagEntryWf r t.tag.code t.s t.b t.vsc) = true)

theorem tidy_hart (h : Hart) (c : tidy h = true) : h.Tidy := by
  simp only [tidy, Bool.and_eq_true, decide_eq_true_eq] at c
  obtain ⟨⟨⟨⟨⟨⟨a, b⟩, c⟩, d⟩, e⟩, f⟩, g⟩ := c
  exact ⟨a, b, c, d, e, f, g⟩

theorem inv_of (s : State) (c : (Memory.wf s.mem && (s.hart :: s.others ++ s.waits.map Pend.before).all tidy) = true) : s.Inv := by
  simp only [Bool.and_eq_true, List.all_eq_true] at c
  exact ⟨c.1, tidy_hart _ (c.2 _ (by simp)), fun h m => tidy_hart _ (c.2 h (by simp [m])),
    fun p m => tidy_hart _ (c.2 p.before (List.mem_append_right _ (List.mem_map_of_mem m)))⟩
theorem start_inv : start.Inv := inv_of _ (by decide)

/-- With one element below VL, only element 0 is performed. -/
theorem hit_zero (s : State) (act : Mask) (e : Nat) (v : s.hart.vec.vl = 1) (h : Hit s act e) : e = 0 := by
  have := h.2.1
  omega

def data : State := two 0x10100 77
def odd : State := two 0x10101 77
def sup : State := start.setPriv { start.hart.priv with sup := true }
def strict : State := data.setPriv { start.hart.priv with det := true }

theorem data_inv : data.Inv := inv_of _ (by decide)
theorem strict_inv : strict.Inv := inv_of _ (by decide)

theorem settled_of (s : State) (h : Calm s) (a : ∀ d < 4, (s.die d).outbound = []) : Settled s :=
  ⟨h, fun d => by
    have e : s.die d = s.die (d % 4) := by unfold State.die; simp
    rw [e]; exact a _ (Nat.mod_lt d (by decide))⟩

theorem data_calm : Calm data := ⟨by decide, by decide⟩
theorem data_settled : Settled data := settled_of _ data_calm (by decide)

theorem test_witness_registers : start.hart.cond ≠ .vacant ∧ data.hart.cond ≠ .vacant ∧ data.getX 2 ≠ 0 ∧ (two 1 0).getX 2 = 0 := by decide
theorem test_witness_transfers : data.hart.cond ≠ .vacant ∧ (data.getX 1).toNat % 2 = 0 ∧ odd.hart.cond ≠ .vacant ∧ (odd.getX 1).toNat % 2 = 1 := by decide
def looping (n0 n1 : Word) : Hart :=
  { start.hart with loop0 := { Loop.idle with count := n0, armed := 0x10004 }, loop1 := { Loop.idle with count := n1, armed := 0x10004 } }
theorem test_witness_loops : (looping 0 0).loop0.count = 0 ∧ (looping 0 0).loop1.count = 0 ∧
    (looping 0 2).loop1.close = false ∧ (looping 0 2).loop1.armed = 0x10004 ∧ 1 < (looping 0 2).loop1.count.toNat ∧
    (looping 1 0).loop1.count = 0 ∧ (looping 1 0).loop0.close = false ∧ (looping 1 0).loop0.armed = 0x10004 ∧ (looping 1 0).loop0.count = 1 := by decide
theorem test_witness_loads : data.hart.cond ≠ .vacant ∧ data.scalarSpot .load (data.getX 1) 8 = .ok 0x10100 ∧ Calm data ∧
    odd.hart.cond ≠ .vacant ∧ odd.scalarSpot .load (odd.getX 1) 8 = .error ⟨0x0003, 0x10101, 0x4000000000000000, 0, false⟩ :=
  ⟨by decide, by decide, data_calm, by decide, by decide⟩
theorem test_witness_stores : data.hart.cond ≠ .vacant ∧ data.Inv ∧ data.scalarSpot .store (data.getX 1) 8 = .ok 0x10100 ∧ Calm data ∧
    (∀ j < 8, Shown data (0x10100 + j)) ∧ ∀ j < 8, outboundByte (data.die data.dieOf).outbound (0x10100 + j) = none :=
  ⟨by decide, data_inv, by decide, data_calm, fun j hj => .inl (by omega), by decide⟩
theorem test_witness_addresses : odd.getX 1 = 0x10101 ∧ (0x10101 : Word).toNat % 2 ≠ 0 ∧ start.scalarSpot .load 0x10100 8 = .ok 0x10100 ∧
    2 ^ 56 ≤ (0x0100000000000000 : Word).toNat ∧
    (0x7F0000EFFFFF : Word).toNat / 2 ^ 40 = 0x7F ∧ (0x7F0000EFFFFF : Word).toNat % 2 ^ 40 < 0xF00000 ∧
    (0x7F010003FFFF : Word).toNat / 2 ^ 40 = 0x7F ∧ 0x100000000 ≤ (0x7F010003FFFF : Word).toNat % 2 ^ 40 ∧ (0x7F010003FFFF : Word).toNat % 2 ^ 40 < 0x100040000 ∧
    (0x7F0000F00000 : Word).toNat / 2 ^ 40 = 0x7F ∧ 0xF00000 ≤ (0x7F0000F00000 : Word).toNat % 2 ^ 40 ∧ (0x7F0000F00000 : Word).toNat % 2 ^ 40 < 0x100000000 := by
  decide
theorem test_witness_atomics : data.hart.cond ≠ .vacant ∧ data.Inv ∧ data.hart.priv.det = false ∧ data.scalarSpot .atomic (data.getX 1) 8 = .ok 0x10100 ∧
    data.scalarSpot .atomic (data.getX 1) 16 = .ok 0x10100 ∧ Settled data ∧ (∀ j < 16, Shown data (0x10100 + j)) ∧
    strict.hart.cond ≠ .vacant ∧ strict.Inv ∧ strict.hart.priv.det = true :=
  ⟨by decide, data_inv, by decide, by decide, by decide, data_settled, fun j hj => .inl (by omega), by decide, strict_inv, by decide⟩
/-- Two stores held back: a plain one of the scalar stream, and a release of the vector's other byte. -/
def holdsBack (rel : Option (BitVec 3)) : State :=
  (State.setOrder { data with loose := true } ⟨[⟨false, 0x10100, [1], none, false, false, false, none, 0, 0⟩, ⟨false, 0x10108, [2], rel, false, false, false, none, 0, 0⟩], [], [], 0⟩)
theorem test_witness_controlPins : (∀ n ∈ [0x000, 0x001, 0x002, 0x003, 0x005, 0x010, 0x011, 0x012, 0x030, 0x031, 0x032, 0x033, 0x058, 0x059, 0x05A, 0x060,
    0x061, 0x062, 0x063, 0x064], crnAssigned (BitVec.ofNat 12 n) = true) ∧ start.crLegal 0x001 1 = true ∧ start.crLegal 0x001 4 = true ∧
    start.crLegal 0x001 0 = false ∧ start.crLegal 0x002 16384 = true ∧ start.crLegal 0x002 16385 = false ∧ start.hart.id.lanes = 4 := by decide
theorem test_witness_heldStores : (holdsBack none).hart.order.stores = [⟨false, 0x10100, [1], none, false, false, false, none, 0, 0⟩] ++ [⟨false, 0x10108, [2], none, false, false, false, none, 0, 0⟩] ∧
    (holdsBack (some 2)).hart.order.stores[1]? = some ⟨false, 0x10108, [2], some 2, false, false, false, none, 0, 0⟩ ∧
    ((holdsBack none).hart.order.stores.take 1).all (fun g => !g.precedes ⟨false, 0x10108, [2], none, false, false, false, none, 0, 0⟩) = true ∧
    (holdsBack none).loose = true ∧ (holdsBack none).hart.cond ≠ .vacant := by decide
theorem test_witness_heldOverlaps : ∃ (s : State) (g h : HeldStore), s.hart.order.stores[0]? = some g ∧ s.hart.order.stores[1]? = some h ∧ g.vec = h.vec ∧
    g.epoch < h.epoch ∧ Span g.key g.bytes.length 0x10100 ∧ Span h.key h.bytes.length 0x10100 :=
  ⟨State.setOrder data ⟨[⟨false, 0x10100, [1], none, false, false, false, none, 0, 0⟩, ⟨false, 0x10100, [2], none, false, false, false, none, 1, 0⟩], [], [], 1⟩, _, _, rfl, rfl, rfl,
    by decide, ⟨by decide, by decide⟩, ⟨by decide, by decide⟩⟩
theorem test_witness_fences : start.hart.cond ≠ .vacant ∧ start.hart.priv.sup = false ∧ sup.hart.cond ≠ .vacant ∧ sup.hart.priv.sup = true ∧
    (3 : BitVec 4).getLsbD 1 = true ∧ (3 : BitVec 4).getLsbD 0 = true ∧ 4 ≤ (4 : BitVec 3).toNat ∧ (3 : BitVec 3).toNat < 4 := by decide
theorem test_witness_controlReads : start.hart.cond ≠ .vacant ∧ crnAssigned 0x050 = true ∧ (crSupervisor 0x040 && !start.hart.priv.sup) = true ∧
    crnAssigned 0x040 = true ∧ (crSupervisor 0x000 && !start.hart.priv.sup) = false := by decide
theorem test_witness_controlWrites : start.hart.cond ≠ .vacant ∧ start.Inv ∧ crnAssigned 0x000 = true ∧ crSupervisorWrite 0 = false ∧ crReadOnly 0 = false ∧
    (3 : Word) &&& ~~~(crBits 0) = 0 ∧ start.crLegal 0 3 = true ∧ crSupervisorWrite 0x050 = true ∧ start.hart.priv.sup = false ∧
    crReadOnly 0x030 = true ∧ (1 : Reg) ≠ 0#5 :=
  ⟨by decide, start_inv, by decide⟩
def three : VArgs := ⟨2, 0, 0, 0, 3, 1⟩
def unary : VArgs := ⟨0, 0, 0, 0, 3, 1⟩
def scaled : VArgs := ⟨5, 0, 0, 0, 3, 1⟩

theorem ints_inv : ints.Inv := inv_of _ (by decide)
theorem floats_inv : floats.Inv := inv_of _ (by decide)

/-- A 32-bit form is admitted as it stands where its checks pass and no register is bound. -/
theorem admitted (s : State) (op : VOp) (a : VArgs) (h : s.hart.eng.bindings = [])
    (c : s.vectorChecks (opShape op a s).reads (opShape op a s).writes ((s.gov a.pg).pg :: (opShape op a s).preds) (opShape op a s).legal = none) :
    VecForm s (op.instr a) op a (s.gov a.pg) ∧ Admitted s s op a (s.gov a.pg) :=
  ⟨.inl ⟨rfl, rfl⟩, c, by simp [State.readBindings, h, State.takeStrips]⟩

def halves : State := State.reg ints 2 .nat32 [1, 2, 3]
def moved : State := ints.setX 5 1
def renormed : State := State.reg floats 1 .e8m0 [127]
def fixed : State := State.reg (State.reg (State.reg ints 1 .fx96 [1]) 2 .fx96 [2]) 3 .fx96 [3]
/-- Register 3 in e4m3 with its sidecar in register 9. -/
def blocked : State :=
  (State.reg floats 9 .e8m0 [127]).setVec { (State.reg floats 9 .e8m0 [127]).hart.vec with tags := (State.reg floats 9 .e8m0 [127]).hart.vec.tags.setIfInBounds 3 ⟨.e4m3, true, false, 9⟩ }

theorem test_witness_vectorArithmetic : floats.hart.cond ≠ .vacant ∧ floats.Inv ∧
    VecForm floats (.vfma three) .vfma three (floats.gov 0) ∧ Admitted floats floats .vfma three (floats.gov 0) :=
  ⟨by decide, floats_inv, admitted floats .vfma three rfl (by decide)⟩
theorem test_witness_vectorArithmetic_wide : VecForm floats (.wideVectorForm ⟨48, 1, 0⟩ (.vec .vadd three)) .vadd three (floats.govWide ⟨48, 1, 0⟩) ∧
    Admitted floats floats .vadd three (floats.govWide ⟨48, 1, 0⟩) :=
  ⟨.inr ⟨⟨48, 1, 0⟩, rfl, rfl⟩, by decide, rfl⟩
theorem test_witness_vectorFunctions : ints.hart.cond ≠ .vacant ∧ ints.Inv ∧ VecForm ints (.vpopc unary) .vpopc unary (ints.gov 0) ∧
    Admitted ints ints .vpopc unary (ints.gov 0) :=
  ⟨by decide, ints_inv, admitted ints .vpopc unary rfl (by decide)⟩
theorem test_witness_vectorCodes : halves.hart.cond ≠ .vacant ∧ halves.Inv ∧ VecForm halves (.vsll three) .vsll three (halves.gov 0) ∧
    Admitted halves halves .vsll three (halves.gov 0) :=
  ⟨by decide, inv_of _ (by decide), admitted halves .vsll three rfl (by decide)⟩
theorem test_witness_vectorComparisons : floats.hart.cond ≠ .vacant ∧ VecForm floats (.vcmpLt three) .vcmpLt three (floats.gov 0) ∧
    Admitted floats floats .vcmpLt three (floats.gov 0) :=
  ⟨by decide, admitted floats .vcmpLt three rfl (by decide)⟩
theorem test_witness_vsel : VecForm floats (.vsel three) .vsel three (floats.gov 0) ∧ Admitted floats floats .vsel three (floats.gov 0) ∧
    (floats.tagOf three.vd).tag ≠ .fx96 :=
  ⟨.inl ⟨rfl, rfl⟩, (admitted floats .vsel three rfl (by decide)).2, by decide⟩
theorem test_witness_vsel_fixed : fixed.hart.cond ≠ .vacant ∧ fixed.Inv ∧ VecForm fixed (.vsel three) .vsel three (fixed.gov 0) ∧
    Admitted fixed fixed .vsel three (fixed.gov 0) ∧ (fixed.tagOf three.vd).tag = .fx96 :=
  ⟨by decide, inv_of _ (by decide), .inl ⟨rfl, rfl⟩, (admitted fixed .vsel three rfl (by decide)).2, by decide⟩
theorem test_witness_vectorMoves : moved.hart.cond ≠ .vacant ∧ moved.Inv ∧
    (VecForm moved (.vslup scaled) .vslup scaled (moved.gov 0) ∧ Admitted moved moved .vslup scaled (moved.gov 0)) ∧
    (VecForm moved (.vext scaled) .vext scaled (moved.gov 0) ∧ Admitted moved moved .vext scaled (moved.gov 0)) ∧
    (VecForm moved (.vins scaled) .vins scaled (moved.gov 0) ∧ Admitted moved moved .vins scaled (moved.gov 0)) :=
  ⟨by decide, inv_of _ (by decide), admitted moved .vslup scaled rfl (by decide), admitted moved .vext scaled rfl (by decide),
    admitted moved .vins scaled rfl (by decide)⟩
theorem test_witness_immediateSplat : floats.hart.cond ≠ .vacant ∧ floats.Inv ∧
    floats.vectorChecks [] [3] [(floats.govWide ⟨0, 0, 0x10000⟩).pg] ((floats.tagOf 3).tag != .fx96) = none := ⟨by decide, floats_inv, by decide⟩
theorem test_witness_vectorGathers : ints.hart.cond ≠ .vacant ∧ ints.Inv ∧ ints.hart.vec.vstart < ints.hart.vec.vl ∧
    (VecForm ints (.vcompress unary) .vcompress unary (ints.gov 0) ∧ Admitted ints ints .vcompress unary (ints.gov 0)) ∧
    (VecForm ints (.vredsum three) .vredsum three (ints.gov 0) ∧ Admitted ints ints .vredsum three (ints.gov 0)) :=
  ⟨by decide, ints_inv, by decide, admitted ints .vcompress unary rfl (by decide), admitted ints .vredsum three rfl (by decide)⟩
theorem test_witness_vcvtBlk : blocked.hart.cond ≠ .vacant ∧ blocked.Inv ∧
    (VecForm blocked (.vcvtBlk unary) .vcvtBlk unary (blocked.gov 0) ∧ Admitted blocked blocked .vcvtBlk unary (blocked.gov 0)) :=
  ⟨by decide, inv_of _ (by decide), admitted blocked .vcvtBlk unary rfl (by decide)⟩
theorem test_witness_vrenorm : renormed.hart.cond ≠ .vacant ∧ renormed.Inv ∧
    (VecForm renormed (.vrenorm unary) .vrenorm unary (renormed.gov 0) ∧ Admitted renormed renormed .vrenorm unary (renormed.gov 0)) :=
  ⟨by decide, inv_of _ (by decide), admitted renormed .vrenorm unary rfl (by decide)⟩
theorem test_witness_vectorScans : moved.hart.cond ≠ .vacant ∧ moved.Inv ∧
    (VecForm moved (.vscanLin scaled) .vscanLin scaled (moved.gov 0) ∧ Admitted moved moved .vscanLin scaled (moved.gov 0)) ∧
    Hit moved (moved.gov 0).act 0 :=
  ⟨by decide, inv_of _ (by decide), admitted moved .vscanLin scaled rfl (by decide), by decide, by decide, by decide⟩
/-- Register 2 is absent. -/
def absent : State := floats.setVec { floats.hart.vec with present := 0xFFFFFFFB }
theorem test_witness_vectorChecks : VecForm floats (.vand three) .vand three (floats.gov 0) ∧ (opShape .vadd three fixed).legal = false ∧
    VecForm absent (.vadd three) .vadd three (absent.gov 0) ∧
    absent.vectorChecks (opShape .vadd three absent).reads (opShape .vadd three absent).writes [] (opShape .vadd three absent).legal ≠ some absent.illegal ∧
    BitVec.ofNat 5 2 ∈ absent.withSidecars ((opShape .vadd three absent).reads ++ (opShape .vadd three absent).writes) ∧
    absent.hart.vec.present.getLsbD 2 = false ∧
    ∀ k < 2, BitVec.ofNat 5 k ∈ absent.withSidecars ((opShape .vadd three absent).reads ++ (opShape .vadd three absent).writes) →
      absent.hart.vec.present.getLsbD k = true :=
  ⟨.inl ⟨rfl, rfl⟩, by decide, .inl ⟨rfl, rfl⟩, by decide⟩
theorem test_witness_presence : floats.absent [1, 2] [3] [false] = none ∧
    absent.absent [1, 2] [] [] = some ⟨0x0008, 2, 0, 0, false⟩ ∧ (3 : Nat) < 51 := by decide
theorem test_witness_registerTags : ints.hart.cond ≠ .vacant ∧ Tag.ofCode 4 = some .int8 ∧
    (ints.bindingOf 3 = none ∧ (renormed.tagOf 1).tag = .e8m0) ∧
    (renormed.hart.vec.present.getLsbD (3 : Reg).toNat = true ∧ renormed.hart.vec.present.getLsbD (1 : Reg).toNat = true) ∧
    ¬(ints.bindingOf 1 = none ∧ (ints.tagOf 2).tag = .e8m0) := by decide

/-- Two members after the pair's word: `vsub` into register 3, and `vadd` into register 4 from register `r`. -/
def paired (r : Nat) : State :=
  { ints with mem := Sparse.setList 0 (Sparse.setList 0 ints.mem 0x10004 (natLe 4 0x10016461)) 0x10008 (natLe 4 (0x10006480 + r)) }
def memberA : Member := ⟨.vsub, three, 0, 4, 0x10016461, 0⟩
def memberB (r : Nat) : Member := ⟨.vadd, ⟨2, 0, 0, 0, 4, BitVec.ofNat 5 r⟩, 0, 4, BitVec.ofNat 32 (0x10006480 + r), 0⟩

theorem test_witness_pairResults : (paired 1).fetchCode ((paired 1).hart.pc + BitVec.ofNat 64 ((paired 1).gov 0).len) = .ok (0x10016461, 0, 4) ∧
    (paired 1).fetchCode ((paired 1).hart.pc + BitVec.ofNat 64 ((paired 1).gov 0).len + BitVec.ofNat 64 4) = .ok (0x10006481, 0, 4) ∧
    memberOf 0x10016461 0 4 = some memberA ∧ memberOf 0x10006481 0 4 = some (memberB 1) ∧
    (paired 1).memberHazard memberA (memberB 1) = false ∧ (paired 1).memberLegal memberA = true ∧ (paired 1).memberLegal (memberB 1) = true ∧
    (paired 1).absent ((paired 1).withSidecars ([1, 2] ++ [1, 2] ++ [3, 4])) [0] [] = none := by decide
theorem test_witness_pairResults_strips : (paired 1).hart.cond ≠ .vacant ∧
    (paired 1).takeStrips ((paired 1).readBindings ((paired 1).withSidecars ([1, 2] ++ [1, 2]))) = .ok (paired 1) := ⟨by decide, rfl⟩
theorem test_witness_pairResults_hazard : (paired 3).fetchCode ((paired 3).hart.pc + 8) = .ok (0x10006483, 0, 4) ∧
    memberOf 0x10006483 0 4 = some (memberB 3) ∧ (paired 3).memberHazard memberA (memberB 3) = true := by decide

def bits : State := State.pg (State.vl start 6) 1 0b101000
theorem test_witness_predicates : PredForm bits (.pbrk ⟨0, 0, 3, 1⟩) .pbrk ⟨0, 0, 3, 1⟩ (bits.gov 0) ∧ (3 : BitVec 6).toNat < 48 ∧
    bits.absent [] ((bits.gov 0).pg :: (3 : BitVec 6).toNat :: predReads .pbrk ⟨0, 0, 3, 1⟩) [] = none ∧
    (Hit bits (bits.gov 0).act 3 ∧ (bits.pred 1).testBit 3 = true) ∧ (∀ e < 3, ¬(Hit bits (bits.gov 0).act e ∧ (bits.pred 1).testBit e = true)) ∧
    (∀ e, ¬(Hit bits (bits.gov 0).act e ∧ (bits.pred 2).testBit e = true)) :=
  ⟨.inl ⟨rfl, rfl⟩, by decide, by decide, ⟨⟨by decide, by decide, by decide⟩, by decide⟩,
    fun e h c => Bool.noConfusion (c.2.symm.trans ((by decide : ∀ e < 3, (bits.pred 1).testBit e = false) e h)), fun e c => by
    have : bits.pred 2 = 0 := by decide
    simp [this] at c⟩
theorem test_witness_counts : CountForm bits (.pcnt ⟨0, 5, 1⟩) .pcnt ⟨0, 5, 1⟩ (bits.gov 0) ∧ bits.absent [] [(bits.gov 0).pg, (1 : BitVec 6).toNat] [] = none :=
  ⟨.inl ⟨rfl, rfl⟩, by decide⟩

/-- One element of 4 bytes at 0x10100, under `vd` 1 and the address in register 5. -/
def lone : State := (State.vl floats 1).setX 5 0x10100
def unit : VArgs := ⟨0, 0, 0, 0, 1, 5⟩
theorem lone_inv : lone.Inv := inv_of _ (by decide)

theorem test_witness_vectorLoads : lone.hart.cond = .running ∧ MemFormOf lone (.vld unit) .vld unit (lone.gov 0) ∧ (memForm .vld).store = false ∧
    lone.hart.eff.underPf = false ∧ lone.stopAfter = 0 ∧ Calm lone ∧
    lone.takeStrips (lone.readBindings []) = .ok lone ∧
    lone.memChecks [] [1] [(lone.gov 0).pg] (lone.memLegal (memForm .vld) unit) = none ∧ (lone.tagOf 1).tag ≠ .e2m1 ∧
    (∀ e, Hit lone (lone.gov 0).act e → ∃ key, lone.elemSpot (memForm .vld) unit false e = .ok key) :=
  ⟨by decide, .inl ⟨rfl, rfl⟩, by decide, by decide, by decide, ⟨by decide, by decide⟩, rfl, by decide, by decide, fun e h => by
    rw [hit_zero _ _ e (by decide) h]; exact ⟨0x10100, by decide⟩⟩
theorem test_witness_vectorStores : MemFormOf lone (.vst unit) .vst unit (lone.gov 0) ∧ (memForm .vst).store = true ∧
    lone.takeStrips (lone.readBindings [1]) = .ok lone ∧
    lone.memChecks [1] [] [(lone.gov 0).pg] (lone.memLegal (memForm .vst) unit) = none ∧
    (∀ e, Hit lone (lone.gov 0).act e → ∃ key, lone.elemSpot (memForm .vst) unit false e = .ok key) ∧ Settled lone ∧
    (∀ j < 4, Shown lone (0x10100 + j)) ∧
    (∀ d key', Hit lone (lone.gov 0).act d → lone.elemSpot (memForm .vst) unit false d = .ok key' → d ≠ 0 → key' + 4 ≤ 0x10100) :=
  ⟨.inl ⟨rfl, rfl⟩, by decide, rfl, by decide, fun e h => by rw [hit_zero _ _ e (by decide) h]; exact ⟨0x10100, by decide⟩,
    settled_of _ ⟨by decide, by decide⟩ (by decide), fun j hj => .inl (by omega), fun d _ h _ n => absurd (hit_zero _ _ d (by decide) h) n⟩
/-- Two elements at the end of the Tarn, whose second lies past it (R169). -/
def brink : State := (State.vl floats 2).setX 5 0x7F0000EFFFFC
theorem test_witness_vectorFaults (op : MOp) (h : op = .vldTr ∨ op = .vldO) : MemFormOf brink (op.instr unit) op unit (brink.gov 0) ∧
    (memForm op).store = false ∧ (memForm op).stride ≠ .indexed ∧ Calm brink ∧ brink.hart.mat.m = false ∧
    brink.memChecks [] [1] [(brink.gov 0).pg] (brink.memLegal (memForm op) unit) = none ∧ (brink.tagOf 1).tag ≠ .e2m1 ∧
    Hit brink (brink.gov 0).act 1 ∧ (∃ tr, brink.elemSpot (memForm op) unit false 1 = .error tr) ∧ Hit brink (brink.gov 0).act 0 ∧
    (∃ key, brink.elemSpot (memForm op) unit false 0 = .ok key) ∧ (op = .vldTr → (memForm op).trim = true) ∧
    (op = .vldO → (memForm op).trim = false ∧ (memForm op).ordered = true) := by
  obtain rfl | rfl := h
  all_goals exact ⟨.inl ⟨rfl, rfl⟩, by decide, by decide, ⟨by decide, by decide⟩, by decide, by decide, by decide, ⟨by decide, by decide, by decide⟩, ⟨_, rfl⟩,
    ⟨by decide, by decide, by decide⟩, ⟨_, rfl⟩, by decide, by decide⟩
theorem test_witness_storeFaults : MemFormOf brink (.vst unit) .vst unit (brink.gov 0) ∧ (memForm .vst).store = true ∧ (memForm .vst).stride ≠ .indexed ∧
    Settled brink ∧ brink.memChecks [1] [] [(brink.gov 0).pg] (brink.memLegal (memForm .vst) unit) = none ∧
    brink.takeStrips (brink.readBindings [1]) = .ok brink ∧ Hit brink (brink.gov 0).act 1 ∧
    (∃ tr, brink.elemSpot (memForm .vst) unit ((memForm .vst).exact && brink.inReplay) 1 = .error tr) ∧ Hit brink (brink.gov 0).act 0 ∧
    brink.elemSpot (memForm .vst) unit ((memForm .vst).exact && brink.inReplay) 0 = .ok (2 ^ 60 + 0xEFFFFC) ∧ ∀ j < 4, Shown brink (2 ^ 60 + 0xEFFFFC + j) :=
  ⟨.inl ⟨rfl, rfl⟩, by decide, by decide, settled_of _ ⟨by decide, by decide⟩ (by decide), by decide, rfl, ⟨by decide, by decide, by decide⟩, ⟨_, rfl⟩,
    ⟨by decide, by decide, by decide⟩, by decide, fun j h => .inl (by omega)⟩
/-- Register 1 in e2m1, from the odd element 1 on. -/
def nibbles : State := (State.reg lone 1 .e2m1 [1, 2, 3]).setVec { (State.reg lone 1 .e2m1 [1, 2, 3]).hart.vec with vl := 3, vstart := 1 }
theorem test_witness_oddNibble : (nibbles.tagOf 1).tag = .e2m1 ∧ nibbles.hart.vec.vstart % 2 = 1 ∧ Hit nibbles (nibbles.gov 0).act 1 ∧ Calm nibbles ∧
    nibbles.memChecks [] [1] [(nibbles.gov 0).pg] (nibbles.memLegal (memForm .vld) unit) = none ∧
    nibbles.takeStrips (nibbles.readBindings []) = .ok nibbles :=
  ⟨by decide, by decide, ⟨by decide, by decide, by decide⟩, ⟨by decide, by decide⟩, by decide, rfl⟩
/-- As `brink`, by an index: its elements lie at x5 and x5 + 4. -/
def indexed (x : Word) (again : Bool) : State :=
  let s := (State.reg brink 2 .nat32 [0, 4]).setX 5 x
  if again then (s.setEff { s.hart.eff with underPf := true }).setVec { s.hart.vec with pf := 3 } else s
def gathering : VArgs := ⟨2, 0, 0, 0, 1, 5⟩
theorem test_witness_indexedFaults (again : Bool) : MemFormOf (indexed 0x7F0000EFFFFC again) (.vgather gathering) .vgather gathering ((indexed 0x7F0000EFFFFC again).gov 0) ∧
    (memForm .vgather).stride = .indexed ∧ (indexed 0x7F0000EFFFFC again).stopAfter = 0 ∧ Calm (indexed 0x7F0000EFFFFC again) ∧
    (indexed 0x7F0000EFFFFC again).memChecks [2] [1] [48] ((indexed 0x7F0000EFFFFC again).memLegal (memForm .vgather) gathering) = none ∧
    (indexed 0x7F0000EFFFFC again).takeStrips ((indexed 0x7F0000EFFFFC again).readBindings [2]) =
      .ok (indexed 0x7F0000EFFFFC again) ∧
    Hit (indexed 0x7F0000EFFFFC again) 3 1 ∧ Hit (indexed 0x7F0000EFFFFC again) 3 0 ∧
    (∃ tr, (indexed 0x7F0000EFFFFC again).elemSpot (memForm .vgather) gathering false 1 = .error tr) ∧
    (indexed 0x7F0000EFFFFC again).elemSpot (memForm .vgather) gathering false 0 = .ok (2 ^ 60 + 0xEFFFFC) ∧
    (∀ e < 2, ∃ key, (indexed 0x7F0000EF0000 again).elemSpot (memForm .vgather) gathering false e = .ok key) := by
  cases again
  all_goals exact ⟨.inl ⟨rfl, rfl⟩, by decide, by decide, ⟨by decide, by decide⟩, by decide, rfl, ⟨by decide, by decide, by decide⟩, ⟨by decide, by decide, by decide⟩,
    ⟨_, rfl⟩, by decide, fun e h => by
      match e, h with
      | 0, _ => exact ⟨_, rfl⟩
      | 1, _ => exact ⟨_, rfl⟩⟩
theorem test_witness_elementFaults : (lone.elemAddr (memForm .vld) unit 1).toNat % 4 = 0 ∧
    ((lone.setX 5 0x10101).elemAddr (memForm .vld) unit 0).toNat % 4 ≠ 0 ∧
    brink.resolve brink.vectorView .load (brink.elemAddr (memForm .vld) unit 1) = .error 0x0006 ∧
    lone.resolve lone.vectorView .load (lone.elemAddr (memForm .vld) unit 0) = .ok (.local 0x10100) ∧
    lone.memCode unit 0x10100 0 ≠ lone.codeOf unit.vd 0 := by decide

/-- The Tarn's address 0 in x1, where every unit of a spill lands. -/
def tarns : State := start.setX 1 0x7F0000000000
theorem tarns_units : ∀ u < 256, tarns.unitSpot .store (tarns.getX 1) u = .ok (2 ^ 60 + 64 * u) ∧
    tarns.unitSpot .load (tarns.getX 1) u = .ok (2 ^ 60 + 64 * u) := by decide
theorem test_witness_spillFillEvict : tarns.hart.cond ≠ .vacant ∧ tarns.Inv ∧ tarns.hart.vec.vstart = 0 ∧ (tarns.getX 1).toNat % 64 = 0 ∧
    tarns.lanes = 4 ∧ tarns.bindingOf 3 = none ∧ tarns.hart.vec.present.getLsbD 3 = true ∧ Settled tarns ∧
    (∀ u < 256, ∃ key, tarns.unitSpot .store (tarns.getX 1) u = .ok key) ∧ (∀ u < 256, ∃ key, tarns.unitSpot .load (tarns.getX 1) u = .ok key) ∧
    (∀ u v key key', u < v → v < 256 → tarns.unitSpot .store (tarns.getX 1) u = .ok key → tarns.unitSpot .store (tarns.getX 1) v = .ok key' →
      key + 64 ≤ key') ∧
    tarns.absent [] [3] [] = none ∧ tarns.reportsInto (fun n => n == 3) = false ∧ (∀ k, Shown tarns k) := by
  refine ⟨by decide, inv_of _ (by decide), by decide, by decide, by decide, by decide, by decide, settled_of _ ⟨by decide, by decide⟩ (by decide),
    fun u h => ⟨_, (tarns_units u h).1⟩, fun u h => ⟨_, (tarns_units u h).2⟩, fun u v key key' h h' a b => ?_, by decide, by decide,
    fun k => .inr (.inr (by decide))⟩
  rw [(tarns_units u (by omega)).1] at a
  rw [(tarns_units v h').1] at b
  injection a; injection b; omega
theorem test_witness_evictions : sup.hart.cond ≠ .vacant ∧ sup.hart.priv.sup = true ∧ start.hart.priv.sup = false ∧ start.absent [] [3] [] = none ∧
    sup.reportsInto (fun n => ((sup.getX 1).setWidth 51 &&& (0x4FFFFFFFFFFFE : BitVec 51)).getLsbD n) = false := by decide

theorem test_witness_matrixModes : start.hart.cond ≠ .vacant ∧ start.hart.mat.present = 3 ∧ 31 + 1 ≤ 8 * start.lanes ∧ 8 * start.lanes < 32 + 1 ∧
    grid.hart.mat.m = true ∧ start.hart.mat.m = false ∧ grid.hart.mat.present.getLsbD 0 = true ∧
    ((127 : BitVec 8) ≠ 0x80 ∧ (127 : BitVec 8) ≠ 0x81 ∧ grid.hart.mat.nz false = false) ∧
    ¬((0x80 : BitVec 8) ≠ 0x80) := by decide
theorem grid_inv : grid.Inv := inv_of _ (by decide)
theorem test_witness_outerProduct : grid.hart.cond ≠ .vacant ∧ grid.Inv ∧ grid.hart.mat.m = true ∧ (grid.tagOf 1).tag.rank = some 1 ∧
    (grid.tagOf 2).tag.rank = some 1 ∧ (grid.tagOf 1).sideOk = true ∧ (grid.tagOf 2).sideOk = true ∧ grid.sidecarsValid [1, 2] = true ∧
    grid.vlFits (grid.withSidecars [1, 2]) = true ∧ grid.stripsFit (grid.withSidecars [1]) (1 * grid.hart.mat.rows) = true ∧
    grid.stripsFit (grid.withSidecars [2]) (1 * grid.hart.mat.cols) = true ∧ grid.absent (grid.withSidecars [1, 2]) [0, 0] [false] = none ∧
    grid.takeStrips (grid.readBindings (grid.withSidecars [1, 2])) = .ok grid :=
  ⟨by decide, grid_inv, by decide, by decide, by decide, by decide, by decide, by decide, by decide, by decide, by decide, by decide, rfl⟩
/-- As `grid`, with registers 3 to 5 in fp32, fx96 and int32, and the Tarn's address 0 in x1. -/
def grid2 : State := (State.reg (State.reg (State.reg (State.vl grid 2) 3 .fp32 [0]) 4 .fx96 [0]) 5 .int32 [5, 7]).setX 1 0x7F0000000000
theorem grid2_inv : grid2.Inv := inv_of _ (by decide)
theorem test_witness_tileReads : grid2.hart.cond ≠ .vacant ∧ grid2.Inv ∧ grid2.hart.mat.m = true ∧ 1 < grid2.hart.mat.rows ∧
    (∀ r ∈ ([3, 4] : List Reg), grid2.writable (grid2.withSidecars [r]) = true ∧ grid2.vlFits (grid2.withSidecars [r]) = true ∧
      grid2.absent (grid2.withSidecars [r]) [0] [false] = none) ∧
    (grid2.tagOf 4).tag = .fx96 ∧ (grid2.tagOf 3).s = false ∧ (grid2.tagOf 3).tag ∈ [Tag.fp32, .bf16, .int32] ∧
    (grid2.tagOf 5).tag ≠ .fx96 ∧ grid2.sidecarsValid [5] = true ∧ grid2.vlFits (grid2.withSidecars [5]) = true ∧
    grid2.stripsFit (grid2.withSidecars [5]) 2 = true ∧ grid2.absent (grid2.withSidecars [5]) [0, 3] [false] = none ∧
    grid2.takeStrips (grid2.readBindings (grid2.withSidecars [5])) = .ok grid2 :=
  ⟨by decide, grid2_inv, by decide, by decide, by decide, by decide, by decide, by decide, by decide, by decide, by decide, by decide, by decide, rfl⟩
def works {α β : Type} : Except α β → Bool
  | .ok _ => true
  | .error _ => false
theorem landing {α β : Type} (x : Except α β) (h : works x = true) : ∃ l, x = .ok l := by
  cases x with
  | ok l => exact ⟨l, rfl⟩
  | error e => cases h
theorem test_witness_tileMemory : grid2.stopAfter = 0 ∧ grid2.hart.vec.vstart = 0 ∧ (grid2.getX 1).toNat % 16 = 0 ∧ grid2.hart.mat.present.getLsbD 0 = true ∧
    Calm grid2 ∧ (∀ i < 32, ∃ l, grid2.rowSpots .store (grid2.getX 1) 24 i = .ok l) ∧
    (∀ i < 32, ∃ l, grid2.rowSpots .store (grid2.getX 1) 12 i = .ok l) ∧ (∀ i < 32, ∃ l, grid2.rowSpots .load (grid2.getX 1) 24 i = .ok l) ∧
    -2 ^ 95 ≤ grid2.hart.mat.x false 0 0 ∧ grid2.hart.mat.x false 0 0 < 2 ^ 95 := by
  have c : ∀ i < 32, works (grid2.rowSpots .store (grid2.getX 1) 24 i) = true ∧ works (grid2.rowSpots .store (grid2.getX 1) 12 i) = true ∧
      works (grid2.rowSpots .load (grid2.getX 1) 24 i) = true := by decide
  exact ⟨by decide, by decide, by decide, by decide, ⟨by decide, by decide⟩, fun i h => landing _ (c i h).1, fun i h => landing _ (c i h).2.1,
    fun i h => landing _ (c i h).2.2, by decide, by decide⟩
/-- Pieces within row `i` of an image of `b` bytes for an element, in order. -/
def inRow (b i : Nat) (x : Except Trap (List (Nat × Nat))) : Bool :=
  match x with
  | .ok [p] => decide (2 ^ 60 + 256 * b * i ≤ p.1 ∧ p.1 + p.2 ≤ 2 ^ 60 + 256 * b * (i + 1))
  | .ok [p, q] => decide (2 ^ 60 + 256 * b * i ≤ p.1 ∧ p.1 + p.2 ≤ q.1 ∧ q.1 + q.2 ≤ 2 ^ 60 + 256 * b * (i + 1))
  | _ => false
theorem inRow_bounds {b i k : Nat} {l : List (Nat × Nat)} {p : Nat × Nat} (h : inRow b i (.ok l) = true) (m : l[k]? = some p) :
    2 ^ 60 + 256 * b * i ≤ p.1 ∧ p.1 + p.2 ≤ 2 ^ 60 + 256 * b * (i + 1) := by
  match l, h, k, m with
  | [q], h, 0, m => simp only [inRow, decide_eq_true_eq] at h; cases m; exact h
  | [q, r], h, 0, m => simp only [inRow, decide_eq_true_eq] at h; cases m; omega
  | [q, r], h, 1, m => simp only [inRow, decide_eq_true_eq] at h; cases m; omega
theorem inRow_apart {b i k k' : Nat} {l : List (Nat × Nat)} {p p' : Nat × Nat} (h : inRow b i (.ok l) = true) (m : l[k]? = some p)
    (m' : l[k']? = some p') (n : k ≠ k') : p.1 + p.2 ≤ p'.1 ∨ p'.1 + p'.2 ≤ p.1 := by
  match l, h, k, k', m, m', n with
  | [q], h, 0, 0, m, m', n => exact absurd rfl n
  | [q, r], h, 0, 0, m, m', n => exact absurd rfl n
  | [q, r], h, 1, 1, m, m', n => exact absurd rfl n
  | [q, r], h, 0, 1, m, m', n => simp only [inRow, decide_eq_true_eq] at h; cases m; cases m'; omega
  | [q, r], h, 1, 0, m, m', n => simp only [inRow, decide_eq_true_eq] at h; cases m; cases m'; omega
theorem test_witness_tileRowsApart (b : Nat) (hb : b = 24 ∨ b = 12) (i : Nat) (l : List (Nat × Nat)) (k : Nat) (p : Nat × Nat) (i' : Nat)
    (l' : List (Nat × Nat)) (k' : Nat) (p' : Nat × Nat) (hi : i < 32) (hi' : i' < 32) (h : grid2.rowSpots .store (grid2.getX 1) b i = .ok l)
    (m : l[k]? = some p) (h' : grid2.rowSpots .store (grid2.getX 1) b i' = .ok l') (m' : l'[k']? = some p') (n : (i, k) ≠ (i', k')) :
    p.1 + p.2 ≤ p'.1 ∨ p'.1 + p'.2 ≤ p.1 := by
  have c : ∀ i < 32, inRow b i (grid2.rowSpots .store (grid2.getX 1) b i) = true := by
    obtain rfl | rfl := hb
    all_goals decide
  have r := c i hi
  have r' := c i' hi'
  rw [h] at r
  rw [h'] at r'
  have e := inRow_bounds r m
  have e' := inRow_bounds r' m'
  by_cases j : i = i'
  · subst j
    have q : l = l' := by rw [h] at h'; injection h'
    subst q
    exact inRow_apart r m m' (fun z => n (by rw [z]))
  · obtain rfl | rfl := hb
    all_goals omega
/-! Two harts of one gang. -/

def mate (h : Hart) : Hart := { h with id := { h.id with slot := 1, rank := 1, first := 4 } }
def wait (w : Wait) (h : Hart) : Hart := { h with cond := .waiting w }
def duo : State := { start with others := [mate start.hart] }
def chained (s : State) (n : BitVec 63) : State :=
  { s with hart := { s.hart with chain := { s.hart.chain with en := true, src := 1 } },
           others := s.others.map (fun h => { h with chain := { h.chain with index := n } }) }
def grant : LengthRequest := ⟨0, 3, 1, 5000, 2 ^ 64 - 1⟩
def theGang : Gang := ⟨2, 1, 0, 0, [], [], []⟩

theorem test_witness_lengthGrants : grid.hart.mat.m = true ∧ (two 5000 8).hart.mat.m = false ∧ (two 5000 8).hart.chain.en = false ∧
    (chained duo 0).hart.chain.en = true ∧ (chained duo 0).published 2 1 = (0, false) ∧ (chained duo 9).published 2 1 = (9, false) ∧
    0 < 2 ^ 64 - 1 := by decide
/-- Both harts of the gang have issued `setvl.g`. -/
def agreed : State := { duo with gangs := [{ theGang with issued := [{ grant with rank := 1 }, grant] }] }
theorem test_witness_gangGrants : (two 5000 8).gang = some theGang ∧ (two 5000 8).hart.eff.ppend = false ∧
    (∃ v, (two 5000 8).lengthFor (two 5000 8).hart grant = some v) ∧ (two 5000 8).others = [] ∧
    agreed.gang = some { theGang with issued := [{ grant with rank := 1 }, grant] } ∧
    (∀ o ∈ agreed.others, o.cond ≠ .vacant ∧ o.id.gangKey = 2 ∧ o.preemptible = false ∧ agreed.lengthFor o { grant with rank := 1 } = some 5000) ∧
    (∃ o ∈ duo.others, o.cond ≠ .vacant ∧ o.id.gangKey = 2) ∧ duo.gang = some theGang := by
  refine ⟨by decide, by decide, ⟨5000, by decide⟩, by decide, by decide, by decide, ⟨_, List.mem_singleton.mpr rfl, by decide, by decide⟩, by decide⟩
theorem test_witness_waitingGrants :
    (∃ h, agreed.findHart agreed.args.hart = some h ∧
      agreed.gangs.find? (fun o => o.key == h.id.gangKey) = some { theGang with issued := [{ grant with rank := 1 }, grant] }) ∧
    (∀ o ∈ agreed.hart :: agreed.others, o.preemptible = false ∧ agreed.lengthFor o { grant with rank := o.id.rank } = some 5000) ∧
    (∃ (s f : State), s.focus s.args.hart = some f ∧ f.hart.cond = .waiting (.setvl grant) ∧ f.hart.eff.ppend = false ∧ f.hart.chain.en = false) ∧
    (∃ (s f : State), s.focus s.args.hart = some f ∧ f.hart.cond = .waiting (.setvl grant) ∧ f.hart.eff.ppend = false ∧ f.hart.chain.en = true ∧
      f.published 2 1 = (0, false) ∧ f.hart.chain.pos = 0) ∧
    (∃ h, ((chained duo 9).members 2).find? (fun h => h.id.rank == 1) = some h) ∧ (start.members 2).find? (fun h => h.id.rank == 1) = none ∧
    { theGang with ended := [(1, 4)] }.ended.find? (fun p => p.1 == 1) = some (1, 4) :=
  ⟨⟨_, rfl, by decide⟩, by decide,
    ⟨{ start with hart := wait (.setvl grant) start.hart }, { start with hart := wait (.setvl grant) start.hart }, by decide⟩,
    ⟨{ chained duo 0 with hart := wait (.setvl grant) (chained duo 0).hart }, { chained duo 0 with hart := wait (.setvl grant) (chained duo 0).hart },
      by decide⟩, ⟨_, rfl⟩, by decide, by decide⟩

/-- A supervisor beside a user's hart of slot 1 with 8 lanes. -/
def above : State := { duo with hart := sup.hart, others := duo.others.map (fun h => { h with id := { h.id with lanes := 8 } }) }
def asked : State := { above with others := above.others.map (fun h => { h with priv := { h.priv with reclaim := some 4 } }) }
theorem test_witness_lanes : above.hart.priv.sup = true ∧ above.findHart 1 = some (above.others.headD .vacant) ∧ above.findHart 7 = none ∧
    (above.others.headD .vacant).id.lanes = 8 ∧ (above.others.headD .vacant).priv.reclaim = none ∧
    asked.findHart 1 = some (asked.others.headD .vacant) ∧ (asked.others.headD .vacant).priv.reclaim.isSome = true ∧
    (∃ (s f : State) (v : Hart), s.hart.cond ≠ .vacant ∧ s.focus s.args.hart = some f ∧ f.hart.cond = .waiting (.lpartWt 3 1) ∧
      f.hart.eff.ppend = false ∧ f.findHart (8 * f.hart.id.core + (1 : Word).toNat) = some v ∧ v.priv.reclaim = none) :=
  ⟨by decide, by decide, by decide, by decide, by decide, by decide, by decide,
    ⟨{ above with hart := wait (.lpartWt 3 1) above.hart }, { above with hart := wait (.lpartWt 3 1) above.hart }, above.others.headD .vacant,
      by decide⟩⟩
def copying (pd : BitVec 6) : Transfer := ⟨9, .hart 0 pd, 0, 1, 0x100000, false, 0x10000, 0x10100, 64, 1024, false, 0, [0], [], [], [], [], [], 0⟩
/-- A hart with an instruction that waits in its queue. -/
def asided (a : Aside) (s : State) : State := { s with waits := [⟨s.hart.key, a, s.hart, false, none, s.ticks, []⟩] }
theorem test_witness_ends : Calm start ∧ start.streams = [] ∧ (asided (.fifo false 1 2) start).pends ≠ [] ∧ start.hasTransfers start.hart.key = false ∧ { start with transfers := [copying 3] }.hasTransfers start.hart.key = true ∧
    start.others = [] ∧ duo.gang = some theGang ∧ (∃ h ∈ duo.others, h.cond ≠ .vacant ∧ h.id.gangKey = 2) ∧ start.hart.eng.stream = none :=
  ⟨⟨by decide, by decide⟩, by decide, by decide, by decide, by decide, by decide, by decide, ⟨_, List.mem_singleton.mpr rfl, by decide, by decide⟩, by decide⟩

/-- The other member is at the barrier. -/
def last : State := { duo with others := duo.others.map (wait .bar), gangs := [{ theGang with arrived := 2 }] }
theorem test_witness_barrier : last.gang = some { theGang with arrived := 2 } ∧ last.hart.id.rank < 8 ∧ last.hart.eff.ppend = false ∧
    (∀ h ∈ last.others, h.cond ≠ .vacant → h.id.gangKey = 2 → (2 : BitVec 8).getLsbD h.id.rank = true ∧ h.preemptible = false) ∧
    duo.gang = some theGang ∧ Calm duo ∧ (∃ h ∈ duo.others, h.cond ≠ .vacant ∧ h.id.gangKey = 2 ∧ h.id.rank < 8 ∧ h.id.rank ≠ 0 ∧
      theGang.arrived.getLsbD h.id.rank = false) :=
  ⟨by decide, by decide, by decide, by decide, by decide, ⟨by decide, by decide⟩, ⟨_, List.mem_singleton.mpr rfl, by decide⟩⟩
theorem test_witness_barrierComplete : ∃ (s : State) (h : Hart) (g : Gang), s.findHart s.args.hart = some h ∧
    s.gangs.find? (fun o => o.key == h.id.gangKey) = some g ∧ g.arrived ≠ 0 ∧
    (∀ o ∈ s.members h.id.gangKey, g.arrived.getLsbD o.id.rank = true ∧ o.preemptible = false) :=
  ⟨{ start with hart := wait .bar start.hart, gangs := [{ theGang with arrived := 1 }] }, wait .bar start.hart, { theGang with arrived := 1 },
    by decide⟩
/-- A job with the chunk from 3 to 10 undealt; `det` rounds to grains of 4. -/
def dealing (det : Bool) : State := { start with jobs := start.jobs.map (fun j => { j with
    card := { j.card with trips := 10, grain := 4, det := det }, shares := [⟨0, 3, 10, [], false, 10⟩] }) }
theorem test_witness_jnext (det : Bool) : (dealing det).hart.cond ≠ .vacant ∧ (dealing det).gang = some theGang ∧ theGang.chunks[0]? = none ∧
    { theGang with chunks := [(1, 2)] }.chunks[0]? = some (1, 2) ∧
    ∃ j h, (dealing det).findJob theGang.job = some j ∧ j.shares.find? (fun h => h.die == (dealing det).dieOf) = some h ∧ h.lo < h.hi ∧
      1 ≤ j.card.minchunk ∧ 1 ≤ j.card.grain ∧ j.card.det = det := by
  cases det <;> exact ⟨by decide, by decide, by decide, by decide, _, _, rfl, rfl, by decide⟩
theorem test_witness_jnext_over : ∃ j h, start.findJob theGang.job = some j ∧ j.shares.find? (fun h => h.die == start.dieOf) = some h ∧ h.hi ≤ h.lo ∧
    j.card.spread = false := ⟨_, _, rfl, rfl, by decide, by decide⟩

/-! The stream engine. -/

/-- A record of a plain copy of 64 bytes at 0x10200, from 0x10000 to 0x10100, its address in x2. -/
def record : State := { ((start.setX 1 0x10000).setX 3 0x10100).setX 2 0x10200 with mem := Sparse.setList 0 start.mem 0x10200 (natLe 8 64) }
/-- All sixteen channels of core 0 are in use. -/
def full : State := { record with transfers := List.replicate 16 (copying 3) }
theorem test_witness_copies : record.hart.cond = .running ∧ Calm record ∧ record.absent [] [3] [] = none ∧
    record.loadRecord (record.getX 2) 4 = .ok [64, 0, 0, 0] ∧ recordOk 64 0 0 0 (record.getX 1) (min 16384 record.bits) = true ∧
    record.channelFor 0 0 = true ∧ record.queueHeld 1 = false ∧ record.queueHeld 2 = false ∧
    full.loadRecord (full.getX 2) 4 = .ok [64, 0, 0, 0] ∧ full.channelFor 0 0 = false ∧ full.queueHeld 1 = false ∧
    (asided (.fifo false 1 2) record).queueHeld 1 = true ∧ recordOk 0 0 0 0 (record.getX 1) (min 16384 record.bits) = false ∧
    (∃ tr, record.loadRecord 0x80000 4 = .error tr) :=
  ⟨by decide, ⟨by decide, by decide⟩, by decide, by decide, by decide, by decide, by decide, by decide, by decide, by decide, by decide, by decide, by decide,
    ⟨_, rfl⟩⟩
def moving (more : List Nat) : State := { record with transfers := [{ copying 3 with pending := 0 :: more }], args := { record.args with item := 9 } }
theorem test_witness_chunks : (moving []).Inv ∧ (moving []).transfers.find? (fun t => t.key == (moving []).args.item) = some (copying 3) ∧
    piecesOf 0x10100 64 = [(0x10100, 64)] ∧ piecesOf 0x10000 64 = [(0x10000, 64)] ∧ (moving []).args.chunk ∈ (copying 3).pending ∧
    (moving []).resolve (copying 3).view .load 0x10000 = .ok (.local 0x10000) ∧ (moving []).resolve (copying 3).view .store 0x10100 = .ok (.local 0x10100) ∧
    (copying 3).chunkLen 0 = 64 ∧ (∀ j < 64, Shown (moving []) (0x10100 + j)) ∧ outboundByte ((moving []).die 0).outbound = outboundByte [] ∧
    (∃ k ∈ ({ copying 3 with pending := [0, 1] }).pending, k ≠ 0) ∧ ∀ d < 4, ((moving []).die d).outbound = [] :=
  ⟨inv_of _ (by decide), by decide, by decide, by decide, by decide, by decide, by decide, by decide, fun j h => .inl (by omega), rfl,
    ⟨1, by decide, by decide⟩, by decide⟩
/-- A source of one compressed chunk of 64 zeros. -/
def packed : State := { moving [] with mem := Sparse.setList 0 (Sparse.setList 0 (moving []).mem 0x10000 (natLe 4 0x31464243 ++ natLe 4 80 ++ natLe 4 64)) 0x10040
                                               (natLe 4 0x003F0001) }
def packing : Transfer := { copying 3 with cs := 65536, expand := true }
/-- A list of `n` entries at 0x10180. -/
def listed (n : Nat) : State := { moving [] with mem := Sparse.setList 0 (moving []).mem 0x10180 (natLe 8 (n * 2 ^ 32)) }
theorem test_witness_blockFormat : (0 ∉ packing.noHeader ∧ works (packed.sourceBytes packing 0x10000 64) = true ∧ works (packed.cbfHeader packing 0x10000 0) = true ∧
    works (moving [] |>.cbfHeader packing 0x10100 0) = false) ∧ ([1] : List Byte) ≠ [] ∧ (1 : Nat) ≠ 0 ∧ 0 < 2 ∧ ([1, 0] : List Byte).length % 2 = 0 := by decide
theorem test_witness_badChunks : (moving []).chunkData { copying 3 with src := 0x80000 } 0 = .error 3 ∧ packed.chunkData packing 0 = .ok (List.replicate 64 0) ∧
    packing.chunkLen 0 = 64 ∧ works ((moving []).chunkData { copying 3 with gaveUp := [0] } 0) = true ∧
    (∃ e, (moving []).resolve (copying 3).view .store 0x80000 = .error e) ∧ piecesOf 0x80000 64 = [(0x80000, 64)] ∧
    (listed 0).resolve (copying 3).view .atomic 0x10180 = .ok (.local 0x10180) ∧ leNat ((listed 0).bytesAt 0 0x10180 8) / 2 ^ 32 % 2 ^ 16 = 0 ∧
    leNat ((listed 1).bytesAt 0 0x10180 8) / 2 ^ 32 % 2 ^ 16 = 1 ∧ (listed 1).resolve (copying 3).view .store 0x10188 = .ok (.local 0x10188) :=
  ⟨by decide, by decide, by decide, by decide, ⟨_, rfl⟩, by decide⟩

/-- A binding record of 4 rows of 16 bytes at 0x10200, and VL 8. -/
def bindWords : List Word := [0x10000, 0, 0x400000010, 8, 128, 0, 0, 0]
def binder : State := { State.vl (start.setX 1 0x10200) 8 with mem := Sparse.setList 0 start.mem 0x10200 (bindWords.flatMap (wordLe 8)) }
def bound : Binding := ⟨5, BindRecord.ofWords bindWords, 8, 0, []⟩
def streaming : State := binder.setEng { binder.hart.eng with bindings := [bound] }
theorem test_witness_bindings : binder.hart.cond = .running ∧ Calm binder ∧ binder.sidecarsValid [5] = true ∧ binder.absent (binder.boundRegs 5) [] [] = none ∧
    binder.loadRecord (binder.getX 1) 8 = .ok bindWords ∧ (bindRecordOk bindWords && binder.bindOk 5 (BindRecord.ofWords bindWords)) = true ∧
    binder.channelFor 0 0 = true ∧ binder.queueHeld 1 = false ∧ (asided (.fifo false 1 2) binder).queueHeld 1 = true ∧
    (bindRecordOk bindWords && (State.vl binder 0).bindOk 5 (BindRecord.ofWords bindWords)) = false ∧
    binder.ownBinding 5 = none ∧ streaming.ownBinding 5 = some bound ∧ bound.nextStrip = some 0 ∧
    { streaming with args := { streaming.args with reg := 5 } }.focus 0 = some { streaming with args := { streaming.args with reg := 5 } } ∧
    { bound with ahead := [.data [1] [], .marked 1 0x10000] }.ahead.takeWhile (fun p : Strip => !p.isMarked) = [.data [1] []] :=
  ⟨by decide, ⟨by decide, by decide⟩, by decide⟩
theorem working {α β : Type} [Inhabited β] (f : Nat → Except α β) (n : Nat) (h : ∀ i < n, works (f i) = true) : ∃ g : Nat → β, ∀ i < n, f i = .ok (g i) :=
  ⟨fun i => match f i with
    | .ok p => p
    | .error _ => default, fun i hi => by
    have w := h i hi
    cases e : f i with
    | ok p => simp only [e]
    | error a => rw [e] at w; cases w⟩
theorem test_witness_fetchedStrips : (∃ g : Nat → Nat × Byte, ∀ i < 8, streaming.bindOne streaming.engineView bound.record (0 * 8 + i) = .ok (g i)) ∧
    min bound.sl (bound.record.rowlen * bound.record.nrows - 0 * bound.sl) = 8 ∧
    (∃ e, streaming.bindOne streaming.engineView { bound.record with base := 0x80000 } 0 = .error e) ∧
    Tag.ofCode { bound.record with tag := 4 }.tag = some .int8 ∧ Tag.memBits .int8 = 8 * 1 ∧ (8 * bound.record.base + bound.record.bitoff) % 8 = 0 ∧
    (∀ i < 1, works (streaming.engineByte streaming.engineView (BitVec.ofNat 64 (0x10000 + i))) = true) :=
  ⟨working _ 8 (by decide), by decide, ⟨_, rfl⟩, by decide⟩
def fifos (n : Int) (c : Condition) : State :=
  { start with hart := { start.hart with cond := c, eng := { start.hart.eng with fifos := Vector.replicate 16 n } } }
theorem test_witness_fifos : (fifos 15 .running).queueHeld 1 = false ∧ (fifos 15 .running).fifo 6 = 15 ∧ (fifos 16 .running).fifo 6 = 16 ∧ (fifos 0 .running).fifo 9 = 0 ∧
    (asided (.fifo true 1 2) start).queueHeld 1 = true ∧ (fifos 16 (.waiting (.fifo true 1 2))).hart.cond = .waiting (.fifo true 1 2) ∧ Calm (fifos 15 .running) ∧
    (∃ f, (fifos 15 (.waiting (.fifo true 1 2))).focus 0 = some f ∧ f.hart.eff.ppend = false ∧ f.queueHeld 1 = false ∧
      f.hart.cond = .waiting (.fifo true 1 2) ∧ f.fifo 6 < 16) ∧
    (∃ f, (fifos 1 (.waiting (.fifo false 1 2))).focus 0 = some f ∧ f.hart.eff.ppend = false ∧ f.queueHeld 1 = false ∧
      f.hart.cond = .waiting (.fifo false 1 2) ∧ 0 < f.fifo 9) ∧
    (∀ put : Bool, ∃ f, (asided (.fifo put 1 2) (fifos 1 .running)).focus 0 = some f ∧ f.hart.cond = .running ∧ f.pends = [⟨f.hart.key, .fifo put 1 2, f.hart, false, none, f.ticks, []⟩] ∧
      f.fifoReady put 1 2 = true) :=
  ⟨by decide, by decide, by decide, by decide, by decide, by decide, ⟨by decide, by decide⟩, ⟨_, rfl, by decide⟩,
    ⟨_, rfl, by decide⟩, fun put => ⟨_, rfl, rfl, rfl, by cases put <;> decide⟩⟩
theorem test_witness_channels (a : Aside) (h : a = .copy 3 0x10100 0x10000 64 0 false true ∨ a = .bind 5 (BindRecord.ofWords bindWords) 8) :
    ∃ f, (asided a start).focus 0 = some f ∧ f.hart.cond = .running ∧ Calm f ∧ f.channelFor 0 0 = true ∧ f.pends = [⟨f.hart.key, a, f.hart, false, none, f.ticks, []⟩] := by
  obtain rfl | rfl := h
  all_goals exact ⟨_, rfl, by decide, ⟨by decide, by decide⟩, by decide, rfl⟩
/-- Every link is down. -/
def unlinked (s : State) : State := { s with module := { s.module with links := s.module.links.map (fun l => { l with quarters := 0 }) } }
/-- Signal 7 of die 0 belongs to context 1 and holds `n`. -/
def signalled (n : Nat) (s : State) : State :=
  { s.setDie 0 { s.die 0 with signals := [(7, 1)] } with mem := Sparse.setList 0 s.mem (2 ^ 62 + 0x41000 + 56) (natLe 8 n) }
theorem test_witness_signals : (signalled 5 (two 7 5)).hart.cond ≠ .vacant ∧ (signalled 5 (two 7 5)).Inv ∧
    SysForm (signalled 5 (two 7 5)) (.qsig 1 2) (.qsig 1 2) (.qsig 2) 1 7 4 ∧ SysForm (signalled 5 (two 7 5)) (.qwait 1 2) (.qwait 1 2) (.qwait 2) 1 7 4 ∧
    (signalled 5 (two 7 5)).signalContext 7 = some (signalled 5 (two 7 5)).hart.id.ctx ∧ (signalled 5 (two 7 5)).signalContext 8 = none ∧
    ((signalled 5 (two 7 5)).getX 2).toNat ≤ leNat (Sparse.getList 0 (signalled 5 (two 7 5)).mem (2 ^ 62 + 0x41000 + 56) 8) ∧
    leNat (Sparse.getList 0 (signalled 4 (two 7 5)).mem (2 ^ 62 + 0x41000 + 56) 8) < ((signalled 4 (two 7 5)).getX 2).toNat ∧
    (∃ f, (signalled 5 { start with hart := wait (.qwait 7 5 4) start.hart }).focus 0 = some f ∧ f.hart.cond = .waiting (.qwait 7 5 4) ∧
      f.hart.eff.ppend = false ∧ f.signalContext 7 = some f.hart.id.ctx ∧ 5 ≤ leNat (Sparse.getList 0 f.mem (2 ^ 62 + 0x41000 + 56) 8)) :=
  ⟨by decide, inv_of _ (by decide), .inl ⟨rfl, by decide, rfl⟩, .inl ⟨rfl, by decide, rfl⟩, by decide, by decide, by decide, by decide,
    ⟨_, rfl, by decide⟩⟩
/-! The snapshot ladder. -/

/-- A stream of two blocks at 0x18000, with its log of five tokens at 0x1C000; no hart has it bound. -/
def idle : Stream := ⟨0, 1, 0x100000, 2, 0, [(0x18000, 2)], 0x1C000, 5, [0x1E000], 0, 0, 0, 0, 0, false, [], [], 0, false, [], [], [], none⟩
/-- Bound once, at position 2 of 2 with cairns at 0 and 2. -/
def bound2 : Stream := { idle with lpos := 2, llen := 2, bound := 1, cairns := [⟨0, [4, 8]⟩, ⟨2, [12, 16]⟩], pages := [(1, 0x10000)] }
def laddered (t : Stream) : State := (State.setEng { two 2 0x10200 with streams := [t] } { start.hart.eng with stream := some 0 })
def ladder : State := laddered bound2
def restore (chunks : List Nat) : Restore := ⟨[12, 16], chunks, 0, [(0, 3)], none, true, []⟩
def replay : State := laddered { bound2 with ltarget := 5, llen := 5 }

theorem ladder_calm : Calm ladder := ⟨by decide, by decide⟩
theorem test_witness_ladderSteps : start.boundStream = none ∧ Calm start ∧ ladder.boundStream = some bound2 ∧ Calm ladder ∧
    (laddered { bound2 with restore := some (restore [0]) }).boundStream = some { bound2 with restore := some (restore [0]) } ∧
    1 ≤ 2 ∧ 2 ≤ bound2.llen ∧ bound2.cairnAt 2 ≠ none ∧ bound2.cairnAt 1 = none ∧ (2 ∉ bound2.pins ∧ bound2.pins.length < 16) ∧
    { bound2 with pins := [2] }.cairnAt 2 ≠ none ∧ (0x318 : Word) &&& 0xFFFFFFFFFFFFFCE0 = 0 ∧ (0x318 : Word).toNat % 32 ≤ 24 ∧ 24 < (0x19 : Word).toNat % 32 ∧
    SysForm ladder (.ltok 3 1) (.ltok 3 1) (.ltok 3) 1 2 4 ∧ SysForm ladder (.ladv 3 1) (.ladv 3 1) (.ladv 3) 1 2 4 ∧
    SysForm ladder (.wideSystemForm 0x318 (.lset 3)) (.lset 3 1) (.lset 3) 1 0x318 8 :=
  ⟨by decide, ⟨by decide, by decide⟩, by decide, ladder_calm, by decide, by decide, by decide, by decide, by decide, by decide, by decide, by decide, by decide,
    by decide, .inl ⟨rfl, by decide, rfl⟩, .inl ⟨rfl, by decide, rfl⟩, .inr ⟨0x318, rfl, by decide, rfl⟩⟩
/-- As `ladder`, with block 0 written since the last cut, and a cairn store of `n` MiB. -/
def storing (n : Nat) : State :=
  (laddered { bound2 with written := [0] }).setDie 0 { (laddered bound2).die 0 with storeMiB := n, dramMiB := 0, lpMiB := 0 }
theorem test_witness_ladv : bound2.lpos + 1 ≤ bound2.logcap ∧ ({ bound2 with lpos := 5 }).logcap < 5 + 1 ∧ bound2.lpos = bound2.ltarget + 2 ∧
    replay.boundStream = some { bound2 with ltarget := 5, llen := 5 } ∧ 2 < 5 ∧ replay.logToken { bound2 with ltarget := 5, llen := 5 } 3 = 0 ∧
    (storing 0).boundStream = some { bound2 with written := [0] } ∧ { bound2 with written := [0] }.toCopy = [0] ∧ (storing 0).cairnTotal 0 = 0 ∧
    ((storing 0).press 0 1).cairnUsed 0 = 0 ∧ (storing 1).cairnTotal 0 = 256 ∧ ((storing 1).press 0 1).cairnUsed 0 + 1 ≤ 256 ∧
    (((storing 1).press 0 1).findStream 0).isSome = true ∧ bound2.pa (bound2.logbase + 8) % 4 = 0 ∧ bound2.pa (bound2.logbase + 8) < 2 ^ 61 ∧
    ((storing 1).die 0).outbound = [] := by decide
theorem test_witness_pressure : ((storing 1).streams.map (fun t => t.id)).Nodup ∧
    (∀ t ∈ (storing 1).streams, t.cls < 4 ∧ (t.cairns.map (fun c => c.pos)).Pairwise (fun a b => a < b)) ∧
    (storing 1).cairnTotal 0 ≤ 16 * ((storing 1).cairnTotal 0 - ((storing 1).cairnUsed 0 + 1)) ∧
    16 * ((storing 1).cairnTotal 0 - ((storing 1).cairnUsed 0 + 255)) < (storing 1).cairnTotal 0 ∧
    victimOf { bound2 with cairns := [⟨0, []⟩, ⟨1, []⟩, ⟨2, []⟩] } [⟨0, []⟩, ⟨1, []⟩, ⟨2, []⟩] none = some 1 ∧ victimOf bound2 bound2.cairns none = none := by decide
theorem test_witness_lrewind : Calm ladder ∧ ladder.absent [] [3] [] = none ∧ SysForm ladder (.lrewind 3 5 1) (.lrewind 3 5 1) (.lrewind 3 5) 1 2 4 ∧
    bound2.restore = none ∧ 2 ≤ bound2.lpos ∧ bound2.lpos < 3 ∧ bound2.chunkCount ≤ ladder.bits ∧ (∃ c ∈ bound2.cairns, c.pos = 0) :=
  ⟨ladder_calm, by decide, .inl ⟨rfl, by decide, rfl⟩, by decide, by decide, by decide, by decide, ⟨_, List.mem_cons_self, rfl⟩⟩
def restoring : State := laddered { bound2 with restore := some { restore [0, 1] with exact := some 7 } }
theorem test_witness_restores : (laddered { bound2 with restore := some (restore [0, 1]) }).findStream 0 = some { bound2 with restore := some (restore [0, 1]) } ∧
    0 ∈ (restore [0]).chunks ∧ (∀ k ∈ (restore [0]).chunks, k = 0) ∧ (∃ k ∈ (restore [0, 1]).chunks, k ≠ 0) ∧ 5 ∉ (restore [0]).chunks :=
  ⟨by decide, by decide, by decide, ⟨1, by decide, by decide⟩, by decide⟩
theorem test_witness_restoreChunk : restoring.Inv ∧ restoring.findStream restoring.args.item = some { bound2 with restore := some { restore [0, 1] with exact := some 7 } } ∧
    restoring.args.chunk = 0 ∧ bound2.pa (segBlock bound2.segs 0) = 0x18000 ∧ bound2.pa (segBlock bound2.segs 1) = 0x19000 ∧ bound2.blockCount = 2 ∧
    (0x18000 / 2 ^ 16 = (0x18000 + 4095) / 2 ^ 16 ∧ 0x19000 / 2 ^ 16 = (0x19000 + 4095) / 2 ^ 16) ∧ 0x18000 + 4096 ≤ 0x19000 ∧ bound2.exws = [0x1E000] ∧
    bound2.pa 0x1E000 = 0x1E000 ∧ (∀ k, k < 0x20000 → Shown restoring k) ∧ (restoring.die 0).outbound = [] :=
  ⟨inv_of _ (by decide), by decide, by decide, by decide, by decide, by decide, by decide, by decide, by decide, by decide, fun k h => .inl (by omega), by decide⟩
theorem test_witness_lmatch : ladder.hart.cond ≠ .vacant ∧ Calm ladder ∧ ladder.boundStream = some bound2 ∧ bound2.restore = none ∧
    ({ ladder with hart := { ladder.hart with x := (two 0x10200 3).hart.x } }).loadTokens 0x10200 3 = .ok [0, 0, 0] ∧
    1 ≤ (3 : Word).toNat ∧ (3 : Word).toNat ≤ 65536 ∧ bound2.bound ≤ 1 ∧ bound2.copies = [] ∧ 1 < { bound2 with bound := 2 }.bound ∧
    { bound2 with copies := [0] }.copies ≠ [] ∧ 65536 < (65537 : Word).toNat :=
  ⟨by decide, ladder_calm, by decide⟩
def unbound (t : Stream) : State := { two 0 0 with streams := [t] }
/-- The record of a stream in the Tarn, with segments of its own at 0x14000. -/
def forkable : State :=
  { ladder.setX 1 0x7F0000000200 with mem := Sparse.setList 0 (Sparse.setList 0 ladder.mem (2 ^ 60 + 0x200) (wordLe 8 0x10002 ++ wordLe 8 0x12000 ++ wordLe 8 9))
                                        (2 ^ 60 + 0x240) (wordLe 8 0x14000 ++ wordLe 8 2) }
def child : Stream := { idle with segs := [(0x14000, 2)], logbase := 0x12000, logcap := 9, exws := [] }
theorem unbound_calm (t : Stream) : Calm (unbound t) := ⟨rfl, rfl⟩
theorem test_witness_ladderBindings : (unbound idle).hart.cond ≠ .vacant ∧ (unbound idle).Inv ∧ Calm (unbound idle) ∧ (unbound idle).absent [] [3] [] = none ∧
    SysForm (unbound idle) (.lopen 3 5 1) (.lopen 3 5 1) (.lopen 3 5) 1 0 4 ∧ (unbound idle).hart.eng.stream = none ∧ ladder.hart.eng.stream ≠ none ∧
    ((unbound idle).streamsOf 0).find? (fun t => t.id == 0 && t.ctx == 1) = some idle ∧ ((unbound idle).streamsOf 0).find? (fun t => t.id == 1 && t.ctx == 1) = none ∧
    (unbound { idle with segs := [(0x80000, 2)] }).streamPages 0 { idle with segs := [(0x80000, 2)] } = none ∧ (unbound idle).streamPages 0 idle ≠ none ∧
    ({ unbound idle with hart := { (unbound idle).hart with id := { (unbound idle).hart.id with lanes := 0 } } }).bits < idle.chunkCount :=
  ⟨by decide, inv_of _ (by decide), unbound_calm _, by decide, .inl ⟨rfl, by decide, rfl⟩, by decide⟩
theorem test_witness_lopen (t : Stream) (h : t = idle ∨ t = bound2 ∨ t = { bound2 with bound := 0, swapped := true }) : (unbound t).Inv ∧ Calm (unbound t) ∧
    ((unbound t).streamsOf 0).find? (fun t => t.id == 0 && t.ctx == 1) = some t ∧ t.restore = none ∧ ((unbound t).streamPages 0 t).isSome = true ∧
    t.chunkCount ≤ (unbound t).bits := by
  obtain rfl | rfl | rfl := h
  all_goals exact ⟨inv_of _ (by decide), unbound_calm _, by decide⟩
def roomless : State := (unbound idle).setDie 0 { (unbound idle).die 0 with storeMiB := 0, dramMiB := 0, lpMiB := 0 }
theorem test_witness_lopen_cases : idle.cairns = [] ∧ bound2.cairns ≠ [] ∧ (bound2.cairnAt 2).isSome = true ∧
    ((unbound idle).press 0 idle.blockCount).cairnUsed 0 + idle.blockCount ≤ (unbound idle).cairnTotal 0 ∧
    roomless.cairnTotal 0 < (roomless.press 0 idle.blockCount).cairnUsed 0 + idle.blockCount ∧
    (restore [0]).rewind = true ∧ { restore [0] with rewind := false }.rewind = false := by decide
theorem test_witness_lfork : bound2.chunkCount ≤ forkable.bits ∧ forkable.boundStream = some bound2 ∧ (forkable.getX 1).toNat % 8 = 0 ∧
    (forkable.engineRecord (forkable.getX 1) 512).bind (streamOfRecord 1 0x100000) = some child ∧
    (forkable.streamPages 0 child).isSome = true ∧ child.segs.map (fun p => p.2) = bound2.segs.map (fun p => p.2) ∧ bound2.lpos ≤ child.logcap ∧
    forkable.freeStream 0 = some 1 := by decide

/-! Effects. -/

theorem framed_inv : framed.Inv := inv_of _ (by decide)
def theFrame : Frame := ⟨1, 1, 0xFFFF, 0, 0x10080, false, 7, 0x10040, 0x5000⟩
theorem test_witness_effectEntry : framed.hart.cond ≠ .vacant ∧ framed.Inv ∧ framed.hart.order = .start ∧ Handled framed 0x0001 0 0 theFrame ∧ Handled framed 0x0100 0 0 theFrame ∧
    SysForm (framed.setX 1 0x100) (.perform 3 1 2) (.perform 3 1 2) (.perform 3 2) 1 0x100 4 ∧
    (State.vl framed 3).absent [] [0] [] = none ∧
    0 < ((List.range 3).filter (fun e => ((State.vl framed 3).pred 0).testBit e)).length ∧
    ((List.range 3).filter (fun e => ((State.vl framed 3).pred 1).testBit e)).length = 0 ∧
    SysForm (framed.setX 1 0x100) (.vperform 0 3 1 2) (.vperform 0 3 1 2) (.vperform 0 3 2) 1 0x100 4 :=
  ⟨by decide, framed_inv, by decide, ⟨by decide, by decide⟩, ⟨by decide, by decide⟩, .inl ⟨rfl, by decide, rfl⟩, by decide, by decide, by decide,
    .inl ⟨rfl, by decide, rfl⟩⟩
theorem test_witness_handlerSearch : framed.hart.order = .start ∧ framed.getFrame 0 = .ok theFrame ∧ theFrame.matches 0x0001 false = true ∧ theFrame.matches 0x000E false = false ∧
    start.search (fun f => f.matches 0x0001 false) 256 start.hart.eff.srch = .nothing ∧ (∃ j, start.findJob start.hart.id.job = some j ∧ j.failed = none) :=
  ⟨by decide, by decide, by decide, by decide, by decide, _, rfl, by decide⟩
def pusher : State := (start.setX 1 0xFFFF0100).setX 2 0x10080
/-- Nine frames, the lowest of them in memory. -/
def deep : State := framed.setEff { framed.hart.eff with depth := 9, srch := 9, frames := List.replicate 8 { theFrame with priv := false } }
/-- In the handler, with memory as before. -/
def held : State := { handling with mem := start.mem }
def theToken : Token := (held.hart.eff.tokens[0]?).getD .unused
/-- As `deep`, with its spill slots nowhere. -/
def astray : State := deep.setEff { deep.hart.eff with hsp := 0x80000 }
def pushing (s : State) : State := { s with hart := { s.hart with x := pusher.hart.x } }
theorem test_witness_frameStack : pusher.hart.cond ≠ .vacant ∧ pusher.Inv ∧ pusher.hart.order = .start ∧ ((pusher.getX 1).toNat < 2 ^ 32 ∧ (pusher.getX 1).toNat % 2 ^ 16 ≠ 0 ∧
    (pusher.getX 1).toNat % 2 ^ 16 ≤ (pusher.getX 1).toNat / 2 ^ 16 ∧ (pusher.getX 2).toNat % 2 = 0 ∧ pusher.hart.eff.depth < 255) ∧
    pusher.hart.eff.depth < 8 ∧ works (deep.slotKey (9 - 8)) = true ∧ deep.hart.eff.frames[7]? = some { theFrame with priv := false } ∧ (pushing deep).getX 1 = pusher.getX 1 ∧
    (pushing astray).slotKey (9 - 8) = .error 0x0006 ∧ astray.getFrame (9 - 9) = .error 0x0006 ∧ deep.hart.eff.srch = deep.hart.eff.depth ∧ 8 < deep.hart.eff.depth ∧
    start.hart.eff.frames = [] ∧ framed.hart.eff.frames = [theFrame] ∧ framed.hart.eff.srch = framed.hart.eff.depth ∧ theFrame.exit ≠ 0 ∧ theFrame.priv = false ∧
    works (deep.getFrame (9 - 9)) = true ∧ held.hart.eff.tokens[0]? = some theToken ∧ theToken.kind ≠ .free ∧ theToken.frame = 1 - 1 ∧ theToken.serial = theFrame.serial ∧
    (framed.setEff { framed.hart.eff with frames := [{ theFrame with priv := true }] }).hart.eff.frames = [{ theFrame with priv := true }] ∧
    ({ theFrame with exit := 0 } : Frame).exit = 0 :=
  ⟨by decide, inv_of _ (by decide), by decide⟩

theorem held_inv : held.Inv := inv_of _ (by decide)
theorem test_witness_resumption : held.hart.cond ≠ .vacant ∧ held.Inv ∧ held.hart.order = .start ∧ held.findToken (held.getX 8) = .live 0 theToken theFrame ∧
    held.findToken 5 = .dead ∧ theFrame.priv = false ∧ SysForm held (.resume 8 1) (.resume 8 1) (.resume 8) 1 (held.getX 1) 4 ∧
    SysForm held (.abort 8 1) (.abort 8 1) (.abort 8) 1 (held.getX 1) 4 ∧ held.resumeVl 0 theToken ≤ 4096 * held.lanes ∧
    (∃ p, held.popFrames (held.hart.eff.depth - theToken.depth) = .ok p) ∧ theToken.kind = .oneShot ∧ theFrame.exit ≠ 0 ∧
    (∃ p, held.popFrames (held.hart.eff.depth - theToken.frame) = .ok p) ∧
    held.absent (namedRegs held.hart.eff.vcap.toNat) (namedPreds held.hart.eff.pcap.toNat) [] = none ∧
    tarnOffset 0x7F0000001000 (captureSize held.lanes 0 0) = some 0x1000 :=
  ⟨by decide, held_inv, by decide, by decide, by decide, by decide, .inl ⟨rfl, rfl, rfl⟩, .inl ⟨rfl, rfl, rfl⟩, by decide, ⟨_, rfl⟩, by decide, by decide, ⟨_, rfl⟩,
    by decide, by decide⟩
/-- As `held`, with another token in record 0. -/
def holding (o : Token) : State := held.setEff { held.hart.eff with tokens := held.hart.eff.tokens.setIfInBounds 0 o }
/-- Each reason of a dead token, met by itself. -/
theorem test_witness_deadTokens : (64 : Word).toNat / 2 ^ 6 % 2 ^ 26 ≠ 0 ∧ (held.getX 8).toNat / 2 ^ 6 % 2 ^ 26 = 0 ∧ (held.getX 8).toNat % 64 = 0 ∧
    ∀ o ∈ [theToken, { theToken with kind := .free }, { theToken with gen := 9 }, { theToken with frame := 5 }, { theToken with serial := 99 },
      { theToken with depth := 9 }, { theToken with topSerial := 77 }], (holding o).hart.eff.tokens[0]? = some o ∧
      works ((holding o).getFrame 0) = true ∧ (holding o).hart.eff.depth = 1 ∧ theFrame.serial = 1 := by decide
theorem test_witness_liveToken : theToken.kind ≠ .free ∧ theToken.gen.toNat = (held.getX 8).toNat / 2 ^ 32 ∧ theToken.frame < held.hart.eff.depth ∧
    held.getFrame theToken.frame = .ok theFrame ∧ theFrame.serial = theToken.serial ∧ theToken.depth ≤ held.hart.eff.depth ∧
    held.getFrame (theToken.depth - 1) = .ok theFrame ∧ theFrame.serial = theToken.topSerial := by decide
/-- The base frame of a supervisor has no exit (R297). -/
def base : Frame := { theFrame with exit := 0, priv := true }
def based : State := { held.setEff { held.hart.eff with frames := [base] } with transfers := [copying 3] }
theorem test_witness_abortBase : (based.setPriv { based.hart.priv with sup := true }).findToken (based.getX 8) = .live 0 theToken base ∧
    base.exit = 0 ∧ based.hasTransfers based.hart.key = true := by decide
theorem test_witness_multiShot : (held.setEff { held.hart.eff with tokens := held.hart.eff.tokens.setIfInBounds 0 { theToken with kind := .multiShot } }).findToken
    (held.getX 8) = .live 0 { theToken with kind := .multiShot } theFrame := by decide

def called (c : Condition) (s : State) : State :=
  { s with hart := { s.hart with cond := c, eff := { s.hart.eff with ppend := true, frames := [{ theFrame with priv := true }] } } }
theorem test_witness_preempt : (∃ f, (called .running framed).focus 0 = some f ∧ f.Inv ∧ f.hart.eff.ppend = true ∧ f.hart.eff.pmask = false ∧
    f.hart.eff.hold = false ∧ Handled f 0x000E 0 0 { theFrame with priv := true } ∧ f.hart.cond = .running) ∧
    (∃ f, (called (.waiting .bar) framed).focus 0 = some f ∧ f.hart.cond = .waiting .bar ∧ f.hart.preemptible = true ∧ f.hart.order = .start ∧ Handled f 0x000E 0 0 { theFrame with priv := true } ∧
      f.gang = some theGang ∧ f.hart.id.rank < 8) ∧
    start.hart.preemptible = false ∧ Handled framed 0x0001 0 0 theFrame ∧ Handled { framed with args := { framed.args with effect := 0x0004 } } 0x0004 0 0 theFrame :=
  ⟨⟨_, rfl, inv_of _ (by decide), by decide, by decide, by decide, ⟨by decide, by decide⟩, by decide⟩,
    ⟨_, rfl, by decide, by decide, by decide, ⟨by decide, by decide⟩, by decide, by decide⟩, by decide, ⟨by decide, by decide⟩, ⟨by decide, by decide⟩⟩
theorem test_witness_preempt_waits (w : Wait) (h : w = .elements 5 false ∨ w = .queue) : ∃ f, (called (.waiting w) framed).focus 0 = some f ∧
    f.hart.cond = .waiting w ∧ f.hart.preemptible = true ∧ f.hart.order = .start ∧ Handled f 0x000E 0 0 { theFrame with priv := true } := by
  obtain rfl | rfl := h
  all_goals exact ⟨_, rfl, by decide, by decide, by decide, ⟨by decide, by decide⟩⟩
def parked : State := { above with others := above.others.map (fun h => { h with cond := .parked 3 }) }
theorem test_witness_parking : above.hart.priv.sup = true ∧ above.findHart (8 * above.hart.id.core + 1) = some (above.others.headD .vacant) ∧
    (above.others.headD .vacant).isRunning = true ∧ (above.others.headD .vacant).eff.ppend = false ∧ (above.others.headD .vacant).key ≠ above.hart.key ∧
    (parked.others.headD .vacant).isRunning = false ∧ (parked.others.headD .vacant).cond = .parked 3 ∧
    freeBlock (parked.usedBlocks 0) 8 = some 8 ∧ freeBlock (parked.usedBlocks 0) 32 = none ∧ above.findHart 7 = none ∧
    above.hasTransfers above.hart.key = false ∧ above.hart.priv.reclaim = none ∧ ({ above with transfers := [copying 3] }).hasTransfers 0 = true ∧
    above.pends = [] ∧ above.hart.order = .start ∧ (asided (.fifo false 1 2) above).pends ≠ [] := by decide
/-- A request of the front end is pending. -/
def requested : State := above.setEff { above.hart.eff with ppend := true, requester := 0xFF }
theorem test_witness_park_request : requested.hart.eff.ppend = true ∧ requested.hart.eff.requester = 0xFF ∧ requested.hart.priv.sup = true ∧ requested.pends = [] ∧
    requested.hasTransfers requested.hart.key = false ∧ (∃ j, requested.findJob requested.hart.id.job = some j ∧ requested.linkUp requested.dieOf j.die = true) ∧
    requested.Inv :=
  ⟨by decide, by decide, by decide, by decide, by decide, ⟨_, rfl, by decide⟩, inv_of _ (by decide)⟩
/-! The front end. -/

/-- Die 0 with the command `c`, whose SEQ a step names, and queue 3 of context 1, of LSIZE 4 and PRIO 2, its ring at 0x10400. -/
def queued (words : List Nat) (s : State) : State := { s with mem := Sparse.setList 0 s.mem (2 ^ 62 + 0xC0) (words.flatMap (natLe 8)) }
def ring (head tail : Nat) : List Nat := [0x10404, tail, head, 2 ^ 63 + 2 * 2 ^ 48 + 1, 0x100000, 0]
def commandOf (us : List Nat) : Command := ⟨1, 3, us.flatMap (natLe 8) ++ List.replicate (64 - 8 * us.length) 0, none, .accepted, none, [], none⟩
def commanding (c : Command) (s : State) : State :=
  { queued (ring 1 1) ((s.setDie 0 { s.die 0 with commands := [c], seq := 1 }).setDword (journalKey 0 1) 1) with args := { s.args with item := 1 } }
theorem picked_of (s : State) (op : Nat) (c : Command) (h : (s.findCommand s.argDie s.args.item == some c && c.phase == .accepted && !unitInd c.unit && c.op == op) = true) :
    Picked s op c := by
  simp only [Bool.and_eq_true, beq_iff_eq, Bool.not_eq_true'] at h
  exact ⟨h.1.1.1, h.1.1.2, h.1.2, h.2⟩

/-- A waiting gang of one hart of four lanes. -/
def pending : State := { start with jobs := start.jobs.map (fun j => { j with shares := [⟨0, 0, 1, [0], false, 1⟩] }), others := [] }
theorem test_witness_placement : ∃ w, pending.waitingGangs 0 = [w] ∧ ∃ r, pending.coreFor w.job 0 = some r ∧ (∀ c, c / 8 = 0 → c < 0 → pending.coreFor w.job c = none) :=
  ⟨_, rfl, _, rfl, fun c _ h => absurd h (by omega)⟩
theorem test_witness_placement_waits : ∀ w ∈ start.waitingGangs 0, ∀ c, c / 8 = 0 → start.coreFor w.job c = none := by
  have e : start.waitingGangs 0 = [] := by decide
  rw [e]; intro w m; cases m
/-- The job of command 1 has no gang left. -/
def closing (s : State) : State := { s with hart := .vacant, gangs := [], jobs := s.jobs.map (fun j => { j with seq := 1 }) }
/-- As `closing`, its card with signal `id` to add to. -/
def signing (id : Nat) (s : State) : State :=
  let u := closing (commanding (commandOf [1, 0x10100]) s)
  { u with jobs := u.jobs.map (fun j => { j with card := { j.card with sv := true, signal := id, sigval := 5 } }) }
theorem test_witness_jobEnds : (∃ j, start.findJob 1 = some j ∧ start.jobEnded j = false) ∧
    (∃ j, (closing (commanding (commandOf [1, 0x10100]) start)).findJob 1 = some j ∧ (closing (commanding (commandOf [1, 0x10100]) start)).jobEnded j = true ∧
      (closing (commanding (commandOf [1, 0x10100]) start)).findCommand j.die j.seq = some (commandOf [1, 0x10100]) ∧ j.failed = none ∧ j.card.slots = []) ∧
    (commandOf [1, 0x10100]).parent = none ∧ (∀ d < 4, (start.die d).outbound = []) ∧
    (closing (commanding (commandOf [1, 0x10100]) start)).getDword (journalKey 0 1) = 1 :=
  ⟨⟨_, rfl, by decide⟩, ⟨_, rfl, by decide⟩, by decide, by decide, by decide⟩
/-- A spread job whose share on die 0 is empty, while die 1 reported eight iterations. -/
def spread (hi : Nat) : State := { start with jobs := start.jobs.map (fun j =>
  { j with card := { j.card with spread := true, trips := 12, grain := 2 }, shares := [⟨0, 4, 4, [], false, 0⟩, ⟨1, 4, hi, [], false, hi - 4⟩] }) }
theorem test_witness_steals : (∃ j h v, (spread 12).findJob 1 = some j ∧ j.shares.find? (fun h => h.die == 0) = some h ∧ h.hi ≤ h.lo ∧ h.stopped = false ∧
      j.card.spread = true ∧ largestReport (j.shares.filter (fun o => o.die != 0 && (spread 12).linkUp 0 o.die)) = some v ∧ v.lo + (v.hi - v.lo + 1) / 2 < v.hi ∧
      max j.card.minchunk 1 < v.hi - v.lo) ∧
    (∃ j, (spread 5).findJob 1 = some j ∧ j.card.spread = true ∧ ∀ o ∈ j.shares, o.die ≠ 0 → o.hi - o.lo ≤ max j.card.minchunk 1) :=
  ⟨⟨_, _, _, rfl, rfl, by decide, by decide, by decide, rfl, by decide, by decide⟩, ⟨_, rfl, by decide, by decide⟩⟩

/-- Queue 3 pends on die 0, mapped to slot 0. -/
def scanning (words : List Nat) : State := queued words ((start.setDie 0 { start.die 0 with pend := [3], slots := [⟨0, 3, []⟩] }))
/-- As `scanning`, with a NOP command in the ring. -/
def ready : State := scanning (ring 0 1)
theorem test_witness_scan : (ready.die 0).pend = [3] ∧ ready.queueEnabled 0 3 = true ∧ 3 ∉ (ready.die 0).blocked ∧ ready.queueFault 0 3 = none ∧
    ((ready.die 0).slotOf 3).isSome = true ∧ ready.accepting 0 3 = false ∧ ready.openParent 0 3 = none ∧ 0 < ready.queueDepth 0 3 ∧ ready.queueDepth 0 3 = 1 ∧
    (ready.refreshSlot 0 3).slotDword 0 3 0 = 0x10404 ∧
    ((ready.refreshSlot 0 3).setQueueDword 0 3 2 1).frontRead (((ready.refreshSlot 0 3).setQueueDword 0 3 2 1).queueView 0 3) 0x10400 64 = some (List.replicate 64 0) ∧
    ((ready.refreshSlot 0 3).setQueueDword 0 3 2 1).acceptCheck 0 3 (List.replicate 64 0) false = .ok none ∧ unitInd (List.replicate 64 0) = false ∧
    (scanning [0x10404, 17, 0, 2 ^ 63 + 1, 0x100000, 0]).queueFault 0 3 = some 8 ∧ (scanning [0x10404, 16, 0, 2 ^ 63 + 1, 0x100000, 0]).queueFault 0 3 = none ∧
    (scanning [0x10403, 0, 0, 2 ^ 63 + 1, 0x100000, 0]).queueFault 0 3 = some 2 := by decide
/-- As `ready`, with a unit of an OP that is none. -/
def spoilt : State := { ready with mem := Sparse.setList 0 ready.mem 0x10400 [0x44] }
theorem test_witness_scanFails : spoilt.queueDepth 0 3 = 1 ∧
    ((spoilt.refreshSlot 0 3).setQueueDword 0 3 2 1).frontRead (((spoilt.refreshSlot 0 3).setQueueDword 0 3 2 1).queueView 0 3) 0x10400 64 =
      some (0x44 :: List.replicate 63 0) ∧
    ((spoilt.refreshSlot 0 3).setQueueDword 0 3 2 1).acceptCheck 0 3 (0x44 :: List.replicate 63 0) false = .error 2 := by decide
theorem ready_inv : ready.Inv := inv_of _ (by decide)
/-- A job of PRIO 5 waits for a die whose hart is of a job of PRIO 2, both with a supervisor. -/
def contended : State := { start with jobs := start.jobs.flatMap (fun j => [{ j with prio := 2, supent := 0x10080 },
  { j with key := 7, prio := 5, supent := 0x10080, shares := [⟨0, 0, 1, [0], false, 1⟩] }]) }
theorem test_witness_frontPreempt : (contended.die 0).pend = [] ∧ (contended.harts.map Hart.key).Nodup ∧ (contended.die 0).request = none ∧
    ∃ w, contended.waitingGangs 0 = [w] ∧ [w].find? (fun v => v.prio == w.prio && v.job.supent != 0) = some w ∧
      ((contended.jobsOn 0).filter (fun j => decide (j.prio < w.prio) && j.supent != 0 && !(contended.die 0).declined.contains j.key)).findSome?
        (fun j => (contended.requestTarget 0 j).map (fun k => (k, j.key))) = some (0, 1) := ⟨by decide, by decide, by decide, _, rfl, rfl, by decide⟩
def dormant : State := { start with hart := { start.hart with cond := .parked 3, eff := { start.hart.eff with lastFrontEnd := true } } }
theorem test_witness_frontWake : (dormant.harts.map Hart.key).Nodup ∧ dormant.waitingGangs 0 = [] ∧ dormant.hart ∈ dormant.harts ∧ dormant.hart.cond = .parked 3 ∧
    dormant.hart.eff.lastFrontEnd = true ∧ (∀ o ∈ dormant.harts, o.key ≠ dormant.hart.key → ∀ r, o.cond ≠ .parked r) ∧
    freeBlock (dormant.usedBlocks 0) 4 = some 0 := by
  have e : dormant.harts = [dormant.hart] := by decide
  refine ⟨by decide, by decide, by rw [e]; exact List.mem_singleton.mpr rfl, by decide, by decide, fun o m n => ?_, by decide⟩
  rw [e] at m
  exact absurd (congrArg Hart.key (List.mem_singleton.mp m)) n

def nopUnit : Command := commandOf [0]
theorem test_witness_plainCommands : (commanding nopUnit start).Inv ∧ (commanding nopUnit start).getDword (journalKey 0 1) = 1 ∧ Picked (commanding nopUnit start) 0 nopUnit ∧
    Picked (commanding (commandOf [6]) start) 6 (commandOf [6]) ∧ (commanding (commandOf [6]) start).earlierDone 0 (commandOf [6]) = true ∧
    Picked (signalled 5 (commanding (commandOf [3, 7, 2]) start)) 3 (commandOf [3, 7, 2]) ∧
    (signalled 5 (commanding (commandOf [3, 7, 2]) start)).ownsSignal 7 ((signalled 5 (commanding (commandOf [3, 7, 2]) start)).commandCtx (commandOf [3, 7, 2])) = true ∧
    (commanding (commandOf [3, 7, 2]) start).ownsSignal 7 1 = false ∧
    Picked (signalled 5 (commanding (commandOf [4, 7, 5]) start)) 4 (commandOf [4, 7, 5]) ∧ 5 ≤ (signalled 5 start).getDword (signalKey 7) ∧
    (signalled 5 start).getDword (signalKey 7) < 6 :=
  ⟨inv_of _ (by decide), by decide, picked_of _ _ _ (by decide), picked_of _ _ _ (by decide), by decide, picked_of _ _ _ (by decide), by decide, by decide,
    picked_of _ _ _ (by decide), by decide, by decide⟩
/-- Signal 7 of die 1 belongs to context 1, and every link is down. -/
def distant (s : State) : State := unlinked (s.setDie 1 { s.die 1 with signals := [(7, 1)] })
theorem test_witness_links : (signalled 5 start).linkUp 0 (signalDie 7) = true ∧ (distant start).linkUp 0 (signalDie 0x1007) = false ∧
    (distant start).ownsSignal 0x1007 1 = true ∧ (distant start).signalContext 0x1007 = some (distant start).hart.id.ctx ∧
    Picked (distant (commanding (commandOf [3, 0x1007, 2]) start)) 3 (commandOf [3, 0x1007, 2]) ∧
    Picked (distant (commanding (commandOf [4, 0x1007, 2]) start)) 4 (commandOf [4, 0x1007, 2]) ∧
    (signing 7 (signalled 5 start)).ownsSignal 7 1 = true ∧ (signing 0x1007 (distant start)).linkUp 0 (signalDie 0x1007) = false ∧
    (signing 0x1007 (distant start)).ownsSignal 0x1007 1 = true ∧ (signing 8 start).ownsSignal 8 1 = false ∧
    ∀ id ∈ [7, 8, 0x1007], ((signing id start).findJob 1).map (fun j => (j.card.sv, j.card.signal)) = some (true, id) :=
  ⟨by decide, by decide, by decide, by decide, picked_of _ _ _ (by decide), picked_of _ _ _ (by decide), by decide⟩
/-- A FENCE behind an earlier command of its queue. -/
def behind : State := (commanding (commandOf [6]) start).onDie 0 (fun d => { d with commands := ⟨0, 3, [], none, .started, none, [], none⟩ :: d.commands })
theorem test_witness_fenceWaits : Picked behind 6 (commandOf [6]) ∧ behind.earlierDone 0 (commandOf [6]) = false := ⟨picked_of _ _ _ (by decide), by decide⟩
/-- A JOB, its card at 0x10100 of one gang of `h` harts of four lanes. -/
def jobUnit : Command := { commandOf [1, 0x10100] with card := some loadCard }
def carded (h : Nat) : State :=
  { commanding jobUnit { start with jobs := [] } with
    mem := Sparse.setList 0 (commanding jobUnit start).mem 0x10100 ([0x10000, 0, 1, 0, 2 ^ 48 + 4 * 2 ^ 8 + h].flatMap (natLe 8)) }
def cardBytes (h : Nat) : List Byte := [0x10000, 0, 1, 0, 2 ^ 48 + 4 * 2 ^ 8 + h].flatMap (natLe 8) ++ List.replicate 216 0
/-- As `cardBytes`, with SV, its signal 7 of die 0. -/
def signedBytes : List Byte := [0x10000, 0, 1, 0, 2 ^ 48 + 4 * 2 ^ 8 + 1, 2 ^ 63 + 7].flatMap (natLe 8) ++ List.replicate 208 0
def signedCard : State := { commanding jobUnit start with mem := Sparse.setList 0 (commanding jobUnit start).mem 0x10100 signedBytes }
theorem test_witness_jobs : Picked (carded 8) 1 jobUnit ∧ (carded 8).launched 0 1 = false ∧ jobUnit.card = some loadCard ∧ (commandOf [1]).card = none ∧
    unitOk jobUnit.unit false = true ∧ acceptSignal jobUnit.unit = none ∧ unitDword jobUnit.unit 0 % 2 ^ 9 = 1 ∧
    (carded 8).frontRead ((carded 8).queueView 0 3) 0x10100 256 = some (cardBytes 8) ∧ cardOk (cardBytes 8) = true ∧ (cardOf 0x10100 (cardBytes 8)).shapeOk = true ∧
    (cardOf 0x10100 (cardBytes 9)).shapeOk = false ∧ cardOk (cardBytes 16) = false ∧ (cardOf 0x10100 (cardBytes 8)).sv = false ∧
    (commanding jobUnit start).frontRead ((commanding jobUnit start).queueView 0 3) 0x80000 256 = none ∧
    (∀ s ∈ [signedCard, signalled 5 signedCard], s.frontRead (s.queueView 0 3) 0x10100 256 = some signedBytes) ∧ cardOk signedBytes = true ∧
    (cardOf 0x10100 signedBytes).shapeOk = true ∧ (cardOf 0x10100 signedBytes).sv = true ∧ signedCard.ownsSignal 7 (signedCard.queueCtx 0 3) = false ∧
    (signalled 5 signedCard).ownsSignal 7 ((signalled 5 signedCard).queueCtx 0 3) = true ∧ unitOk [0x44] false = false ∧
    unitOk (commandOf [4, 7, 1]).unit false = true ∧ acceptSignal (commandOf [4, 7, 1]).unit = some 7 :=
  ⟨picked_of _ _ _ (by decide), by decide⟩
def indirectUnit : Command := { commandOf [0x100, 0x10400, 2] with left := [0, 1] }
/-- The same, started, so that its next buffer command is read. -/
def begun : Command := { indirectUnit with phase := .started }
def opened : State := (commanding begun start).updateCommand 0 1 (fun c => { c with left := [1] })
theorem test_witness_indirect : (commanding begun start).findCommand 0 1 = some begun ∧ (commanding begun start).accepting 0 3 = false ∧
    begun.left = 0 :: [1] ∧ opened.frontRead (opened.queueView 0 3) 0x10400 64 = some (List.replicate 64 0) ∧
    opened.acceptCheck 0 3 (List.replicate 64 0) true = .ok none := by decide
/-- A COPY with its record at 0x10200. -/
def copyUnit : Command := commandOf [2, 0x10100, 0x10000, 0x10200]
def copies : State := commanding copyUnit { start with mem := Sparse.setList 0 start.mem 0x10200 (natLe 8 64) }
theorem test_witness_copyCommands : copies.Inv ∧ Picked copies 2 copyUnit ∧
    copies.frontRead (copies.queueView 0 3) 0x10200 32 = some (natLe 8 64 ++ List.replicate 24 0) ∧ recordFields 64 0 0 0 = true ∧
    recordFields 0 0 0 0 = false ∧ copies.copyFirst copyUnit = true ∧ copies.channelFor 0 8 = true :=
  ⟨inv_of _ (by decide), picked_of _ _ _ (by decide), by decide⟩
def finished : State := { copies with transfers := [{ copying 3 with owner := .copy 0 1, pending := [] }] }
theorem test_witness_copyCompletes : finished.findCommand 0 1 = some copyUnit ∧
    finished.copyTransfer 0 1 = some { copying 3 with owner := .copy 0 1, pending := [] } := by decide
/-- STREAMADMIN with its result at 0x10300. -/
def adminUnit (sub a b : Nat) : Command := commandOf [5, sub, a, b, 0x10300]
theorem test_witness_streamAdmin (sub : Nat) (h : sub ∈ [1, 2, 3, 4, 5, 6, 7]) : Picked (commanding (adminUnit sub 0 0) start) 5 (adminUnit sub 0 0) ∧
    (commanding (adminUnit sub 0 0) start).frontWritable ((commanding (adminUnit sub 0 0) start).queueView 0 3) 0x10300 8 = true ∧
    unitDword (adminUnit sub 0 0).unit 1 = sub := by
  simp only [List.mem_cons, List.not_mem_nil, or_false] at h
  obtain rfl | rfl | rfl | rfl | rfl | rfl | rfl := h
  all_goals exact ⟨picked_of _ _ _ (by decide), by decide, by decide⟩
theorem test_witness_adminCases : start.cairnUsed 0 ≤ 256 * (1 + (start.die 0).dramMiB + (start.die 0).lpMiB) ∧ start.hart.waitsOn 7 = false ∧ start.others = [] ∧
    (wait (.qwait 7 5 4) start.hart).waitsOn 7 = true := by decide
theorem test_witness_adminFails : (commanding (adminUnit 1 0 0) start).frontWritable ((commanding (adminUnit 1 0 0) start).queueView 0 3) 0x80000 8 = false ∧
    (commanding (adminUnit 1 4 0) start).frontRead ((commanding (adminUnit 1 4 0) start).queueView 0 3) 0x80000 512 = none := by decide
theorem test_witness_adminStreams : (streamOfRecord 1 0x100000 (List.replicate 512 0) = none) ∧ start.freeStream 0 = some 0 ∧ (start.streamPages 0 child).isSome = true ∧
    ((unbound idle).streamsOf 0).find? (fun t => t.id == 0 && t.ctx == 1) = some idle ∧ (idle.bound = 0 ∧ idle.filling = false) ∧ bound2.bound ≠ 0 ∧
    (signalled 5 start).ownsSignal 7 1 = true ∧ start.ownsSignal 7 1 = false ∧ (start.die 0).signals.any (fun p => p.1 == 0) = false := by decide
/-! The fabric, the start of the module, errors and heat. -/

/-- A request of the fabric on die 0 with what it carries. -/
def sent (a : Word) (bs : List Byte) (control : Bool) (s : State) : State :=
  { s with args := { s.args with addr := a, bytes := bs, control := control, count := bs.length } }
theorem test_witness_fabric : start.Inv ∧ start.module.stage = .full ∧ State.reset.module.stage.answers = false ∧
    (sent 0x60000 [1, 2] true start).controlReach 0 0x60000 2 = true ∧ (sent 0x50000 [1] true start).controlReach 0 0x50000 1 = false ∧
    areaOf 0x60001 = .readWrite ∧ areaOf 0x13 = .readOnly ∧ areaOf 0x14 = .readWrite ∧
    (sent 0x10100 [1, 2] false start).memoryReach 0 0x10100 2 = true ∧ (sent 0xFFFFFFFFFFFFF [1, 2] false start).memoryReach 0 0xFFFFFFFFFFFFF 2 = false ∧
    (∃ a, start.journalReach 0 a 64 = true ∧ a = journalKey 0 1) ∧ ({ start.module with stage := .base }).stage ≠ .full :=
  ⟨start_inv, by decide, by decide, by decide, by decide, by decide, by decide, by decide, by decide, by decide, ⟨_, by decide, rfl⟩, by decide⟩
theorem test_witness_fabricRanges : (∀ k, ¬(64 * k + 8 < 0x60000 + 2 ∧ 0x60000 < 64 * k + 16 ∧ k < 4096)) ∧ ¬(0x80000 < 0x60000 + 2) :=
  ⟨fun k h => by omega, by decide⟩
/-- Queue 3 enabled with HEAD 0, as a TAIL write finds it. -/
theorem test_witness_tail : (scanning (ring 0 0)).queueEnabled 0 3 = true ∧ (scanning (ring 0 0)).queueRecordOk 0 3 = true ∧
    (scanning (ring 0 0)).queueHead 0 3 = 0 ∧ 2 ^ ((scanning (ring 0 0)).queueDword 0 3 0 % 32) = 16 ∧ start.queueEnabled 0 3 = false := by decide
theorem test_witness_giveUp : (∃ (s : State) (x : Transfer), s.transfers[0]? = some x ∧ x.key = s.args.item ∧ s.args.chunk ∈ x.pending) ∧
    ∃ (s : State) (x : Transfer), s.transfers[0]? = some x ∧ x.key ≠ s.args.item :=
  ⟨⟨{ start with transfers := [copying 3], args := { start.args with item := 9 } }, copying 3, by decide, by decide, by decide⟩,
    ⟨{ start with transfers := [copying 3] }, copying 3, by decide, by decide⟩⟩

/-- The module with a mailbox request of OP `op` and two operands. -/
def mailed (st : Stage) (op r1 r2 r3 : Nat) : State :=
  { State.reset with module := { Module.reset with stage := st, request := [op, r1, r2, r3].flatMap (natLe 8) } }
theorem test_witness_mailbox (op : Nat) (h : op ∈ [1, 2, 3, 4, 5, 6, 7]) : (mailed .base op 1 0 65536).Inv ∧ (mailed .base op 1 0 65536).module.stage.answers = true ∧
    (mailed .base op 1 0 65536).module.request ≠ [] ∧ (mailed .base op 1 0 65536).requestDword 0 % 2 ^ 8 = op ∧
    (mailed .base op 1 0 65536).requestDword 1 = 1 ∧ (mailed .base op 1 0 65536).requestDword 3 = 65536 := by
  simp only [List.mem_cons, List.not_mem_nil, or_false] at h
  obtain rfl | rfl | rfl | rfl | rfl | rfl | rfl := h
  all_goals exact ⟨inv_of _ (by decide), by decide⟩
theorem test_witness_mailboxRanges : 1 < (mailed .base 2 2 0 0).requestDword 1 ∧ 65536 < (mailed .base 2 0 0 65537).requestDword 3 ∧
    0x90000 ≤ (mailed .base 6 0x9FFE0 0 0).requestDword 1 ∧ (mailed .base 6 0x9FFE0 0 0).requestDword 1 + 32 ≤ 0xA0000 ∧
    (mailed .base 6 0x8FFFF 0 0).requestDword 1 < 0x90000 ∧ (∀ x ∈ State.reset.dies.toList, x.junction.toInt < 95 * 16) ∧
    (∃ x ∈ (State.reset.setDie 0 { Die.reset with junction := 95 * 16 }).dies.toList, 95 * 16 ≤ x.junction.toInt) :=
  ⟨by decide, by decide, by decide, by decide, by decide, by decide, ⟨{ Die.reset with junction := 95 * 16 }, by decide, by decide⟩⟩
/-- Of verification only refusals have a witness: which key is fused is a free value. -/
theorem test_witness_start : State.reset.module.stage = .held ∧ State.reset.slotErased 0 = true ∧
    ({ State.reset with mem := Sparse.setList 0 [] (Space.flash 0 0) [1] }).slotErased 0 = false ∧
    leNat (({ State.reset with mem := Sparse.setList 0 [] (Space.flash 0 0) [1] }).flashBytes 0 0 4) ≠ 0x4D465843 ∧
    State.reset.slotCode 0 ≠ 0 ∧ State.reset.slotCode 1 ≠ 0 ∧ State.reset.module.selected ≤ 1 := by decide
theorem test_witness_trainingFails : ∃ s : State, s.module.stage = .verified ∧ s.module.running = some 1 ∧ s.args.good = false :=
  ⟨{ State.reset with module := { Module.reset with stage := .verified, running := some 1 } }, by decide, by decide, by decide⟩

theorem test_witness_careAddresses : inCoreSram (2 ^ 60) = true ∧ (unlinked start).linkUp 0 1 = false ∧ start.linkUp 0 1 = true ∧
    splitStore 1 [⟨2 ^ 34, [1]⟩] = some (⟨2 ^ 34, [1]⟩, []) := by decide
theorem test_witness_care : start.Inv ∧ start.module.stage.answers = true ∧ State.reset.module.stage.answers = false ∧
    start.module.links.find? (fun l => l.d1 == 0 && l.d2 == 1) = some ⟨0, 1, 4, 0⟩ ∧ start.module.links.find? (fun l => l.d1 == 1 && l.d2 == 1) = none ∧
    (85 * 16 : BitVec 16).toInt = 1360 ∧ (105 * 16 : BitVec 16).toInt = 105 * 16 ∧ (start.setDie 0 { start.die 0 with outbound := [⟨0x10100, [1]⟩] }).module.stage.answers = true ∧
    splitStore 0 [⟨0x10100, [1]⟩] = some (⟨0x10100, [1]⟩, []) ∧ splitStore 1 [⟨0x10100, [1]⟩] = none :=
  ⟨start_inv, by decide⟩

/-! The machine. -/

theorem test_witness_stepTurn : (∀ d < 4, (start.die d).unsealed = []) ∧ start.prepare.hart.cond = .running ∧ start.prepare.hart.preemptible = false ∧
    start.prepare.fetchCode start.prepare.hart.pc = .ok (0x00000800, 0, 4) ∧ (start.prepare.fetched 0x00000800 0 4).heldBack 0x00000800 0 = false ∧
    start.hart.order = .start ∧ start.pends = [] := by decide
theorem test_witness_stepWaits : { start with hart := wait (.qwait 7 5 4) start.hart }.prepare.hart.cond = .waiting (.qwait 7 5 4) ∧
    { start with hart := wait (.qwait 7 5 4) start.hart }.prepare.hart.preemptible = false ∧
    { start with hart := wait (.qwait 7 5 4) start.hart }.prepare.heldBack 0x6500BC0B 0 = false ∧ decode 0x6500BC0B 0 = .ok (.qwait 11 12) := by decide
theorem test_witness_noInstruction : (0xFFFF : IWord).extractLsb' 0 16 = 0xFFFF#16 ∧ (State.reset.withFetchWord 32 0).fetchCode 0x10000 = .ok (0, 0, 4) := by decide
theorem test_witness_step : start.hart.cond = .running ∧ start.hart.preemptible = false ∧ start.agenda = [] ∧ (start.ticks + 1) % 16 ≠ 0 ∧
    start.fetchCode start.hart.pc = .ok (0x00000800, 0, 4) ∧ decode 0x00000800 0 = .ok (.addi 0 0 0) ∧
    (State.reset.withFetchWord 32 0).fetchCode 0x10000 = .ok (0, 0, 4) ∧ decode 0 0 = .error .unassignedFunction ∧
    (start.setPc 0x20000).fetchCode 0x20000 = .error (0x0004, 0x20000) ∧ isEvent .summitScan = true := by decide
theorem test_witness_spent : start.hart.order.early = [] ∧ cannotFault 0x00000800 = true ∧ cannotFault 0x0000A42E = false := by decide
theorem test_witness_invKept : ∃ t, step { start with agenda := [.event .declineDelay .none] } = .next t ∧ start.Inv := ⟨_, rfl, start_inv⟩
theorem test_witness_decodeEncode : Instr.wf (.add 3 1 2) = true ∧ isEvent (.add 3 1 2) = false ∧ Instr.wf .summitScan = true ∧ isEvent .summitScan = true := by decide
theorem test_witness_tokenDropped : held.hart.order.loads = [] ∧ ∃ n o f, held.findToken (held.getX 8) = .live n o f ∧ f.priv = false := ⟨by decide, 0, theToken, theFrame, by decide, by decide⟩

/-! ### Witnesses of single clauses -/

/-- An instruction waits in a queue of the hart that can still fault: a `vld`, or an `lmatch`. -/
def faulty (s : State) : State := asided (.later 0x0000A42E 0 true) s
def faultyLadder (s : State) : State := asided (.later 0x6005C14B 0 true) s
/-- A vector store that the scalar stream has read, before a scalar store to its byte. -/
def crossed : State :=
  State.setOrder data ⟨[⟨true, 0x10100, [1], none, false, true, false, none, 0, 0⟩, ⟨false, 0x10100, [2], none, false, false, false, none, 0, 0⟩], [], [], 0⟩
theorem test_witness_heldAccesses : (faulty (holdsBack none)).exposed = true ∧ (holdsBack none).exposed = false ∧
    (crossed.hart.order.stores[0]?).map (fun g => (g.vec, g.readBy false)) = some (true, true) ∧
    (crossed.hart.order.stores[1]?).map (fun h => h.vec) = some false ∧ Span 0x10100 1 0x10100 ∧
    ((holdsBack (some 2)).hart.order.stores[1]?).map (fun h => h.rel.isSome) = some true :=
  ⟨by decide, by decide, by decide, by decide, ⟨by decide, by decide⟩, by decide⟩
/-- A supervisor on a die whose other hart holds stores back. -/
def busy : State := { sup with others := [{ mate sup.hart with order := (holdsBack none).hart.order }] }
theorem test_witness_tlbinv : sup.holdersWait = false ∧ sup.holders = [] ∧ busy.holders ≠ [] ∧ busy.holdersWait = false ∧
    ({ busy with waits := [⟨1, .later 0x0000A42E 0 true, start.hart, false, none, 0, []⟩] }).holdersWait = true := by decide
/-- A release at hart scope, and one at die scope. -/
theorem test_witness_releases : ({ amo0 with ord := 2 }).ord.getLsbD 1 = true ∧ ({ amo0 with ord := 2 }).scope = 0#3 ∧
    ({ amo0 with ord := 3, scope := 2 }).ord.getLsbD 1 = true ∧ ({ amo0 with ord := 3, scope := 2 }).scope ≠ 0#3 ∧
    (holdsBack none).loose = true ∧ data.loose = false ∧ (holdsBack none).scalarSpot .store ((holdsBack none).getX 1) 8 = .ok 0x10100 := by decide
/-- As `record`, with a list at 0x10180. -/
def recordList : State := { record with mem := Sparse.setList 0 record.mem 0x10208 (natLe 8 0x10180) }
theorem test_witness_copyLists : recordList.loadRecord (recordList.getX 2) 4 = .ok [64, 0x10180, 0, 0] ∧
    recordOk 64 0x10180 0 0 (recordList.getX 1) (min 16384 recordList.bits) = true ∧ recordList.channelFor 0 0 = true ∧ recordList.exposed = false ∧
    recordList.resolve (copying 3).view .atomic 0x10180 = .ok (.local 0x10180) ∧ (∀ d < 4, (recordList.die d).outbound = []) := by decide
theorem test_witness_copyExposed : (faultyLadder record).exposed = true ∧ (faultyLadder record).queueHeld 1 = false ∧ (faultyLadder record).queueHeld 2 = false ∧
    (faultyLadder record).channelFor 0 0 = true ∧ (faultyLadder record).loadRecord ((faultyLadder record).getX 2) 4 = .ok [64, 0, 0, 0] ∧
    (copying 3).old = [] ∧ (copying 3).read = [] ∧ (copying 3).wrote = [] := by decide
theorem test_witness_bindWaits : (asided (.bind 5 (BindRecord.ofWords bindWords) 8) binder).pends = [⟨0, .bind 5 (BindRecord.ofWords bindWords) 8, binder.hart, false, none, binder.ticks, []⟩] ∧
    (5 : Reg) ∈ (asided (.bind 5 (BindRecord.ofWords bindWords) 8) binder).boundRegs 5 ∧
    (faultyLadder binder).exposed = true ∧ (faultyLadder binder).channelFor 0 0 = true := by decide
theorem test_witness_fifoExposed : (faultyLadder (fifos 15 .running)).exposed = true ∧ (faultyLadder (fifos 15 .running)).queueHeld 1 = false ∧
    ((faultyLadder (fifos 15 .running)).moveToken true 1 2).outside = (faultyLadder (fifos 15 .running)).outside :=
  ⟨by decide, by decide, rfl⟩
/-- A list in the Tarn, which no store of the chunk moves. -/
theorem test_witness_badLists : 0 ∉ (copying 3).gaveUp ∧ (moving []).chunkData packing 0 = .error 2 ∧
    (∀ (k : Acc) (o : Word) (u : State), o = 0 ∨ o = 8 → k = .atomic ∨ k = .store → u.module = (moving []).module →
      u.resolve (copying 3).view k (0x7F0000000100 + o) = .ok (.local (2 ^ 60 + 0x100 + o.toNat))) ∧
    (∀ j, Span 0x10100 64 j → ¬ Span (2 ^ 60 + 0x100) 16 j) := by
  refine ⟨by decide, by decide, fun k o u ho hk hm => ?_, fun j a b => by
    unfold Span at a b; omega⟩
  have r (key : Nat) : u.retiredAt key = (moving []).retiredAt key := by unfold State.retiredAt; rw [hm]
  have l (key : Nat) : u.localSpot key = (moving []).localSpot key := by unfold State.localSpot; rw [r]
  have t (k : Acc) (a : Word) (h : a.toNat / 2 ^ 40 = 0x7F) : u.resolve (copying 3).view k a = (moving []).resolve (copying 3).view k a := by
    unfold State.resolve
    simp only [h, l, if_true]
  obtain rfl | rfl := ho <;> obtain rfl | rfl := hk <;> exact (t _ _ (by decide)).trans (by decide)
theorem test_witness_lrewindWaits : (laddered { bound2 with restore := some (restore [0]) }).absent [] [3] [] = none ∧
    SysForm (laddered { bound2 with restore := some (restore [0]) }) (.lrewind 3 5 1) (.lrewind 3 5 1) (.lrewind 3 5) 1 2 4 :=
  ⟨by decide, .inl ⟨rfl, by decide, rfl⟩⟩
/-- A die with `n` streams, one of them the hart's. -/
def crowded (n : Nat) : State := { forkable with streams := List.replicate n bound2 }
theorem test_witness_lforkFull (n : Nat) (h : 2 ^ 20 ≤ n) : (crowded n).boundStream = some bound2 ∧ (crowded n).freeStream (crowded n).dieOf = none := by
  have k : n ≠ 0 := by omega
  have e : (crowded n).streamsOf (crowded n).dieOf = List.replicate n bound2 := by
    show (List.replicate n bound2).filter (fun t => streamDie t.id == forkable.dieOf) = _
    exact List.filter_replicate_of_pos (by decide)
  refine ⟨?_, ?_⟩
  · rw [State.boundStream]
    show ((List.replicate n bound2).find? _) = _
    rw [List.find?_replicate, if_neg k, if_pos (by decide)]
  · rw [State.freeStream, e, List.length_replicate, if_pos h]
/-- The parent with other lengths, or with more log than the child holds. -/
theorem test_witness_lforkFails : (start.boundStream = none) ∧ (forkable.setX 1 1).getX 1 = 1 ∧ (1 : Word).toNat % 8 ≠ 0 ∧
    (forkable.engineRecord 0x7F0000000400 512).bind (streamOfRecord 1 0x100000) = none ∧
    forkable.streamPages 0 { child with segs := [(0x80000, 2)] } = none ∧
    child.segs.map (fun p => p.2) ≠ ({ bound2 with segs := [(0x18000, 3)] } : Stream).segs.map (fun p => p.2) ∧
    child.logcap < ({ bound2 with lpos := 10 } : Stream).lpos ∧
    ({ forkable with hart := { forkable.hart with id := { forkable.hart.id with lanes := 0 } } }).bits < bound2.chunkCount := by decide
theorem test_witness_lforkLog : ∃ pages, forkable.streamPages 0 child = some pages ∧
    let spot (j : Nat) : Nat := ({ child with pages := pages } : Stream).pa (child.logbase + 4 * j)
    (∀ j < bound2.lpos, spot j = 0x12000 + 4 * j) ∧ (∀ k < 0x20000, Shown forkable k) ∧ (forkable.die 0).outbound = [] :=
  ⟨_, rfl, by decide, fun k h => .inl (by omega), by decide⟩

/-! Effects. -/

/-- Records 0 to 62 are in use, and record 63 as `last` says; the only frame has privilege `p`. -/
def used (p : Bool) (last : TokenKind) : State := framed.setEff { framed.hart.eff with
  frames := [{ theFrame with priv := p }],
  tokens := Vector.ofFn (fun i => { Token.unused with kind := if i.val = 63 then last else .oneShot }) }
/-- The block of a byte is retired. -/
def retired (key : Nat) (s : State) : State := { s with module := { s.module with retiredBlocks := [key / 2 ^ 16] } }
/-- A token of the log in a retired block; a store that met a restore. -/
theorem test_witness_ladderLost : (retired 0x10000 ladder).logRetired bound2 1 1 = true ∧ ladder.logRetired bound2 1 5 = false ∧
    ladder.retiredAt 0x18000 = false ∧ ({ restore [0, 1] with stored := [(0x18FFF, 2)] } : Restore).wasStored 0x19000 = true ∧
    ({ restore [0, 1] with stored := [(0x18FFF, 2)] } : Restore).wasStored 0x19001 = false := by decide
theorem test_witness_exhausted :
    (used true .free).search (fun f => f.matches 0x0001 false) 256 (used true .free).hart.eff.srch = .frame 0 { theFrame with priv := true } ∧
    (used true .free).freeToken (List.range 63) = none ∧ (used true .free).freeToken [63] = some 63 ∧ (used true .oneShot).freeToken [63] = none ∧
    (used true .free).search (fun f => f.priv && f.matches 0x000D true) 256 (used true .free).hart.eff.srch = .frame 0 { theFrame with priv := true } ∧
    (used false .free).search (fun f => f.priv && f.matches 0x000D true) 256 (used false .free).hart.eff.srch = .nothing ∧
    (used true .free).retiredAt ((used true .free).recordKey 63 0) = false := by decide
theorem test_witness_retiredRecord : (retired (framed.recordKey 0 0) framed).retiredAt ((retired (framed.recordKey 0 0) framed).recordKey 0 0) = true ∧
    (retired (framed.recordKey 0 0) framed).freeToken (List.range 63) = some 0 ∧
    (retired (framed.recordKey 0 0) framed).search (fun f => f.matches 0x0001 false) 256 1 = .frame 0 theFrame := by decide
/-- A push onto nine frames whose slot lies in a retired block of the partition; slots at either end of the partition and just past its top. -/
theorem test_witness_frameSlots : (retired (2 ^ 61 + 32) (pushing deep)).slotKey (9 - 8) = .error 0x0007 ∧
    (pushing deep).hart.eff.hsp = 0x7F0100000000 + BitVec.ofNat 64 (4096 * (pushing deep).hart.priv.sdbase.toNat) ∧
    (let top := 128 * ((pushing deep).hart.priv.sdlim.toNat - (pushing deep).hart.priv.sdbase.toNat)
     0 < top ∧ works ((pushing deep).slotKey 0) = true ∧ works ((pushing deep).slotKey (top - 1)) = true ∧ (pushing deep).slotKey top = .error 0x0006) := by
  decide
/-- As `astray`, its frames linked to the one whose slot is nowhere. -/
def chainedFrames : State := astray.setEff { astray.hart.eff with frames := List.replicate 8 { theFrame with link := 1, priv := false } }
theorem test_witness_spillFault : chainedFrames.search (fun f => f.matches 0x000E false) 256 chainedFrames.hart.eff.srch = .spillFault 0x0006 ∧
    (pushing astray).hart.eff.depth < 255 ∧ (pushing astray).getX 1 = pusher.getX 1 ∧ (pushing astray).getX 2 = pusher.getX 2 ∧
    astray.hart.eff.frames = { theFrame with priv := false } :: List.replicate 7 { theFrame with priv := false } ∧
    astray.hart.eff.srch = astray.hart.eff.depth := by decide
/-- The token of `held`, multi-shot, its capture at Tarn offset 0x100000. -/
def many : Token := { theToken with kind := .multiShot, capaddr := 0x7F0000100000 }
theorem test_witness_lostTokens : (∃ tr, (retired (held.recordKey 0 0) held).lostTarn (held.recordAddr 0) 128 .load = some tr) ∧
    (retired (held.recordKey 0 0) held).findToken (held.getX 8) = .live 0 theToken theFrame ∧
    (holding many).findToken (held.getX 8) = .live 0 many theFrame ∧ held.lostTarn (held.recordAddr 0) 128 .load = none ∧
    (retired (2 ^ 60 + 0x100000) (holding many)).lostTarn (held.recordAddr 0) 128 .load = none ∧
    (∃ tr, (retired (2 ^ 60 + 0x100000) (holding many)).lostTarn many.capaddr ((retired (2 ^ 60 + 0x100000) (holding many)).captureBytes many) .load = some tr) ∧
    (holding many).lostTarn many.capaddr ((holding many).captureBytes many) .load = none :=
  ⟨⟨_, rfl⟩, by decide, by decide, by decide, by decide, ⟨_, rfl⟩, by decide⟩
/-- The capture of `many` says that VL was 20000. -/
def long : State := (holding many).setMem (Sparse.setList 0 held.mem (2 ^ 60 + 0x100000 + 248) (natLe 8 20000))
/-- A token taken below the top frame, and the slots of deeper frames nowhere. -/
def low : Token := { theToken with frame := 7, depth := 8, topSerial := 1 }
def sunk : State := (holding low).setEff { (holding low).hart.eff with depth := 9, srch := 9, frames := List.replicate 8 theFrame, hsp := 0x80000 }
theorem test_witness_resumeFails : long.hart.mat.m = false ∧ 4096 * long.lanes < long.resumeVl 0 many ∧ long.findToken (long.getX 8) = .live 0 many theFrame ∧
    sunk.findToken (sunk.getX 8) = .live 0 low theFrame ∧ sunk.resumeVl 0 low ≤ 4096 * sunk.lanes ∧
    (∃ e, sunk.popFrames (sunk.hart.eff.depth - low.depth) = .error e) ∧ sunk.lostTarn (sunk.recordAddr 0) 128 .load = none ∧
    (asided (.fifo false 1 2) based).pends ≠ [] :=
  ⟨by decide, by decide, by decide, by decide, by decide, ⟨_, rfl⟩, by decide⟩
theorem test_witness_preemptWithdraws : (∃ f p, (asided (.fifo false 1 2) (called .running framed)).focus 0 = some f ∧ f.hart.preemptible = true ∧
      f.pends.find? (fun p => !p.acted) = some p ∧ p.before.cond = .running ∧ p.before.order = .start ∧
      (let g := (({ f with hart := p.before } : State).setPends (f.pends.filter (fun p => p.acted)))
       g.search (fun f => f.matches 0x000E false) 256 1 = .frame 0 { theFrame with priv := true } ∧ g.freeToken (List.range 63) = some 0 ∧
       g.retiredAt (g.recordKey 0 0) = false ∧ g.hart.cond = .running)) ∧
    (∀ p ∈ ({ start with waits := [⟨0, .fifo false 1 2, start.hart, true, none, 0, []⟩] } : State).pends, p.acted = true) :=
  ⟨⟨_, _, rfl, by decide, rfl, by decide⟩, by decide⟩
/-- In M mode, with a reclaim pending. -/
def gridPark : State := above.setMat { above.hart.mat with m := true }
theorem test_witness_parkModes : gridPark.hart.mat.m = true ∧ gridPark.hart.priv.sup = true ∧ gridPark.pends = [] ∧ gridPark.hasTransfers gridPark.hart.key = false ∧
    gridPark.hart.order = .start ∧ (gridPark.setPriv { gridPark.hart.priv with reclaim := some 2 }).hart.priv.reclaim = some 2 ∧
    above.hart.mat.m = false := by decide

/-! The front end, the fabric and the order of turns. -/

/-- Two stretches of the section of `pending`'s job; the Tarn of core 0 belonged to context 2. -/
def sectioned (j : Job) : State := { pending with module := { pending.module with
  tarnSections := [(j.ctx, j.card.addr, 0, [1]), (j.ctx, j.card.addr, 64, [2, 3]), (9, 0, 0, [4])],
  tarnContext := pending.module.tarnContext.setIfInBounds 0 (some 2) } }
theorem test_witness_sections : ∃ j, pending.findJob 1 = some j ∧
    (let mine := (sectioned j).module.tarnSections.filter (fun p => p.1 == j.ctx && p.2.1 == j.card.addr)
     mine = [(j.ctx, j.card.addr, 0, [1]), (j.ctx, j.card.addr, 64, [2, 3])] ∧
     mine.Pairwise (fun p q => p.2.2.1 + p.2.2.2.length ≤ q.2.2.1 ∨ q.2.2.1 + q.2.2.2.length ≤ p.2.2.1)) ∧
    (sectioned j).module.tarnContext[0]? = some (some 2) ∧ j.ctx ≠ 2 ∧ Memory.wf (sectioned j).mem = true ∧
    (∃ w, (sectioned j).waitingGangs 0 = [w] ∧ w.job = j ∧ (sectioned j).coreFor w.job 0 ≠ none) :=
  ⟨_, rfl, by decide, by decide, by decide, by decide, _, rfl, rfl, by decide⟩
/-- The job of `closing`, spread, with every link down. -/
def cutOff : State :=
  let u := closing (commanding (commandOf [1, 0x10100]) start)
  unlinked { u with jobs := u.jobs.map (fun j => { j with card := { j.card with spread := true } }) }
theorem test_witness_unreached : (∃ j, cutOff.findJob 1 = some j ∧ cutOff.jobEnded j = true ∧ j.failed = none ∧ j.card.spread = true ∧
      cutOff.linkUp j.die 1 = false ∧ cutOff.findCommand j.die j.seq = some (commandOf [1, 0x10100])) ∧
    Picked (unlinked (commanding { jobUnit with card := some { loadCard with spread := true } } start)) 1 { jobUnit with card := some { loadCard with spread := true } } ∧
    (unlinked (commanding jobUnit start)).linkUp 0 1 = false ∧ (commanding jobUnit start).linkUp 0 1 = true ∧ loadCard.spread = false :=
  ⟨⟨_, rfl, by decide⟩, picked_of _ _ _ (by decide), by decide⟩
theorem test_witness_farSignal : Picked (distant (commanding (adminUnit 7 0x1007 0) start)) 5 (adminUnit 7 0x1007 0) ∧
    (distant (commanding (adminUnit 7 0x1007 0) start)).ownsSignal 0x1007 1 = true ∧
    (distant (commanding (adminUnit 7 0x1007 0) start)).linkUp 0 (signalDie 0x1007) = false ∧
    (distant (commanding (adminUnit 7 0x1007 0) start)).commandCtx (adminUnit 7 0x1007 0) = 1 := ⟨picked_of _ _ _ (by decide), by decide⟩
/-- As `ready`, its queue not mapped; with `n` other queues mapped, of PRIO 0. -/
def unmapped (n : Nat) : State := ready.setDie 0 { ready.die 0 with slots := (List.range n).map (fun i => ⟨i, i + 100, []⟩) }
theorem test_witness_mapping : (unmapped 0).queueFault 0 3 = none ∧ (unmapped 0).queueEnabled 0 3 = true ∧ ((unmapped 0).die 0).slotOf 3 = none ∧
    (unmapped 0).queueGang 0 3 = 0 ∧ ((unmapped 0).die 0).slots.length + 1 ≤ 64 ∧ (queued [0x10404, 1, 0, 2 ^ 63 + 5 * 2 ^ 16 + 1, 0x100000, 0] (unmapped 0)).queueGang 0 3 = 5 ∧
    64 < ((unmapped 64).die 0).slots.length + 1 ∧ ((unmapped 64).die 0).slotOf 3 = none ∧ (unmapped 64).queueFault 0 3 = none := by decide
/-- The full table, its queues of the PRIO of queue 3. -/
theorem test_witness_noSlot : let s := State.setDie ready 0 { ready.die 0 with slots := (List.range 64).map (fun i => ⟨i, i + 100, [0, 0, 0, 2 * 2 ^ 48].flatMap (natLe 8)⟩) }
    (s.die 0).slotOf 3 = none ∧ ∀ e ∈ (s.die 0).slots, s.scanPrio 0 3 ≤ s.queuePrio 0 e.queue := by decide
/-- Region 2 is a page of remote window 0; chunk 0 of a transfer reaches it in the middle of its source, of its destination, or of neither. -/
def windowed : State := { start with mem := Sparse.setList 0 start.mem 0x203010 (natLe 8 0x2023D), args := { start.args with item := 9, control := true } }
theorem test_witness_giveUpPieces : windowed.resolve (copying 3).view .load 0x20000 = .ok (.remote 0 0x20000) ∧
    piecesOf 0x1FFE0 64 = [(0x1FFE0, 32), (0x20000, 32)] ∧ piecesOf 0x10000 64 = [(0x10000, 64)] ∧
    windowed.resolve (copying 3).view .load 0x10000 = .ok (.local 0x10000) ∧ windowed.resolve (copying 3).view .store 0x10100 = .ok (.local 0x10100) ∧
    windowed.resolve (copying 3).view .store 0x20000 = .ok (.remote 0 0x20000) ∧ 0 ∈ (copying 3).pending ∧ windowed.args.chunk = 0 ∧
    windowed.cbfStart { packing with src := 0x1FFE0 } 0 = .ok 0x1FFE0 := by decide
/-- A `vld` of no element waits in its queue behind nothing; a `tkget` waits for a token. -/
theorem test_witness_stepQueues : (faulty start).prepare.hart.preemptible = false ∧ (faulty start).prepare.runLater.isSome = true ∧
    (let p := (asided (.fifo false 1 2) (start.setPc 0x20000)).prepare
     p.hart.preemptible = false ∧ p.runLater.isNone = true ∧ p.pends ≠ [] ∧ p.hart.cond = .running ∧ p.fetchCode p.hart.pc = .error (0x0004, 0x20000)) ∧
    (called .running framed).prepare.hart.preemptible = true ∧ start.prepare.runLater.isNone = true := by decide
/-- As `ready`, with an indirect unit of two buffer commands at 0x10600, both NOP. -/
def indirectReady : State := { ready with mem := Sparse.setList 0 ready.mem 0x10400 ([0x100, 0x10600, 2].flatMap (natLe 8)) }
theorem test_witness_scanIndirect :
    let s1 := (indirectReady.refreshSlot 0 3).setQueueDword 0 3 2 1
    let u := [0x100, 0x10600, 2].flatMap (natLe 8) ++ List.replicate 40 0
    let s2 := s1.acceptUnit 0 3 0x10400 none
    let p : Command := ⟨1, 3, u, none, .accepted, none, [0, 1], none⟩
    let s3 := (s2.startCommand 0 p).updateCommand 0 p.seq (fun c => { c with left := p.left.tail })
    (s1.frontRead (s1.queueView 0 3) 0x10400 64 = some u ∧ s1.acceptCheck 0 3 u false = .ok none ∧ unitInd u = true ∧ s2.openParent 0 3 = some p) ∧
    s3.frontRead (s3.queueView 0 3) (BitVec.ofNat 64 (unitDword u 1)) 64 = some (List.replicate 64 0) ∧
    s3.acceptCheck 0 3 (List.replicate 64 0) true = .ok none := by
  intro s1 u s2 p s3
  refine ⟨by decide, ?_, by decide⟩
  have r : s1.frontRead (s1.queueView 0 3) 0x10400 64 = some u := by decide
  have a : s1.acceptCheck 0 3 u false = .ok none := by decide
  have m : Laws.SameLow s1 s3 := Laws.sameLow_trans (Laws.sameLow_trans (Laws.sameLow_acceptUnit s1 3 0x10400 u none r a) (Laws.sameLow_startCommand s2 p))
    (Laws.sameLow_updateCommand _ _ _)
  have v : s3.queueView 0 3 = frontView 0 1 0x100000 := by
    have e : s3.queueView 0 3 = s1.queueView 0 3 := by
      obtain ⟨e, f⟩ : ∃ e, (s1.die 0).slotFor 3 = some e := ⟨_, rfl⟩
      have g : (s3.die 0).slotFor 3 = some e := by rw [← f]; simp only [Die.slotFor, m.slots]
      simp only [State.queueView, State.queueCtx, State.queueRoot, State.slotDword, f, g]
    exact e.trans (by decide)
  exact Laws.frontRead_low s1 s3 m (by decide) _ v _ (by decide) (by decide) (by decide)

end Sys2Proof.Tests
end

/-! PROOF. Words that are no instruction (R41): the lemmas it rests on, and the theorem that settles it. -/

/-! ### A delivery is over: the hart runs or has halted, and has read nothing early

After the meaning of IllegalInstruction, `answered` asks whether the hart waits for an engine and `spent` drops what its vector stream read early.
A delivery starts with an acquire (R136), and nothing that it does afterwards reads early, so both leave it as it is. -/

section
namespace Sys2Proof.Proofs

open Sys2Proof.Machine Sys2Proof.Laws

/-! #### Operations that do not touch the hart -/

@[simp] theorem writeHome_hart (s : State) (key : Nat) (bs : List Byte) : (s.writeHome key bs).hart = s.hart := by
  unfold State.writeHome; split <;> rfl

@[simp] theorem noteStale_hart (s : State) (die key n : Nat) : (s.noteStale die key n).hart = s.hart := by
  unfold State.noteStale; split <;> rfl

@[simp] theorem writeFrom_hart (s : State) (die key : Nat) (bs : List Byte) : (s.writeFrom die key bs).hart = s.hart := by
  unfold State.writeFrom; dsimp only; split <;> simp

@[simp] theorem writeOwn_hart (s : State) (key : Nat) (bs : List Byte) : (s.writeOwn key bs).hart = s.hart := writeFrom_hart _ _ _ _

@[simp] theorem drain_hart (s : State) (die : Nat) : (s.drain die).hart = s.hart :=
  List.foldlRecOn (motive := fun (t : State) => t.hart = s.hart) _ _ rfl (fun t h (o : OutStore) _ => (writeHome_hart t o.pa o.bytes).trans h)

@[simp] theorem noteUse_hart (s : State) (v : View) (a : Word) : (s.noteUse v a).hart = s.hart := by
  unfold State.noteUse; dsimp only
  split
  · rfl
  · split <;> rfl

@[simp] theorem noteUse_waits (s : State) (v : View) (a : Word) : (s.noteUse v a).waits = s.waits := by
  unfold State.noteUse; dsimp only
  split
  · rfl
  · split <;> rfl

@[simp] theorem notePieces_hart (s : State) (v : View) (a : Word) (n : Nat) : (s.notePieces v a n).hart = s.hart :=
  List.foldlRecOn (motive := fun (t : State) => t.hart = s.hart) _ _ rfl (fun t h p _ => (noteUse_hart t v p.1).trans h)

@[simp] theorem notePieces_waits (s : State) (v : View) (a : Word) (n : Nat) : (s.notePieces v a n).waits = s.waits :=
  List.foldlRecOn (motive := fun (t : State) => t.waits = s.waits) _ _ rfl (fun t h p _ => (noteUse_waits t v p.1).trans h)

/-! #### Where nothing was read early, nothing is after a held access is performed -/

@[simp] theorem forget_early {o : OrderState} (h : o.early = []) (key n : Nat) : (o.forget key n).early = [] := by
  simp [OrderState.forget, h]

theorem saw_early {o : OrderState} (h : o.early = []) (vec : Bool) (key n : Nat) : (o.saw vec key n).early = [] :=
  forget_early h key n

theorem sawVector_early {s : State} (h : s.hart.order.early = []) (spots : List (Nat × Nat)) : (s.sawVector spots).hart.order.early = [] :=
  List.foldlRecOn (motive := fun (t : State) => t.hart.order.early = []) _ _ h (fun _ ht (p : Nat × Nat) _ => saw_early ht true p.1 p.2)

theorem finishLoad_early {s : State} (h : s.hart.order.early = []) (l : HeldLoad) : (s.finishLoad l).hart.order.early = [] := by
  cases l with
  | scalar rd key n sx =>
    show (State.setX _ _ _).hart.order.early = []
    rw [setX_hart_order]
    exact saw_early h false key n
  | vector vd nibble size es => exact sawVector_early h _

theorem finishLoads_early {s : State} (h : s.hart.order.early = []) (p : HeldLoad → Bool) : (s.finishLoads p).hart.order.early = [] :=
  List.foldlRecOn (motive := fun (t : State) => t.hart.order.early = []) _ _ h (fun _ ht l _ => finishLoad_early ht l)

theorem land_early {s : State} (h : s.hart.order.early = []) (q : HeldStore) : (s.land q).hart.order.early = [] := by
  unfold State.land
  cases q.rel with
  | none => dsimp only; split <;> simp [h]
  | some scope => dsimp only; split_ifs <;> simp [h]

theorem landWhere_early {s : State} (h : s.hart.order.early = []) (p : HeldStore → Bool) : (s.landWhere p).hart.order.early = [] := by
  unfold State.landWhere
  dsimp only
  refine List.foldlRecOn (motive := fun (t : State) => t.hart.order.early = []) _ _ ?_ (fun _ ht q _ => land_early ht q)
  rw [setOrder_hart_order]
  split
  · exact finishLoads_early h _
  · exact h

theorem clearWay_early {s : State} (h : s.hart.order.early = []) (key n : Nat) : (s.clearWay key n).hart.order.early = [] :=
  forget_early (landWhere_early h _) key n

/-! #### Deliveries -/

theorem acquire_early (s : State) : s.acquire.hart.order.early = [] := rfl

/-- The hart waits for nothing, and its streams have read nothing early. -/
def Settled (s : State) : Prop := s.hart.order.early = [] ∧ ∀ w, s.hart.cond ≠ .waiting w

theorem settled_halt {s : State} (h : s.hart.order.early = []) (id : BitVec 16) : Settled (s.halt id) :=
  ⟨h, fun _ => Condition.noConfusion⟩

theorem settled_enter {s : State} (h : s.hart.order.early = []) (i k : Nat) (f : Frame) (t : Trap) (kind : BitVec 2) (vec : Bool)
    (resume : ResumeKind) (byRequest : Bool) : Settled (s.enter i k f t kind vec resume byRequest) := by
  have cleared : ((s.withdrawPends i).clearWay (s.recordKey i 0) 128).hart.order.early = [] :=
    clearWay_early (s := s.withdrawPends i) h _ _
  constructor
  · simpa [State.enter] using cleared
  · simp [State.enter]

theorem settled_deliver (s : State) (t : Trap) : Settled (s.deliver t) := by
  unfold State.deliver
  rcases deliverAs_cases s t 1 false (if t.underPf || s.hart.eff.underPf then .underPf else .again) false with
    ⟨_, h⟩ | ⟨_, _, _, _, _, h⟩ | ⟨_, _, _, _, _, _, h⟩ <;> rw [h]
  · exact settled_halt (acquire_early _) _
  · exact settled_enter (acquire_early _) _ _ _ _ _ _ _ _
  · exact settled_enter (acquire_early _) _ _ _ _ _ _ _ _

theorem startAfresh_settled {s : State} (h : Settled s) (q : BitVec 2) : s.startAfresh q = s := by
  obtain ⟨early, -⟩ := h
  unfold State.startAfresh
  rw [early, List.filter_nil, ← early]
  exact setOrder_self s

theorem spent_settled {s : State} (h : Settled s) (w : IWord) : spent w (.next s) = .next s := by
  simp [spent, startAfresh_settled h]

/-- Where no older instruction waits, an answer after which the hart waits for nothing stands. -/
theorem answered_settled {s t : State} (hp : s.pends = []) (h : Settled t) (w u : IWord) : s.answered w u (.next t) = .next t := by
  obtain ⟨-, notWaiting⟩ := h
  unfold State.answered
  simp [notWaiting, hp]

end Sys2Proof.Proofs
end

/-! ### The words as fetched -/

section
namespace Sys2Proof.Proofs

open Sys2Proof.Machine Sys2Proof.Laws

@[simp] theorem fetched_pends (s : State) (w u : IWord) (n : Nat) : (s.fetched w u n).pends = s.pends := by
  simp [State.fetched, State.pends, Hart.key]

/-- The words of a hart's instruction are the same in two states, so both raise IllegalInstruction with the same trap. -/
def SameWords (s t : State) : Prop := t.hart.iw0 = s.hart.iw0 ∧ t.hart.iw1 = s.hart.iw1

theorem illegal_sameWords {s t : State} (h : SameWords s t) : t.illegal = s.illegal := by
  obtain ⟨first, second⟩ := h
  unfold State.illegal
  rw [first, second]

theorem sameWords_trans {s t u : State} (h : SameWords s t) (k : SameWords t u) : SameWords s u := by
  obtain ⟨h0, h1⟩ := h
  obtain ⟨k0, k1⟩ := k
  exact ⟨k0.trans h0, k1.trans h1⟩

theorem sameWords_sawVector (s : State) (spots : List (Nat × Nat)) : SameWords s (s.sawVector spots) :=
  List.foldlRecOn (motive := SameWords s) _ _ ⟨rfl, rfl⟩ (fun _ h _ _ => h)

theorem sameWords_finishLoad (s : State) (l : HeldLoad) : SameWords s (s.finishLoad l) := by
  cases l with
  | scalar rd key n sx => exact ⟨setX_hart_iw0 _ _ _, setX_hart_iw1 _ _ _⟩
  | vector vd nibble size es => exact sameWords_sawVector s _

theorem sameWords_finishLoads (s : State) (p : HeldLoad → Bool) : SameWords s (s.finishLoads p) :=
  List.foldlRecOn (motive := SameWords s) _ _ ⟨rfl, rfl⟩ (fun t h l _ => sameWords_trans h (sameWords_finishLoad t l))

theorem sameWords_readyFor (s : State) (w u : IWord) : SameWords s (s.readyFor w u) := by
  have finished : SameWords s (if s.hart.order.loads.isEmpty then s else s.finishLoads (fun l => !s.passes w u l)) := by
    split
    · exact ⟨rfl, rfl⟩
    · exact sameWords_finishLoads s _
  unfold State.readyFor
  dsimp only
  generalize (if s.hart.order.loads.isEmpty then s else s.finishLoads (fun l => !s.passes w u l)) = s1 at finished ⊢
  cases governorOf w u with
  | none => exact finished
  | some p => dsimp only; split <;> exact finished

/-- Where no older instruction waits, none can still fault. -/
theorem ahead_of_pends_nil {s : State} (h : s.pends = []) : s.ahead = s := by
  simp [State.ahead, State.exposed, h]

end Sys2Proof.Proofs
end

/-! ### Words that are no instruction (R41) -/

section
namespace Sys2Proof.Proofs

open Sys2Proof.Machine Sys2Proof.Laws

theorem exec_illegalInstruction (s : State) : exec .illegalInstruction s = .next (s.deliver s.illegal) := rfl

/-- Words that decode to nothing raise IllegalInstruction where no older instruction waits. -/
theorem attempt_undecoded {s : State} {w u : IWord} {e : DecodeError} (hd : decodeCode w u = .error e) (hp : s.pends = []) :
    s.attempt w u = .next ((s.readyFor w u).deliver (s.readyFor w u).illegal) := by
  have settled : Settled ((s.readyFor w u).deliver (s.readyFor w u).illegal) := settled_deliver _ _
  calc s.attempt w u = spent w (s.answered w u (exec .illegalInstruction (s.readyFor w u))) := by
        unfold State.attempt; rw [hd, ahead_of_pends_nil hp]; rfl
    _ = _ := by rw [exec_illegalInstruction, answered_settled hp settled, spent_settled settled]

/-- Words that are fetched and decode to nothing are those that the trap holds (R43). -/
theorem issue_undecoded {s : State} {w u : IWord} {n : Nat} {e : DecodeError} (hf : s.fetchCode s.hart.pc = .ok (w, u, n))
    (hd : decodeCode w u = .error e) (hp : s.pends = []) :
    s.issue = .next (((s.fetched w u n).readyFor w u).deliver (.plain effIllegal (w.setWidth 64) (u.setWidth 64))) := by
  have words : ((s.fetched w u n).readyFor w u).illegal = (s.fetched w u n).illegal := illegal_sameWords (sameWords_readyFor _ w u)
  calc s.issue = (s.fetched w u n).attempt w u := by unfold State.issue; rw [hf]
    _ = _ := by rw [attempt_undecoded hd ((fetched_pends s w u n).trans hp), words]; rfl

theorem decodeCode_fields_error {w u : IWord} {e : DecodeError} (h : decodeFields w u = .error e) : decodeCode w u = .error e := by
  unfold decodeCode; rw [h]

theorem decode_of_decodeCode_error {w u : IWord} {e : DecodeError} (h : decodeCode w u = .error e) : decode w u = .error e := by
  unfold decode; rw [h]

/-- Function zero of major 0x00 is not assigned (R41). -/
theorem decodeCode_system_zero {w : IWord} (u : IWord) (hm : w.extractLsb' 10 6 = 0x00#6) (hfn : w.extractLsb' 16 11 = 0x000#11) :
    decodeCode w u = .error .unassignedFunction := by
  have major : fMajor w = 0x00#6 := hm
  have function : fFn11 w = 0x000#11 := hfn
  refine decodeCode_fields_error ?_
  unfold decodeFields; rw [major]; show decodeSystem w = _
  unfold decodeSystem; rw [function]; rfl

theorem decodeCode_zero (u : IWord) : decodeCode 0x00000000 u = .error .unassignedFunction := decodeCode_system_zero u rfl rfl

/-- A field of the first parcel is read off the parcel. -/
theorem field_of_parcel {w : IWord} {p : Parcel} (h : w.extractLsb' 0 16 = p) (k l : Nat) (hkl : k + l ≤ 16) :
    w.extractLsb' k l = p.extractLsb' k l := by
  subst h
  ext i hi
  simp [show k + i < 16 by omega]

/-- The parcel 0xFFFF is of major 0x3F, with a value in W[9:5] that names no compressed form (R41, R44). -/
theorem decodeCode_ones {w : IWord} (u : IWord) (h : w.extractLsb' 0 16 = 0xFFFF#16) : decodeCode w u = .error .reservedValue := by
  have major : fMajor w = 0x3F#6 := field_of_parcel h 10 6 (by omega)
  have rd : fRd w = 0x1F#5 := field_of_parcel h 5 5 (by omega)
  refine decodeCode_fields_error ?_
  unfold decodeFields; rw [major]; show decodeCompressed w = _
  unfold decodeCompressed; rw [major, rd]; rfl

/-- Each kind of word that R41 calls permanently illegal decodes to nothing. -/
theorem decodeCode_permanentlyIllegal {w : IWord} (u : IWord)
    (h : w = 0 ∨ w.extractLsb' 0 16 = 0xFFFF#16 ∨ (w.extractLsb' 10 6 = 0x00#6 ∧ w.extractLsb' 16 11 = 0x000#11)) :
    ∃ e, decodeCode w u = .error e := by
  obtain rfl | ones | ⟨major, function⟩ := h
  · exact ⟨_, decodeCode_zero u⟩
  · exact ⟨_, decodeCode_ones u ones⟩
  · exact ⟨_, decodeCode_system_zero u major function⟩

/-- Settles O55: the three kinds of words fall to the default arms of their majors' decoders; the trap that they raise is delivered, and a delivery
leaves nothing that the hart waits for or has read early. -/
theorem noInstruction : Obligations.NoInstruction := by
  unfold Obligations.NoInstruction
  refine ⟨fun u => ⟨_, decode_of_decodeCode_error (decodeCode_zero u)⟩,
    fun w u major function => ⟨_, decode_of_decodeCode_error (decodeCode_system_zero u major function)⟩,
    fun w u ones => ⟨_, decode_of_decodeCode_error (decodeCode_ones u ones)⟩, exec_illegalInstruction, ?_⟩
  intro s w u n fetch illegal
  obtain ⟨e, undecoded⟩ := decodeCode_permanentlyIllegal u illegal
  exact ⟨issue_undecoded fetch undecoded, fun i decodes => by rw [undecoded] at decodes; cases decodes⟩

end Sys2Proof.Proofs
end

/-! PROOF. `addpc` and the `addi` of the remainder (R96, R98): the lemmas they rest on, and the theorem that settles O3. -/

section
namespace Sys2Proof.Proofs

open Sys2Proof.Machine Sys2Proof.Laws

/-! #### Word arithmetic over the integers -/

/-- Adding an integer to a word's value, modulo 2^64, is adding the word of that integer. -/
theorem ofInt_toNat_add (a : Word) (i : Int) : BitVec.ofInt 64 (a.toNat + i) = a + BitVec.ofInt 64 i := by
  rw [BitVec.ofInt_add, BitVec.ofInt_natCast, BitVec.ofNat_toNat, BitVec.setWidth_eq]

theorem twoPow_eq_ofInt (w n : Nat) : BitVec.twoPow w n = BitVec.ofInt w (2 ^ n) := by
  have cast : (2 : Int) ^ n = ((2 ^ n : Nat) : Int) := by push_cast; rfl
  rw [cast, BitVec.ofInt_natCast]
  exact BitVec.eq_of_toNat_eq (by rw [BitVec.toNat_twoPow, BitVec.toNat_ofNat])

/-- A sign-extended field shifted left holds the field's integer times the power of two, modulo 2^64. -/
theorem sext_shiftLeft {w : Nat} (v : BitVec w) (n : Nat) : sext v <<< n = BitVec.ofInt 64 (v.toInt * 2 ^ n) := by
  rw [BitVec.shiftLeft_eq_mul_twoPow, twoPow_eq_ofInt, BitVec.ofInt_mul]
  rfl

/-! #### The two instructions -/

theorem exec_addi (rd rs1 : Reg) (imm : BitVec 16) (s : State) :
    exec (.addi rd rs1 imm) s = .next (s.give rd (s.getX rs1 + sext imm) 4) := rfl

theorem exec_addpc (rd : Reg) (imm : BitVec 16) (s : State) :
    exec (.addpc rd imm) s = .next (s.give rd (s.hart.pc + sext imm <<< 16) 4) := rfl

theorem gives_addi (s : State) (rd rs1 : Reg) (imm : BitVec 16) (hc : s.hart.cond ≠ .vacant) :
    Gives (.addi rd rs1 imm) s 4 rd (BitVec.ofInt 64 ((s.getX rs1).toNat + imm.toInt)) := by
  rw [ofInt_toNat_add]
  exact gives_of _ s 4 rd _ hc (exec_addi rd rs1 imm s)

theorem gives_addpc (s : State) (rd : Reg) (imm : BitVec 16) (hc : s.hart.cond ≠ .vacant) :
    Gives (.addpc rd imm) s 4 rd (BitVec.ofInt 64 (s.hart.pc.toNat + imm.toInt * 2 ^ 16)) := by
  rw [ofInt_toNat_add, ← sext_shiftLeft]
  exact gives_of _ s 4 rd _ hc (exec_addpc rd imm s)

/-- `addpc` and then an `addi` of the same register form the address at the sum of the two immediates, the first one shifted. -/
theorem addpc_then_addi (s : State) (rd : Reg) (upper lower : BitVec 16) (hc : s.hart.cond ≠ .vacant) :
    ∃ t u, exec (.addpc rd upper) s = .next t ∧ exec (.addi rd rd lower) t = .next u ∧
      (rd ≠ 0#5 → u.getX rd = BitVec.ofInt 64 (s.hart.pc.toNat + (upper.toInt * 2 ^ 16 + lower.toInt))) := by
  obtain ⟨t, upperStep, ⟨running, -⟩, upperValue, -, -⟩ := gives_addpc s rd upper hc
  have occupied : t.hart.cond ≠ .vacant := by rw [running]; exact Condition.noConfusion
  obtain ⟨u, lowerStep, -, lowerValue, -, -⟩ := gives_addi t rd rd lower occupied
  refine ⟨t, u, upperStep, lowerStep, fun hrd => ?_⟩
  rw [if_neg hrd] at upperValue lowerValue
  calc u.getX rd = BitVec.ofInt 64 (s.hart.pc.toNat + upper.toInt * 2 ^ 16) + BitVec.ofInt 64 lower.toInt := by
        rw [lowerValue, ofInt_toNat_add, upperValue]
    _ = _ := by rw [← BitVec.ofInt_add, Int.add_assoc]

/-! #### A distance and its two immediates -/

/-- An integer that 16 bits hold in two's complement is what its immediate reads as. -/
theorem toInt_imm16 {v : Int} (low : -2 ^ 15 ≤ v) (high : v < 2 ^ 15) : (BitVec.ofInt 16 v).toInt = v :=
  BitVec.toInt_ofInt_eq_self (by decide) low high

/-- Settles O3: `addpc` adds the multiple of 64 KiB nearest to the distance, and both it and the remainder fit 16 bits, so that the two immediates
sum up to the distance. -/
theorem addpcResult : Obligations.AddpcResult := by
  unfold Obligations.AddpcResult
  intro s rd imm hc
  refine ⟨rfl, gives_addpc s rd imm hc, fun d low high => ?_⟩
  dsimp only
  generalize hupper : (d + 0x8000) / 2 ^ 16 = upper
  have upperFits : (BitVec.ofInt 16 upper).toInt = upper := toInt_imm16 (by omega) (by omega)
  have restFits : (BitVec.ofInt 16 (d - upper * 2 ^ 16)).toInt = d - upper * 2 ^ 16 := toInt_imm16 (by omega) (by omega)
  have formed := addpc_then_addi s rd (BitVec.ofInt 16 upper) (BitVec.ofInt 16 (d - upper * 2 ^ 16)) hc
  rw [upperFits, restFits, add_sub_cancel] at formed
  exact ⟨by omega, by omega, formed⟩

end Sys2Proof.Proofs
end
